-- ==== Sys2Proof/Word.lean ====
section
/-! DEFINITION. The word types of the Hokugar HKG-2400, and the types of the operands an instruction or an event carries. -/

namespace Sys2Proof

/-- A scalar register, system register or counter value: 64 bits (R71). -/
abbrev Word := BitVec 64
/-- One byte of memory. -/
abbrev Byte := BitVec 8
/-- An instruction syllable: 32 bits (R31). -/
abbrev Syl := BitVec 32
/-- A vector register: 4,096 bits (R71). -/
abbrev VReg := BitVec 4096
/-- A template: 256 bits (R53). -/
abbrev Tmpl := BitVec 256
/-- The image of a wide operation: 32 halfwords, of which a single template fills the low 16 (R53). -/
abbrev Image := BitVec 512
/-- An entry of the mask stack: one bit per nibble of a vector register (R71). -/
abbrev Mask := BitVec 1024
/-- The six sticky flags SAT NX UF OF DZ IV, in the layout of `sr.flags`[5:0] (R27). -/
abbrev Flags := BitVec 6

/-- The type code of a vector instruction, type[6:3] (R43), and of a copy's side (R208). -/
inductive ElemType where
  | i4 | i8 | i16 | i32 | n4 | n8 | n16 | n32 | bf16 | f16 | f32 | e4m3 | e5m2 | e3m2 | e2m3 | e2m1
  deriving DecidableEq, Repr, Inhabited

/-- A rounding code (R4): to nearest even, toward zero, down, up, stochastic, to nearest away. -/
inductive Rm where
  | rne | rz | rdn | rup | sr | rna
  deriving DecidableEq, Repr, Inhabited

/-- The agent whose instructions issue: the A and X strands, the T strand's main context (0) and dormant
contexts 1 to 4 (R67, R181), and the cluster controller (R289). -/
inductive Who where
  | a | x | t (ctx : Fin 5) | c
  deriving DecidableEq, Repr, Inhabited

/-- A lane group of a torus port (R381, R430): ports −x +x −y +y −z +z in that order. -/
structure LaneRef where
  port : Fin 6
  group : Fin 4
  deriving DecidableEq, Repr, Inhabited

/-- A fabric packet as its header flit carries it (R430): the operation fields and the payload as bytes. -/
structure Packet where
  dst : Nat
  src : Nat
  kind : Nat
  die : Nat
  core : Nat
  number : Nat
  op : List Byte
  payload : List Byte
  deriving DecidableEq, Repr, Inhabited

/-- A packet and the lane group that it comes on. -/
structure LanePacket where
  lane : LaneRef
  packet : Packet
  deriving DecidableEq, Repr, Inhabited

/-- A host physical address on a host port (R375, R380). -/
structure HostAddress where
  port : Fin 8
  addr : Nat
  deriving DecidableEq, Repr, Inhabited

/-- An access to a register block: its offset and its size in bytes (R384). A write of the operator that sets an Ethernet port's
address, with the UDP port as its value, names the port and the IPv6 address instead: R432 has it made through the physical function,
and R384 gives it no offset (DESIGN CHOICE, log entry 144). -/
structure BlockAccess where
  offset : Nat
  size : Nat
  ethernet : Option (Fin 8 × List Byte)
  deriving DecidableEq, Repr, Inhabited

/-- Where an uncorrectable error of a core's own stores falls (R175); a cached line is named by its place in the core's list. -/
inductive LocalPlace where
  | scratch (line : Nat) | accumulator (line : Nat) | cache (i : Nat)
  deriving DecidableEq, Repr, Inhabited

/-- Where an uncorrectable error of the die or of HBM falls (R359): a clean L2 line, an RDC line or a cached translation by its
place in its list, a dirty line of the L2 under a tensor tag (by its place) or without one, a line of HBM, the line of a counter, a
waiter entry by its place, a status word, or state with no owner. -/
inductive EccPlace where
  | cleanL2 (i : Nat) | rdcLine (i : Nat) | translation (i : Nat) | dirtyTagged (i : Nat) | dirtyFlat (line : Nat) | hbm (line : Nat)
  | counterLine (line : Nat) | waiter (i : Nat) | statusWord (die : Fin 24) (part : Fin 16) | unowned
  deriving DecidableEq, Repr, Inhabited

/-- What the debugger reads or writes of a halted core (R276), 64 bits at a time: wide values are named with their 64-bit part. -/
inductive DebugTarget where
  | x (w : Who) (r : Fin 64) | v (w : Who) (r part : Fin 64) | p (w : Who) (r : Fin 16) | mask (depth part : Fin 16) | maskDepth
  | pc (w : Who) | sysreg (w : Who) (n : Fin 4096) | template (w : Who) (r : Fin 64) (quarter : Fin 4)
  | replayCount (w : Who) | descriptor (w : Who) (i : Fin 24) (high : Bool) | replayValue (w : Who) (i : Fin 24) (part : Fin 256)
  | replayStore (w : Who) (slot : Fin 24) (part : Fin 256) | nestState (w : Who) (part : Fin 16)
  | maskMode | maskBase | slot (n : Fin 8) | lut (w : Who) (part : Fin 64)
  | counter (n : Fin 64) | link (n : Fin 64) | slack (n : Fin 64) | tile (n : Fin 64) | ring (n : Fin 8)
  | dataEntry (q : Fin 8) (entry : Fin 16) (part : Fin 8) | queueState (q : Fin 8) | entryState (q : Fin 8) (entry : Fin 16)
  | branchState (toX : Bool) | queueStatus (q : Fin 8) | command (q : Fin 8) (i : Nat) (part : Fin 16)
  | cursor (q : Fin 8) (i : Nat) (high : Bool) | commandPhase (q : Fin 8) (i : Nat)
  | startCount | startRequest (i : Fin 16) (field : Fin 4)
  | scratch (address : Nat) | accumulator (address : Nat) | blockFlags (plane : Fin 32) | incompleteMap
  | memoryCounter (va : Nat) | waiterTarget (va i : Nat) | waiterCluster (va i : Nat)
  deriving DecidableEq, Repr, Inhabited

/-- The SPDM requests the trust controller answers (R389). -/
inductive SpdmRequest where
  | getMeasurements (part : Fin 16) | getCertificate (slot : Fin 18) | keyExchange | finish | keyUpdate
  deriving DecidableEq, Repr, Inhabited

end Sys2Proof
end

