-- ==== Sys2Proof/Config.lean ====
section
/-! DEFINITION. What an implementation fixes and the spec leaves open: free values, which nothing in Lean can evaluate, and
the cryptographic primitives whose outputs the model treats as free (log entries 2, 4 and 5). -/

namespace Sys2Proof

/-- A free 64-bit value, drawn with a counter of the state (log entry 2). -/
opaque Config.freeWord : Nat → Word
/-- Whether a line that the spec neither requires nor forbids in an L2 is present there (R345, log entry 2). -/
opaque Config.freeBit : Nat → Bool
/-- The n-th 64-byte draw of the trust controller's DRBG (R387, log entry 4). -/
opaque Config.drbg : Nat → BitVec 512
/-- The monitor readings of R384 and R395, by register offset and reading (log entry 5). -/
opaque Config.monitor : Nat → Nat → Word
/-- ML-DSA-87 signatures over a message by the key of a seed, and their verification under a public key (R387, log entry 4). -/
opaque Config.sign : List Byte → List Byte → List Byte
/-- The ML-DSA-87 public key of a seed. -/
opaque Config.publicKey : List Byte → List Byte
opaque Config.verify : List Byte → List Byte → List Byte → Bool
/-- The device secret in fuses, the hash of the verified firmware, and the certificate of the device identity (R387, log entry 4). -/
opaque Config.deviceSecret : List Byte
opaque Config.firmwareDigest : List Byte
opaque Config.identityCertificate : List Byte
/-- The answers of the SPDM session requests, whose contents the spec does not give, by request and draw (R389, log entry 4). -/
opaque Config.spdmAnswer : Nat → Nat → List Byte
/-- ML-KEM-1024 encapsulation of a key to a recipient (R393, log entry 4). -/
opaque Config.encapsulate : List Byte → List Byte → List Byte
/-- The number of the data key that the key service decapsulates from an encapsulation (R393, log entry 4). -/
opaque Config.decapsulate : List Byte → Nat
/-- The mode of a host port in the boot configuration, by boot and port (R375, log entry 5): 0 PCIe, 1 CXL toward the host, 2 CXL toward a
pool. -/
opaque Config.bootMode : Nat → Fin 8 → Fin 3
/-- AES-256-XTS of a 512-byte sector under a partition key (R385, log entry 4). -/
opaque Config.sectorCipher : BitVec 512 → Nat → List Byte → List Byte
/-- What a 512-byte sector of ciphertext reads as under a partition key and a tweak (R385, log entry 4). -/
opaque Config.sectorPlain : BitVec 512 → Nat → List Byte → List Byte

end Sys2Proof
end

