-- ==== Sys2Proof/Syntax.lean ====
section
/-! DEFINITION. The syntax: one constructor per row of the table of operations and events.

The first 208 constructors are the strand instructions (R45 to R52, R58), with their operand fields by their names in the
table (the stop bit belongs to the group, R33, not to the instruction). The constructors named after wide operations
(R56) are the steps in which an engine starts the head command of its queue and performs its accesses; the command's
operands are its image, which State holds in the queue. The others are the events of the table: what the machine does
by itself, and what the outside world does to it. An event of the machine acts on the first part of the state that is due
for it. The constructors without operands stand last: a constructor with operands must be among the first 244 for Lean to
compile terms of it. -/

namespace Sys2Proof

/-- One step of the machine: an instruction, an engine operation or an event. -/
inductive Instr where
  /-- R118: Raises SOFTWARE_TRAP with the code in sr.tval; trap entry follows R84. -/
  | trap (c : Fin 64)
  /-- R118: Writes the cycles since core reset to x[d]. -/
  | rdcyc (d : Fin 64)
  /-- R119: Returns a field, or the whole, of the work identifier. -/
  | rdwid (d : Fin 64) (f : Fin 8)
  /-- R118: Reads a system register into x[d] at latency 2. -/
  | rdsr (d : Fin 64) (n : Fin 4096)
  /-- R118: Writes x[a] to a system register, effective at latency 2. -/
  | wrsr (n : Fin 4096) (a : Fin 64)
  /-- R120: Blocks until earlier commands to the selected engines have signalled. -/
  | fenceE (a : Fin 64)
  /-- R90: x[d] gets x[a] + x[b]. -/
  | add (d : Fin 64) (a : Fin 64) (b : Fin 64)
  /-- R90: x[d] gets x[a] - x[b]. -/
  | sub (d : Fin 64) (a : Fin 64) (b : Fin 64)
  /-- R90: x[d] gets the low 64 bits of the product. -/
  | mul (d : Fin 64) (a : Fin 64) (b : Fin 64)
  /-- R90: High 64 bits of the signed 128-bit product. -/
  | mulhI64 (d : Fin 64) (a : Fin 64) (b : Fin 64)
  /-- R90: High 64 bits of the unsigned 128-bit product. -/
  | mulhN64 (d : Fin 64) (a : Fin 64) (b : Fin 64)
  /-- R90: Signed quotient truncated toward zero. -/
  | divI64 (d : Fin 64) (a : Fin 64) (b : Fin 64)
  /-- R90: Unsigned quotient. -/
  | divN64 (d : Fin 64) (a : Fin 64) (b : Fin 64)
  /-- R90: Signed remainder with the dividend's sign. -/
  | remI64 (d : Fin 64) (a : Fin 64) (b : Fin 64)
  /-- R90: Unsigned remainder. -/
  | remN64 (d : Fin 64) (a : Fin 64) (b : Fin 64)
  /-- R90: Signed minimum. -/
  | minI64 (d : Fin 64) (a : Fin 64) (b : Fin 64)
  /-- R90: Unsigned minimum. -/
  | minN64 (d : Fin 64) (a : Fin 64) (b : Fin 64)
  /-- R90: Signed maximum. -/
  | maxI64 (d : Fin 64) (a : Fin 64) (b : Fin 64)
  /-- R90: Unsigned maximum. -/
  | maxN64 (d : Fin 64) (a : Fin 64) (b : Fin 64)
  /-- R90: Absolute value of x[a] as signed. -/
  | abs (d : Fin 64) (a : Fin 64)
  /-- R90: Bitwise AND. -/
  | and (d : Fin 64) (a : Fin 64) (b : Fin 64)
  /-- R90: Bitwise OR. -/
  | or (d : Fin 64) (a : Fin 64) (b : Fin 64)
  /-- R90: Bitwise XOR. -/
  | xor (d : Fin 64) (a : Fin 64) (b : Fin 64)
  /-- R90: x[a] AND NOT x[b]. -/
  | andn (d : Fin 64) (a : Fin 64) (b : Fin 64)
  /-- R91: Shift left by the amount in x[b]. -/
  | shl (d : Fin 64) (a : Fin 64) (b : Fin 64)
  /-- R91: Logical shift right by x[b]. -/
  | shr (d : Fin 64) (a : Fin 64) (b : Fin 64)
  /-- R91: Arithmetic shift right by x[b]. -/
  | sra (d : Fin 64) (a : Fin 64) (b : Fin 64)
  /-- R91: Rotate right by x[b]. -/
  | rot (d : Fin 64) (a : Fin 64) (b : Fin 64)
  /-- R91: Count leading zeros. -/
  | clz (d : Fin 64) (a : Fin 64)
  /-- R91: Count trailing zeros. -/
  | ctz (d : Fin 64) (a : Fin 64)
  /-- R91: Count set bits. -/
  | popc (d : Fin 64) (a : Fin 64)
  /-- R91: Shift left by an immediate amount. -/
  | shlImm (d : Fin 64) (a : Fin 64) (n : Fin 64)
  /-- R91: Logical shift right by an immediate amount. -/
  | shrImm (d : Fin 64) (a : Fin 64) (n : Fin 64)
  /-- R91: Arithmetic shift right by an immediate amount. -/
  | sraImm (d : Fin 64) (a : Fin 64) (n : Fin 64)
  /-- R91: Rotate right by an immediate amount. -/
  | rotImm (d : Fin 64) (a : Fin 64) (n : Fin 64)
  /-- R91: Selects x[a] or x[b] by predicate K. -/
  | sel (d : Fin 64) (a : Fin 64) (b : Fin 64) (k : Fin 16)
  /-- R91: x[a] + (x[b] << s). -/
  | lea (d : Fin 64) (a : Fin 64) (b : Fin 64) (s : Fin 8)
  /-- R90: x[a] plus a sign-extended 13-bit immediate. -/
  | addi (d : Fin 64) (a : Fin 64) (i : BitVec 13)
  /-- R90: Loads a sign-extended 13-bit immediate. -/
  | movi (d : Fin 64) (i : BitVec 13)
  /-- R91: Funnel shift of x[a]:x[b] right by n. -/
  | fsh (d : Fin 64) (a : Fin 64) (b : Fin 64) (n : Fin 64)
  /-- R91: Extracts a bit field, zero-extended. -/
  | bfxN64 (d : Fin 64) (a : Fin 64) (w : Fin 64) (p : Fin 64)
  /-- R91: Extracts a bit field, sign-extended. -/
  | bfxI64 (d : Fin 64) (a : Fin 64) (w : Fin 64) (p : Fin 64)
  /-- R91: Inserts the low bits of x[a] into a field of x[d]. -/
  | bfi (d : Fin 64) (a : Fin 64) (w : Fin 64) (p : Fin 64)
  /-- R92: Predicate gets x[a] = x[b]. -/
  | cmpEq (d : Fin 16) (a : Fin 64) (b : Fin 64)
  /-- R92: Predicate gets x[a] != x[b]. -/
  | cmpNe (d : Fin 16) (a : Fin 64) (b : Fin 64)
  /-- R92: Signed less-than compare. -/
  | cmpLt (d : Fin 16) (a : Fin 64) (b : Fin 64)
  /-- R92: Signed greater-or-equal compare. -/
  | cmpGe (d : Fin 16) (a : Fin 64) (b : Fin 64)
  /-- R92: Unsigned less-than compare. -/
  | cmpLtu (d : Fin 16) (a : Fin 64) (b : Fin 64)
  /-- R92: Unsigned greater-or-equal compare. -/
  | cmpGeu (d : Fin 16) (a : Fin 64) (b : Fin 64)
  /-- R92: Predicate AND. -/
  | pand (d : Fin 16) (a : Fin 16) (b : Fin 16)
  /-- R92: Predicate OR. -/
  | por (d : Fin 16) (a : Fin 16) (b : Fin 16)
  /-- R92: Predicate XOR. -/
  | pxor (d : Fin 16) (a : Fin 16) (b : Fin 16)
  /-- R92: Predicate NOT. -/
  | pnot (d : Fin 16) (a : Fin 16)
  /-- R93: Loads 8 bytes from memory. -/
  | ld64 (d : Fin 64) (a : Fin 64) (o : BitVec 13)
  /-- R93: Loads 4 bytes zero-extended. -/
  | ldN32 (d : Fin 64) (a : Fin 64) (o : BitVec 13)
  /-- R93: Loads 4 bytes sign-extended. -/
  | ldI32 (d : Fin 64) (a : Fin 64) (o : BitVec 13)
  /-- R93: Posts an 8-byte store. -/
  | st64 (d : Fin 64) (a : Fin 64) (o : BitVec 13)
  /-- R93: Posts a 4-byte store. -/
  | st32 (d : Fin 64) (a : Fin 64) (o : BitVec 13)
  /-- R95: Loads 8 bytes from the scratchpad. -/
  | ldsp (d : Fin 64) (a : Fin 64) (o : BitVec 13)
  /-- R95: Stores 8 bytes to the scratchpad. -/
  | stsp (d : Fin 64) (a : Fin 64) (o : BitVec 13)
  /-- R93: Indexed byte load, zero-extended. -/
  | ldN8 (d : Fin 64) (a : Fin 64) (b : Fin 64)
  /-- R93: Indexed byte load, sign-extended. -/
  | ldI8 (d : Fin 64) (a : Fin 64) (b : Fin 64)
  /-- R93: Indexed halfword load, zero-extended. -/
  | ldN16 (d : Fin 64) (a : Fin 64) (b : Fin 64)
  /-- R93: Indexed halfword load, sign-extended. -/
  | ldI16 (d : Fin 64) (a : Fin 64) (b : Fin 64)
  /-- R93: Indexed byte store. -/
  | st8 (d : Fin 64) (a : Fin 64) (b : Fin 64)
  /-- R93: Indexed halfword store. -/
  | st16 (d : Fin 64) (a : Fin 64) (b : Fin 64)
  /-- R97: Reserves a queue entry and requests 64 bytes from memory for it. -/
  | ldq (q : Fin 8) (a : Fin 64) (b : Fin 64)
  /-- R97: Pops a queue entry and posts it as a 64-byte store. -/
  | stq (q : Fin 8) (a : Fin 64) (b : Fin 64)
  /-- R98: Pushes a scalar as a queue entry. -/
  | qpush (q : Fin 8) (a : Fin 64)
  /-- R98: Pops a queue entry into a scalar. -/
  | qpop (d : Fin 64) (q : Fin 8)
  /-- R98: Pushes a predicate into the outgoing branch-outcome queue. -/
  | bqpush (p : Fin 16)
  /-- R99: Memory-side atomic add. -/
  | amoAdd (d : Fin 64) (a : Fin 64) (b : Fin 64)
  /-- R99: Memory-side signed minimum. -/
  | amoMinI64 (d : Fin 64) (a : Fin 64) (b : Fin 64)
  /-- R99: Memory-side unsigned minimum. -/
  | amoMinN64 (d : Fin 64) (a : Fin 64) (b : Fin 64)
  /-- R99: Memory-side signed maximum. -/
  | amoMaxI64 (d : Fin 64) (a : Fin 64) (b : Fin 64)
  /-- R99: Memory-side unsigned maximum. -/
  | amoMaxN64 (d : Fin 64) (a : Fin 64) (b : Fin 64)
  /-- R99: Memory-side atomic AND. -/
  | amoAnd (d : Fin 64) (a : Fin 64) (b : Fin 64)
  /-- R99: Memory-side atomic OR. -/
  | amoOr (d : Fin 64) (a : Fin 64) (b : Fin 64)
  /-- R99: Memory-side atomic XOR. -/
  | amoXor (d : Fin 64) (a : Fin 64) (b : Fin 64)
  /-- R99: Memory-side atomic exchange. -/
  | amoXchg (d : Fin 64) (a : Fin 64) (b : Fin 64)
  /-- R99: Memory-side compare-and-swap against x[d]. -/
  | amoCas (d : Fin 64) (a : Fin 64) (b : Fin 64)
  /-- R99: Memory-side binary32 add. -/
  | amoFaddF32 (d : Fin 64) (a : Fin 64) (b : Fin 64)
  /-- R99: Memory-side BF16 add. -/
  | amoFaddBf16 (d : Fin 64) (a : Fin 64) (b : Fin 64)
  /-- R100: Memory-side binary32 maximum. -/
  | amoFmaxF32 (d : Fin 64) (a : Fin 64) (b : Fin 64)
  /-- R100: Memory-side BF16 maximum. -/
  | amoFmaxBf16 (d : Fin 64) (a : Fin 64) (b : Fin 64)
  /-- R101: Adds to a memory counter as a release and releases satisfied waiters. -/
  | cadd (c : Fin 8) (a b : Fin 64)
  /-- R102: Reads a memory counter as an acquire. -/
  | cread (d : Fin 64) (a : Fin 64) (c : Fin 8)
  /-- R103: Compares a counter with a target and continues or registers a waiter. -/
  | cwait (d : Fin 64) (a : Fin 64) (b : Fin 64)
  /-- R106: Adds to a local counter, subject to its ceiling. -/
  | kadd (d : Fin 64) (a : Fin 64)
  /-- R106: Blocks until a local counter reaches x[b], then acquires. -/
  | kwait (a : Fin 64) (b : Fin 64)
  /-- R106: Reads a local counter. -/
  | kread (d : Fin 64) (a : Fin 64)
  /-- R108: Sets or removes the ceiling link of a local counter. -/
  | klink (d : Fin 64) (a : Fin 64) (b : Fin 64)
  /-- R109: Branches always. -/
  | br (i : BitVec 18)
  /-- R109: Branches when the predicate is 1. -/
  | bp (p : Fin 16) (i : BitVec 18)
  /-- R109: Branches when the predicate is 0. -/
  | bpF (p : Fin 16) (i : BitVec 18)
  /-- R109: Pops the incoming branch-outcome queue and branches on it. -/
  | bq (i : BitVec 18)
  /-- R109: Writes the link register and branches. -/
  | call (i : BitVec 18)
  /-- R111: Decrements a scalar and branches if non-zero. -/
  | dbnz (n : Fin 64) (i : BitVec 18)
  /-- R111: Guarded decrement-and-branch that never wraps. -/
  | dbnzG (n : Fin 64) (i : BitVec 18)
  /-- R109: Jumps to x[a]. -/
  | jr (a : Fin 64)
  /-- R117: Ends the strand's part and names the next overlay. -/
  | ovswap (a : Fin 64)
  /-- R112: Opens a speculation region on the scratchpad. -/
  | specBegin (a : Fin 64) (b : Fin 64)
  /-- R155: Branches when every bit of the mask top is 0. -/
  | ubz (i : BitVec 18)
  /-- R159: Runs a loop body from the loop buffer over a descriptor nest. -/
  | nest (d : Fin 64) (n : Fin 32)
  /-- R159: Runs a rotating, staged loop nest. -/
  | nestR (d : Fin 64) (n : Fin 32) (s : Fin 8)
  /-- R114: Loads a template from memory. -/
  | wld (d : Fin 64) (a : Fin 64) (b : Fin 64)
  /-- R114: Stores a template to memory. -/
  | wst (d : Fin 64) (a : Fin 64) (b : Fin 64)
  /-- R114: Writes a quarter of a template. -/
  | wset (d : Fin 64) (a : Fin 64) (q : Fin 8)
  /-- R57: Issues a template as a wide operation. -/
  | wgo (d : Fin 64)
  /-- R57: Issues a template if its queue has room and reports success in a predicate. -/
  | wgoNb (d : Fin 64) (p : Fin 16)
  /-- R59: Issues a template with one quarter replaced. -/
  | wpatch (d : Fin 64) (a : Fin 64) (q : Fin 8)
  /-- R222: Defines a ring over consecutive tiles. -/
  | ringdef (r : Fin 8) (f : Fin 64) (n : Fin 16)
  /-- R222: Undefines a ring. -/
  | ringdefU (r : Fin 8)
  /-- R223: Consumes the ring's head slot. -/
  | ringpop (r : Fin 8)
  /-- R224: Reads the ring state. -/
  | ringstat (d : Fin 64) (r : Fin 8)
  /-- R225: Defines a tile register. -/
  | tdef (t : Fin 64) (a : Fin 64)
  /-- R225: Reads a tile register. -/
  | tfeRd (d : Fin 64) (t : Fin 64)
  /-- R225: Reads a tile and sets its full bit. -/
  | tfeSet (d : Fin 64) (t : Fin 64)
  /-- R225: Reads a tile and clears its full bit. -/
  | tfeClr (d : Fin 64) (t : Fin 64)
  /-- R226: Waits for earlier stores and drops record-cache entries. -/
  | rcfence (a : Fin 64)
  /-- R227: Reads, checks and installs a tensor record in the record cache. -/
  | recld (d : Fin 64) (a : Fin 64)
  /-- R228: Reads an engine queue's status word. -/
  | eqstat (d : Fin 64) (q : Fin 8)
  /-- R228: Reads a queue status word and clears its flags. -/
  | eqstatC (d : Fin 64) (q : Fin 8)
  /-- R229: Resumes a frozen queue at its cursor. -/
  | ecancelRes (q : Fin 8)
  /-- R229: Drops the faulted command and unfreezes the queue. -/
  | ecancelOne (q : Fin 8)
  /-- R229: Drops every command of the queue. -/
  | ecancelAll (q : Fin 8)
  /-- R128: Loads a vector register from the scratchpad. -/
  | vld (d : Fin 64) (a : Fin 64) (b : Fin 64) (t : ElemType)
  /-- R128: Stores the active elements of a vector to the scratchpad. -/
  | vst (d : Fin 64) (a : Fin 64) (b : Fin 64) (t : ElemType)
  /-- R130: Pops 8 queue entries into a vector. -/
  | vqpop (d : Fin 64) (q : Fin 8)
  /-- R130: Pushes a vector as 8 queue entries. -/
  | vqpush (q : Fin 8) (a : Fin 64)
  /-- R128: Copies a vector elementwise. -/
  | vmov (d : Fin 64) (a : Fin 64) (t : ElemType)
  /-- R128: Broadcasts a scalar to every element. -/
  | vbcst (d : Fin 64) (a : Fin 64) (t : ElemType)
  /-- R128: Inserts a scalar into one element. -/
  | vins (d : Fin 64) (a : Fin 64) (b : Fin 64) (t : ElemType)
  /-- R128: Extracts one element into a scalar. -/
  | vextr (d : Fin 64) (a : Fin 64) (b : Fin 64) (t : ElemType)
  /-- R132: Elementwise add. -/
  | vadd (d : Fin 64) (a : Fin 64) (b : Fin 64) (t : ElemType)
  /-- R132: Elementwise subtract. -/
  | vsub (d : Fin 64) (a : Fin 64) (b : Fin 64) (t : ElemType)
  /-- R132: Elementwise multiply. -/
  | vmul (d : Fin 64) (a : Fin 64) (b : Fin 64) (t : ElemType)
  /-- R133: Elementwise minimum. -/
  | vmin (d : Fin 64) (a : Fin 64) (b : Fin 64) (t : ElemType)
  /-- R133: Elementwise maximum. -/
  | vmax (d : Fin 64) (a : Fin 64) (b : Fin 64) (t : ElemType)
  /-- R132: Elementwise absolute value. -/
  | vabs (d : Fin 64) (a : Fin 64) (t : ElemType)
  /-- R132: Elementwise negation. -/
  | vneg (d : Fin 64) (a : Fin 64) (t : ElemType)
  /-- R134: Fused a*b + vd. -/
  | vfma (d : Fin 64) (a : Fin 64) (b : Fin 64) (t : ElemType)
  /-- R134: Fused a*b - vd. -/
  | vfms (d : Fin 64) (a : Fin 64) (b : Fin 64) (t : ElemType)
  /-- R138: Widening multiply into a pair. -/
  | vwmul (d : Fin 64) (a : Fin 64) (b : Fin 64) (t : ElemType)
  /-- R138: Widening add into a pair. -/
  | vwadd (d : Fin 64) (a : Fin 64) (b : Fin 64) (t : ElemType)
  /-- R138: Widening multiply-accumulate into a pair. -/
  | vwfma (d : Fin 64) (a : Fin 64) (b : Fin 64) (t : ElemType)
  /-- R139: Four-way dot product accumulated into 32-bit lanes. -/
  | vdot4 (d : Fin 64) (a : Fin 64) (b : Fin 64) (t : ElemType)
  /-- R139: Elementwise maximum of magnitudes. -/
  | vamax (d : Fin 64) (a : Fin 64) (b : Fin 64) (t : ElemType)
  /-- R135: Elementwise AND. -/
  | vand (d : Fin 64) (a : Fin 64) (b : Fin 64) (t : ElemType)
  /-- R135: Elementwise OR. -/
  | vor (d : Fin 64) (a : Fin 64) (b : Fin 64) (t : ElemType)
  /-- R135: Elementwise XOR. -/
  | vxor (d : Fin 64) (a : Fin 64) (b : Fin 64) (t : ElemType)
  /-- R135: Elementwise a AND NOT b. -/
  | vandn (d : Fin 64) (a : Fin 64) (b : Fin 64) (t : ElemType)
  /-- R135: Elementwise shift left. -/
  | vshl (d : Fin 64) (a : Fin 64) (b : Fin 64) (t : ElemType)
  /-- R135: Elementwise logical shift right. -/
  | vshr (d : Fin 64) (a : Fin 64) (b : Fin 64) (t : ElemType)
  /-- R135: Elementwise arithmetic shift right. -/
  | vsra (d : Fin 64) (a : Fin 64) (b : Fin 64) (t : ElemType)
  /-- R136: Elementwise equal compare. -/
  | vcmpEq (d : Fin 64) (a : Fin 64) (b : Fin 64) (t : ElemType)
  /-- R136: Elementwise not-equal compare. -/
  | vcmpNe (d : Fin 64) (a : Fin 64) (b : Fin 64) (t : ElemType)
  /-- R136: Elementwise less-than compare. -/
  | vcmpLt (d : Fin 64) (a : Fin 64) (b : Fin 64) (t : ElemType)
  /-- R136: Elementwise less-or-equal compare. -/
  | vcmpLe (d : Fin 64) (a : Fin 64) (b : Fin 64) (t : ElemType)
  /-- R136: Elementwise greater-than compare. -/
  | vcmpGt (d : Fin 64) (a : Fin 64) (b : Fin 64) (t : ElemType)
  /-- R136: Elementwise greater-or-equal compare. -/
  | vcmpGe (d : Fin 64) (a : Fin 64) (b : Fin 64) (t : ElemType)
  /-- R136: Elementwise unordered compare. -/
  | vcmpUn (d : Fin 64) (a : Fin 64) (b : Fin 64) (t : ElemType)
  /-- R137: Bitwise select under the selector in vd. -/
  | vsel (d : Fin 64) (a : Fin 64) (b : Fin 64) (t : ElemType)
  /-- R143: Permutes elements within index groups. -/
  | vperm (d : Fin 64) (a : Fin 64) (b : Fin 64) (t : ElemType)
  /-- R144: Interleaves two vectors into a pair. -/
  | vzip (d : Fin 64) (a : Fin 64) (b : Fin 64) (t : ElemType)
  /-- R144: De-interleaves two vectors into a pair. -/
  | vunzip (d : Fin 64) (a : Fin 64) (b : Fin 64) (t : ElemType)
  /-- R145: Slides elements by one across two vectors. -/
  | vslide (d : Fin 64) (a : Fin 64) (b : Fin 64) (t : ElemType)
  /-- R147: Reduces a vector by sum, min or max. -/
  | vred (d : Fin 64) (a : Fin 64) (o : Fin 4) (t : ElemType)
  /-- R148: Inclusive scan by sum, min or max. -/
  | vscan (d : Fin 64) (a : Fin 64) (o : Fin 4) (t : ElemType)
  /-- R151: Looks up each element in the strand's table. -/
  | vlut (d : Fin 64) (a : Fin 64) (t : ElemType)
  /-- R149: Elementwise 2^x, correctly rounded. -/
  | vexp2 (d : Fin 64) (a : Fin 64) (r : Rm) (t : ElemType)
  /-- R149: Elementwise log2 x, correctly rounded. -/
  | vlog2 (d : Fin 64) (a : Fin 64) (r : Rm) (t : ElemType)
  /-- R149: Elementwise reciprocal, correctly rounded. -/
  | vrcp (d : Fin 64) (a : Fin 64) (r : Rm) (t : ElemType)
  /-- R149: Elementwise reciprocal square root, correctly rounded. -/
  | vrsq (d : Fin 64) (a : Fin 64) (r : Rm) (t : ElemType)
  /-- R149: Elementwise tanh, correctly rounded. -/
  | vtanh (d : Fin 64) (a : Fin 64) (r : Rm) (t : ElemType)
  /-- R150: Loads the strand's lookup table from a vector. -/
  | vlutld (a : Fin 64)
  /-- R152: Writes Philox stochastic words to 32-bit lanes. -/
  | vrng (d : Fin 64)
  /-- R141: Converts elements between types, same width or widening. -/
  | vcvt (d a : Fin 64) (sat : Bool) (e t : ElemType) (r : Rm)
  /-- R141: Converts a pair or quad to narrower elements. -/
  | vnarrow (d a : Fin 64) (sat : Bool) (e t : ElemType) (r : Rm)
  /-- R153: Pushes a mask entry. -/
  | mpush (a : Fin 64)
  /-- R153: Writes the mask top into a vector. -/
  | mtop (d : Fin 64)
  /-- R239: Sets the attention-mask register. -/
  | attmask (a : Fin 64) (b : Fin 64)
  /-- R247: Loads a DLE state slot image from scratchpad. -/
  | attstLd (n : Fin 2) (a : Fin 64)
  /-- R248: Merges a DLE state image into a slot. -/
  | attstLdM (n : Fin 2) (a : Fin 64)
  /-- R247: Stores a DLE state slot image to scratchpad. -/
  | attstSt (n : Fin 2) (a : Fin 64)
  /-- R231: Checks a handle and binds a sequence slot. -/
  | seqbind (n : Fin 8) (a : Fin 64)
  /-- R255: Appends tokens to a sequence in one indivisible step. -/
  | kvappend (d : Fin 64) (a : Fin 64) (b : Fin 64)
  /-- R257: Rewrites positions below the end of a sequence. -/
  | kvput (d : Fin 64) (a : Fin 64) (b : Fin 64)
  /-- R258: Clears valid bits of 64 positions. -/
  | kvinv (a : Fin 64) (b : Fin 64)
  /-- R341: Removes cached translations covering an address. -/
  | xlinvPg (a : Fin 64)
  /-- R341: Removes cached translations overlapping a range. -/
  | xlinvRg (a : Fin 64) (b : Fin 64)
  /-- R360: Zeroes a memory line and clears its poison. -/
  | poisonClr (a : Fin 64)
  /-- R360: Zeroes a scratchpad line and clears its poison. -/
  | poisonClrSp (a : Fin 64)
  /-- R51: Loads a sign-extended 32-bit long immediate. -/
  | movl (d : Fin 64) (v : BitVec 32)
  /-- R51: Loads a zero-extended 32-bit long immediate. -/
  | movlN (d : Fin 64) (v : BitVec 32)
  /-- R51: Inserts a 32-bit long immediate into the high half. -/
  | movlH (d : Fin 64) (v : BitVec 32)
  /-- R58: Issues a template with one halfword replaced for this issue. -/
  | pw (t : Fin 64) (k : Fin 32) (v : BitVec 16)
  /-- R58: Sticky patch word: also writes the halfword into the template. -/
  | pwS (t : Fin 64) (k : Fin 32) (v : BitVec 16)
  /-- R251: Attention over the pages of a gather list. -/
  | attg (opa : Bool)
  /-- R275: Stops the core in FREEZE or DRAIN mode for the debugger. -/
  | debugHalt (core : Nat) (drain : Bool)
  /-- R276: The debugger reads or writes halted core state. -/
  | debugAccess (core : Nat) (target : DebugTarget) (write : Option Word)
  /-- R277: Issues one group of one strand. -/
  | debugStep (core : Nat) (w : Who)
  /-- R175: An uncorrectable error in the local or accumulator store poisons or drops the line. -/
  | localStoreEccError (core : Nat) (place : LocalPlace)
  /-- R359: An uncorrectable error in die SRAM or HBM is handled by where it falls. -/
  | memoryEccError (place : EccPlace)
  /-- R378: Host write adds to a memory counter as a release. -/
  | counterWindowWrite (vf : Fin 128) (offset : Nat) (size : Nat) (value : Word)
  /-- R378: Host read of a memory counter as an acquire. -/
  | counterWindowRead (vf : Fin 128) (offset : Nat) (size : Nat)
  /-- R379: Host write through the record-window aperture. -/
  | recordWindowWrite (vf : Fin 128) (offset : Nat) (size : Nat) (value : Word)
  /-- R379: Host read through the record-window aperture. -/
  | recordWindowRead (vf : Fin 128) (offset : Nat) (size : Nat)
  /-- R380: Host access through an HDM decoder into partition memory. -/
  | coherentWindowAccess (hpa : HostAddress) (size : Nat) (write : Option Word)
  /-- R377: Sets a core's handler and trap-area registers for its next task. -/
  | setupWrite (vf : Fin 128) (core : Nat) (field : Fin 6) (value : Word)
  /-- R377: Resets, loads and starts a cluster controller. -/
  | cbootgoGo (vf : Fin 128) (cluster : Fin 256)
  /-- R377: Stops a cluster controller at its next boundary. -/
  | cbootgoStop (vf : Fin 128) (cluster : Fin 256)
  /-- R377: Write-one-to-clear of the window status. -/
  | wstatClear (vf : Fin 128) (value : Word)
  /-- R384: Write to a configuration or operator register without behaviour of its own. -/
  | registerWrite (vf : Option (Fin 128)) (offset : BlockAccess) (value : Word)
  /-- R383: Creates a partition from its descriptor. -/
  | partitionCreate (part : Fin 16)
  /-- R390: Destroys a partition's keys and starts its scrub. -/
  | partitionTeardown (part : Fin 16)
  /-- R383: Resets a partition's resources, keeping memory and keys. -/
  | partitionReset (part : Fin 16)
  /-- R390: A channel's scrub completes and is recorded. -/
  | channelScrubDone (part : Fin 16) (die : Fin 24) (stack : Fin 2)
  /-- R393: Starts copying a quiesced partition's HBM to the safe tier. -/
  | checkpointSave (part : Fin 16)
  /-- R393: Starts a verified restore into a free partition. -/
  | checkpointRestore (part : Fin 16)
  /-- R392: A checkpoint operation completes or fails. -/
  | checkpointDone (code : Byte)
  /-- R396: Verifies firmware, derives keys, scrubs HBM and trains ports. -/
  | powerUp (firmwareOk : Bool)
  /-- R395: A junction reaches 95 degrees C and its die's duty is lowered. -/
  | thermalLimit (die : Fin 24) (hot : Bool)
  /-- R395: Module power above the cap for 1 ms lowers every die's duty. -/
  | powerCapExceeded (exceeded : Bool)
  /-- R389: The trust controller answers an SPDM request. -/
  | spdmRequest (request : SpdmRequest)
  /-- R428: The key service writes the job record and job key. -/
  | jobRecordWrite (part : Fin 16) (record : List Byte) (key : List Byte)
  /-- R416: The key service writes the mordant binding. -/
  | mordantBindingWrite (part : Fin 16) (binding : List Byte)
  /-- R430: Receives a remote write packet. -/
  | packetWrite (lane : LaneRef) (p : Packet)
  /-- R430: Receives a remote read request. -/
  | packetReadRequest (lane : LaneRef) (p : Packet)
  /-- R430: Receives read data. -/
  | packetReadData (lane : LaneRef) (p : Packet)
  /-- R437: Receives a remote counter add. -/
  | packetCounterAdd (lane : LaneRef) (p : Packet)
  /-- R436: Receives an acknowledgement. -/
  | packetAcknowledge (lane : LaneRef) (p : Packet)
  /-- R443: Receives a collective join. -/
  | packetCollectiveJoin (lane : LaneRef) (p : Packet)
  /-- R430: Receives collective data. -/
  | packetCollectiveData (lane : LaneRef) (p : Packet)
  /-- R450: Receives a lending control packet. -/
  | packetLendingControl (lane : LaneRef) (p : Packet)
  /-- R450: Receives lending data. -/
  | packetLendingData (lane : LaneRef) (p : Packet)
  /-- R431: A packet fails its GCM tag; its lane group goes down and the key is destroyed. -/
  | packetAuthFail (lane : LanePacket)
  /-- R431: A flit failing CRC is resent; 16 failures take the lane group down. -/
  | flitRetry (lane : LaneRef)
  /-- R431: No valid flit for 2^20 cycles takes a lane group down. -/
  | laneIdleTimeout (lane : LaneRef)
  /-- R431: A lane group comes back after retraining or a new job key. -/
  | laneGroupUp (lane : LaneRef)
  /-- R388: After packet 2^32 - 1 the link key is ratcheted. -/
  | linkKeyRatchet (lane : LaneRef)
  /-- R432: An unacknowledged Ethernet packet is resent after 2^16 cycles. -/
  | ethResendTimeout (port : Fin 8)
  /-- R277: Ends a halt and resumes the core. -/
  | debugResume (core : Nat)
  /-- R118: Does nothing. -/
  | nop
  /-- R118: Halts the core for the debugger when DEBUG is 1, otherwise raises BREAKPOINT. -/
  | brk
  /-- R109: Jumps to x63. -/
  | ret
  /-- R86: Returns from a trap and schedules the replay entries. -/
  | eret
  /-- R116: Ends the strand's part of the task, token or dormant context. -/
  | taskend
  /-- R173: Makes the shadow lines current in one step. -/
  | specCommit
  /-- R113: Discards the shadow lines. -/
  | specAbort
  /-- R153: Inverts the mask top against its parent. -/
  | minv
  /-- R153: Pops the mask top. -/
  | mpop
  /-- R341: Removes every cached translation of the partition. -/
  | xlinvAll
  /-- R75: An in-flight result is written at its exposed latency and its flags are ORed in. -/
  | resultWrite
  /-- R86: A replay entry writes its value and flags at c0 + remaining. -/
  | replayEntryComplete
  /-- R94: Data of a load, returning atomic or counter read arrives. -/
  | loadResponse
  /-- R94: A posted store is performed. -/
  | storePerformed
  /-- R97: Data of an LDQ arrive and fill the reserved entry. -/
  | ldqFill
  /-- R265: Poisoned load data is taken as an asynchronous trap at a boundary. -/
  | poisonArrival
  /-- R192: A group blocked on a full queue traps after 2^22 counted cycles. -/
  | issueStall
  /-- R267: A faulted command's report is taken as a trap at the issuing strand's boundary. -/
  | engineFaultReport
  /-- R191: An engine command completes its release and signal phases and releases consumed operands. -/
  | commandRetire
  /-- R199: Adds A times B into an accumulator tile. -/
  | mma
  /-- R202: Drains accumulator blocks to scratchpad with conversion. -/
  | mdrain
  /-- R203: Zeroes accumulator blocks. -/
  | mzero
  /-- R204: Loads accumulator blocks from scratchpad. -/
  | mload
  /-- R210: Copies elements over a nest with conversion. -/
  | cpy
  /-- R211: Copy with destination dimensions 0 and 1 exchanged. -/
  | cpyT
  /-- R212: Gather copy through an index table. -/
  | cpyG
  /-- R210: Copy with padding outside the source extent. -/
  | cpyPad
  /-- R235: Writes the addresses a gather would read. -/
  | agen
  /-- R182: A free dormant context takes the oldest start request. -/
  | dormantContextStart
  /-- R220: Hands a token to the T strand and starts it. -/
  | tstart
  /-- R241: Prefill attention on the OPA over a page range. -/
  | attp
  /-- R241: Decode attention on the DLE over a page range. -/
  | attd
  /-- R250: Bounds page scores from swatches and writes a gather list. -/
  | ssel
  /-- R348: Reports the presence of a tile's lines in L2. -/
  | tcLook
  /-- R348: Prefetches a tile and neighbours into L2. -/
  | tcPf
  /-- R350: Writes a tile with a halo border to scratchpad. -/
  | tcHalo
  /-- R348: Drops every cached line of a tensor. -/
  | tcInv
  /-- R348: Writes back the dirty lines of a tensor, optionally dropping them. -/
  | tcWb
  /-- R348: Makes a tensor's lines present and pinned in L2. -/
  | tcPin
  /-- R348: Unpins a tensor's lines. -/
  | tcUnpin
  /-- R420: Creates a sequence from a descriptor image. -/
  | kvNew
  /-- R399: Registers the partition's pool and zeroes its records. -/
  | kvNewPool
  /-- R421: Forks a sequence sharing its pages. -/
  | kvFork
  /-- R422: Releases every entry of a sequence and frees it. -/
  | kvFree
  /-- R410: Drops the tentative tokens and settles. -/
  | kvTrunc
  /-- R410: Commits n tentative tokens and settles. -/
  | kvCommit
  /-- R422: Sets the eviction class of a sequence. -/
  | kvClass
  /-- R423: Brings a range of pages to RESIDENT. -/
  | kvPromote
  /-- R424: Demotes or requantises a range of pages. -/
  | kvDemote
  /-- R425: Writes a signed export buffer of a sequence. -/
  | kvExport
  /-- R425: Verifies and imports an export buffer as a sequence. -/
  | kvImport
  /-- R414: Lends free HBM frames to a torus neighbour. -/
  | kvLend
  /-- R415: Recalls lent frames with a notice. -/
  | kvLendRecall
  /-- R426: Writes pool or sequence statistics. -/
  | kvStat
  /-- R426: Recomputes the swatches of a range. -/
  | kvSwref
  /-- R413: A move from CXL or REMOTE ends and the page becomes RESIDENT. -/
  | moveInwardComplete
  /-- R409: A released record becomes FREE once no earlier walker remains. -/
  | pageFreeLater
  /-- R415: Pages of a recalled frame not yet moved become ABSENT. -/
  | recallNoticeExpiry
  /-- R415: A recalled or returned frame goes back to the lender. -/
  | frameReturn
  /-- R441: Runs a collective over a group of dies. -/
  | coll
  /-- R449: Noise-perturbed top-N selection across shards. -/
  | collArgmaxn
  /-- R443: All joins of a collective have met and it proceeds. -/
  | collJoinsMet
  /-- R448: An in-network collective loses its route and restarts at the endpoints. -/
  | collFallback
  /-- R436: Copies bytes to a remote module. -/
  | fput
  /-- R436: Copies bytes from a remote module. -/
  | fget
  /-- R437: Adds to a remote memory counter as a job-scope release. -/
  | fcadd
  /-- R446: Writes a route trust entry. -/
  | frouteRead
  /-- R447: Attests a switch path and delivers the reduction key. -/
  | frouteAttest
  /-- R447: Sets a route trust entry to EMPTY. -/
  | frouteRevoke
  /-- R434: A fabric command's time limit expires. -/
  | fabricTimeLimit
  /-- R450: A walker read of a REMOTE page is unanswered for 2^24 cycles. -/
  | remoteReadTimeout
  /-- R299: Accepts a launch into a scoreboard entry or rejects it. -/
  | klaunch
  /-- R303: Copies or warms a memory range as a scoreboard entry. -/
  | kstream
  /-- R315: Latches parameters and launches a graph's nodes. -/
  | graphReplay
  /-- R319: Appends items to work lists. -/
  | wlAppend
  /-- R321: Runs tasks taken from a work-list set. -/
  | wlTake
  /-- R325: Barrier entry depending on every earlier entry. -/
  | quiesce
  /-- R323: Jumps the controller to a table entry chosen by its source. -/
  | fragJump
  /-- R323: Loads the 16-entry jump table. -/
  | fragJumpLoad
  /-- R324: Compares drafts with targets and sets the acceptance register. -/
  | accept
  /-- R325: Changes the priority of tagged work. -/
  | prio
  /-- R326: Cancels tagged entries, optionally stopping running tasks. -/
  | kcancel
  /-- R302: A scoreboard entry issues once its dependences have retired. -/
  | entryIssue
  /-- R310: An entry retires, writing its completion record and counters. -/
  | entryRetire
  /-- R304: Places a ready task on free cores. -/
  | taskDispatch
  /-- R116: A task retires when its strands have ended and commands completed. -/
  | taskRetire
  /-- R105: After an unsatisfied CWAIT, the continuation is written and the task retires. -/
  | cwaitTaskEnd
  /-- R306: The next overlay is loaded and its task starts after a swap. -/
  | overlayStart
  /-- R311: A ready priority-3 task requests pre-emption of a victim. -/
  | preemptRequest
  /-- R312: A request unanswered within maxnode cycles becomes forced. -/
  | preemptEscalate
  /-- R269: Stops a core and saves its image to the save area. -/
  | forcedPreempt
  /-- R274: Restores a saved image onto a core. -/
  | taskRestore
  /-- R320: Appends a retired task's emit slot to the work lists. -/
  | emitAppend
  /-- R322: The termination detector of a set fires. -/
  | wlTermination
  /-- R346: An RDC line is dropped 2,048 cycles after its lease grant. -/
  | rdcLeaseExpiry
  /-- R393: Stops the checkpoint operation. -/
  | checkpointAbort
  /-- R391: Destroys keys, tears down partitions and resumes scrubs. -/
  | conventionalReset
  /-- R391: Loses all keys and records. -/
  | powerLoss
  /-- R395: Every 100 us the duty moves one sixteenth. -/
  | dutyStep
  /-- R395: 110 degrees C or a voltage fault shuts the module down. -/
  | shutdown
  /-- R263: The response of a CADD, satisfied CWAIT, SEQBIND, RECLD, KVAPPEND, KVPUT or KVINV returns to the strand that it holds, which then continues or traps with the cause it carries. -/
  | holdingResponse
  /-- R172: Up to 2,048 cycles after a SPEC.COMMIT, the copy of the committed shadow lines back into the primary bank completes and the strand's next SPEC.BEGIN may issue. -/
  | committedLinesCopiedBack
  deriving DecidableEq, Repr, Inhabited

end Sys2Proof
end

