-- ==== Sys2Proof/Machine/Forms.lean ====
section
/-! DEFINITION. Facts of the element types (R10, R43, R122) and the operand values an instruction's encoding admits
whatever the strand (R38 step 2, as far as it does not depend on the strand). -/

namespace Sys2Proof

/-- The type code of an element type (R43). -/
def ElemType.code : ElemType → Nat
  | .i4 => 0 | .i8 => 1 | .i16 => 2 | .i32 => 3 | .n4 => 4 | .n8 => 5 | .n16 => 6 | .n32 => 7
  | .bf16 => 8 | .f16 => 9 | .f32 => 10 | .e4m3 => 11 | .e5m2 => 12 | .e3m2 => 13 | .e2m3 => 14 | .e2m1 => 15

/-- The element type of a 4-bit code (R43): every code names one. -/
def ElemType.ofCode : Nat → ElemType
  | 0 => .i4 | 1 => .i8 | 2 => .i16 | 3 => .i32 | 4 => .n4 | 5 => .n8 | 6 => .n16 | 7 => .n32
  | 8 => .bf16 | 9 => .f16 | 10 => .f32 | 11 => .e4m3 | 12 => .e5m2 | 13 => .e3m2 | 14 => .e2m3 | _ => .e2m1

/-- Storage width w(c) of an element in a vector register (R122). -/
def ElemType.width : ElemType → Nat
  | .i4 | .n4 | .e2m1 => 4
  | .i8 | .n8 | .e4m3 | .e5m2 | .e3m2 | .e2m3 => 8
  | .i16 | .n16 | .bf16 | .f16 => 16
  | .i32 | .n32 | .f32 => 32

/-- Width of the format itself: 6 for the 6-bit types, the storage width otherwise (R43, R143). -/
def ElemType.bits : ElemType → Nat
  | .e3m2 | .e2m3 => 6
  | t => t.width

/-- Elements per register, N = 4,096 / w (R122). -/
def ElemType.count (t : ElemType) : Nat := 4096 / t.width

def ElemType.isFloat : ElemType → Bool
  | .bf16 | .f16 | .f32 | .e4m3 | .e5m2 | .e3m2 | .e2m3 | .e2m1 => true
  | _ => false

/-- The signed integer types `.i4 .i8 .i16 .i32` (R3). -/
def ElemType.isSigned : ElemType → Bool
  | .i4 | .i8 | .i16 | .i32 => true
  | _ => false

def ElemType.isInt (t : ElemType) : Bool := !t.isFloat

/-- Type class "arithmetic" of R122: codes 0x0 to 0xA. -/
def ElemType.arith (t : ElemType) : Bool := t.code ≤ 10
/-- Type class "float" of R122: codes 0x8 to 0xA. -/
def ElemType.fp (t : ElemType) : Bool := 8 ≤ t.code && t.code ≤ 10
/-- Type class "widening" of R122. -/
def ElemType.widening (t : ElemType) : Bool := t.code ≤ 9 && t.code != 3 && t.code != 7
/-- Type class "dot" of R122. -/
def ElemType.dot (t : ElemType) : Bool := t.code == 1 || t.code == 5 || t.code == 11 || t.code == 12
/-- Type class "index" of R122. -/
def ElemType.index (t : ElemType) : Bool :=
  t.code == 0 || t.code == 1 || t.code == 4 || t.code == 5 || (11 ≤ t.code && t.code ≤ 15)

/-- The result type W of a widening operation (R138). -/
def ElemType.wide : ElemType → ElemType
  | .i4 => .i8 | .i8 => .i16 | .i16 => .i32 | .n4 => .n8 | .n8 => .n16 | .n16 => .n32
  | .bf16 => .f32 | .f16 => .f32 | t => t

/-- The code of a rounding mode (R4). -/
def Rm.code : Rm → Nat
  | .rne => 0 | .rz => 1 | .rdn => 2 | .rup => 3 | .sr => 4 | .rna => 5

/-- The rounding mode of a 3-bit code; codes 6 and 7 are reserved (R4). -/
def Rm.ofCode : Nat → Option Rm
  | 0 => some .rne | 1 => some .rz | 2 => some .rdn | 3 => some .rup | 4 => some .sr | 5 => some .rna | _ => none

/-- How many registers a conversion's wide side takes: 1, 2 or 4; 0 where the widths do not relate as R140 states. -/
def convRatio (narrow wide : ElemType) : Nat :=
  if wide.width = narrow.width then 1
  else if wide.width = 2 * narrow.width then 2
  else if wide.width = 4 * narrow.width then 4
  else 0

/-- The system registers of R73. -/
def sysRegListed (n : Nat) : Bool := n ≤ 4 || (8 ≤ n && n ≤ 14) || n == 16 || n == 17
/-- `sr.rrb` and `sr.stratid` are read only (R73). -/
def sysRegReadOnly (n : Nat) : Bool := n == 3 || n == 4
/-- The registers R73 marks privileged. -/
def sysRegPrivileged (n : Nat) : Bool := 8 ≤ n
/-- A register group of g registers begins at a multiple of g (R40, R124). -/
def groupAligned (r : Fin 64) (g : Nat) : Bool := r.val % g == 0

/-- The operand values the encoding of an instruction admits, whatever the strand (R38 step 2): a value this refuses
raises ILLEGAL_ENCODING. Events have no encoding. -/
def formOk : Instr → Bool
  | .rdwid _ f => f.val != 6                                                    -- R46, R119
  | .rdsr _ n => sysRegListed n.val                                             -- R73
  | .wrsr n _ => sysRegListed n.val && !sysRegReadOnly n.val                    -- R73
  | .bfxN64 _ _ w p | .bfxI64 _ _ w p | .bfi _ _ w p => p.val + (w.val + 1) ≤ 64  -- R91
  | .cadd c _ _ => c.val ≤ 4                                                    -- R5, R101
  | .cread _ _ c => c.val ≤ 4                                                   -- R5, R102
  | .wset _ _ q => q.val ≤ 3                                                    -- R114
  | .nest n _ | .nestR n _ _ => groupAligned n 2                                -- R156
  | .ringdef _ f n => f.val + n.val ≤ 63                                        -- R221
  | .vadd _ _ _ t | .vsub _ _ _ t | .vmul _ _ _ t | .vmin _ _ _ t | .vmax _ _ _ t | .vabs _ _ t | .vneg _ _ t
  | .vfma _ _ _ t | .vfms _ _ _ t | .vamax _ _ _ t => t.arith                   -- R122
  | .vcmpEq _ _ _ t | .vcmpNe _ _ _ t | .vcmpLt _ _ _ t | .vcmpLe _ _ _ t | .vcmpGt _ _ _ t | .vcmpGe _ _ _ t => t.arith
  | .vcmpUn _ _ _ t => t.fp                                                     -- R50, R122
  | .vred _ _ o t | .vscan _ _ o t => t.arith && o.val ≤ 2                      -- R122, R146
  | .vshl _ _ _ t | .vshr _ _ _ t | .vsra _ _ _ t => t.isInt                    -- R122
  | .vwmul d _ _ t | .vwadd d _ _ t | .vwfma d _ _ t => t.widening && groupAligned d 2   -- R122, R124
  | .vdot4 _ _ _ t => t.dot                                                     -- R122
  | .vzip d _ _ _ | .vunzip d _ _ _ => groupAligned d 2                         -- R144
  | .vlut d _ t => t.index && groupAligned d (if t.width = 4 then 4 else 2)     -- R151
  | .vexp2 _ _ r t | .vlog2 _ _ r t | .vrcp _ _ r t | .vrsq _ _ r t | .vtanh _ _ r t => t.fp && r != .sr   -- R25
  | .vcvt d _ _ e t r =>                                                        -- R140, R142
    e != t && convRatio t e != 0 && groupAligned d (convRatio t e) && (r != .sr || (convRatio t e == 1 && e.isFloat))
  | .vnarrow _ a _ e t r =>                                                     -- R140, R142
    2 ≤ convRatio e t && groupAligned a (convRatio e t) && (r != .sr || e.isFloat)
  | _ => true

end Sys2Proof
end

