-- ==== Sys2Proof/Machine/Memory.lean ====
section
/-! DEFINITION. Sparse byte memories in one canonical form, and the byte-order helpers.

A memory lists (address, byte) pairs with strictly rising addresses and no zero byte; an unlisted address reads as zero
(R167 for the scratchpad, R187 for the accumulators, R390 for scrubbed HBM; a choice for the CXL tier, log entry 3).
Physical memory, scratchpads, accumulators, instruction stores and controller data RAMs all have this type. -/

namespace Sys2Proof

abbrev Memory := List Host.Cell

/-- The byte at an address; an unlisted address reads as zero. -/
def Memory.get (m : Memory) (a : Nat) : Byte :=
  match m with
  | [] => 0
  | (k, v) :: m' => if k = a then v else Memory.get m' a

/-- The listed cells of a run of bytes from an address: the zero bytes are not listed. -/
def Memory.cells (a : Nat) : List Byte → Memory
  | [] => []
  | b :: bs => if b = 0 then Memory.cells (a + 1) bs else (a, b) :: Memory.cells (a + 1) bs

/-- Replaces the bytes from address a on; every other address keeps its byte. -/
def Memory.write (m : Memory) (a : Nat) (bs : List Byte) : Memory :=
  m.takeWhile (fun c => c.1 < a) ++ Memory.cells a bs ++ m.dropWhile (fun c => c.1 < a + bs.length)

/-- The n bytes from address a on, in one pass over the list. -/
def Memory.read (m : Memory) (a : Nat) : Nat → List Byte
  | 0 => []
  | n + 1 =>
    let m' := m.dropWhile (fun c => c.1 < a)
    (match m' with
      | (k, v) :: _ => if k = a then v else 0
      | [] => 0) :: Memory.read m' (a + 1) n

/-- Addresses strictly rising from a lower bound on, and no zero byte listed. -/
def Memory.wfFrom (lo : Nat) : Memory → Bool
  | [] => true
  | (k, v) :: m => lo ≤ k && v != 0 && Memory.wfFrom (k + 1) m

/-- The canonical form of a memory. -/
def Memory.wf (m : Memory) : Bool := Memory.wfFrom 0 m

/-- Little-endian value of bytes (R8). -/
def natOfBytes : List Byte → Nat
  | [] => 0
  | b :: bs => b.toNat + 256 * natOfBytes bs

/-- The n little-endian bytes of a value (R8). -/
def bytesOfNat : Nat → Nat → List Byte
  | 0, _ => []
  | n + 1, v => BitVec.ofNat 8 v :: bytesOfNat n (v / 256)

/-- The little-endian value of the n bytes at an address. -/
def Memory.nat (m : Memory) (a n : Nat) : Nat := natOfBytes (m.read a n)

/-- Writes a value as n little-endian bytes. -/
def Memory.writeNat (m : Memory) (a n v : Nat) : Memory := m.write a (bytesOfNat n v)

/-- A field of `len` bits from bit `lo` of a number. -/
def bitsOf (v lo len : Nat) : Nat := v / 2 ^ lo % 2 ^ len

/-- Bit `n` of a number. -/
def bitOf (v n : Nat) : Bool := v / 2 ^ n % 2 == 1

/-- A two's complement number of w bits. -/
def signedOf (w v : Nat) : Int := if v % 2 ^ w < 2 ^ (w - 1) then (v % 2 ^ w : Nat) else (v % 2 ^ w : Nat) - (2 ^ w : Nat)

/-- The two's complement bits of an integer in w bits. -/
def unsignedOf (w : Nat) (v : Int) : Nat := (v % (2 ^ w : Nat)).toNat

/-- Insertion in a rising list without repeats: the canonical form of a set of numbers (poisoned lines). -/
def insertNat (n : Nat) : List Nat → List Nat
  | [] => [n]
  | m :: ms => if n < m then n :: m :: ms else if n = m then m :: ms else m :: insertNat n ms

end Sys2Proof
end

