-- ==== Sys2Proof/Machine/Numbers.lean ====
section
/-! DEFINITION. Numbers and arithmetic (01_numbers): exact values, the one rounding, integer conversions, stochastic
words, Microscaling blocks and the two accumulator types. -/

namespace Sys2Proof

/-! ## Flags (R27) -/

def flagIV : Flags := 0x01
def flagDZ : Flags := 0x02
def flagOF : Flags := 0x04
def flagUF : Flags := 0x08
def flagNX : Flags := 0x10
def flagSAT : Flags := 0x20

/-! ## Exact values (R10) -/

/-- An exact value: a NaN (signalling or quiet), an infinity, or (−1)^neg × m × 2^e, where m = 0 is a signed zero. -/
inductive Val where
  | nan (signalling : Bool)
  | inf (neg : Bool)
  | num (neg : Bool) (m : Nat) (e : Int)
  deriving DecidableEq, Repr, Inhabited

def Val.zero : Val := .num false 0 0

def Val.ofInt (i : Int) : Val := .num (i < 0) i.natAbs 0

def Val.neg : Val → Val
  | .nan s => .nan s
  | .inf n => .inf !n
  | .num n m e => .num (!n) m e

def Val.abs : Val → Val
  | .nan s => .nan s
  | .inf _ => .inf false
  | .num _ m e => .num false m e

def Val.isNan : Val → Bool
  | .nan _ => true
  | _ => false

def Val.isSignalling : Val → Bool
  | .nan s => s
  | _ => false

def Val.isZero : Val → Bool
  | .num _ 0 _ => true
  | _ => false

/-- The value with its magnitude multiplied by 2^k. -/
def Val.scale (k : Int) : Val → Val
  | .num n m e => .num n m (e + k)
  | v => v

/-- Signed mantissa of a finite value at a common exponent e0 ≤ e. -/
def mantAt (n : Bool) (m : Nat) (e e0 : Int) : Int :=
  let a : Int := (m * 2 ^ (e - e0).toNat : Nat)
  if n then -a else a

/-- Exact comparison of two values that are not NaN: −0 equals +0. -/
def Val.lt : Val → Val → Bool
  | .num n m e, .num n' m' e' => mantAt n m e (min e e') < mantAt n' m' e' (min e e')
  | .inf n, .inf n' => n && !n'
  | .inf n, .num .. => n
  | .num .., .inf n => !n
  | _, _ => false

def Val.eqv (a b : Val) : Bool := !a.isNan && !b.isNan && !a.lt b && !b.lt a

/-- The exact sum under R17, with the flags it raises: a signalling NaN, and ∞ − ∞, raise IV; an exact zero sum of
operands of opposite signs is +0, and −0 when rounding down. -/
def exactAdd (rm : Rm) (a b : Val) : Val × Flags :=
  let iv := if a.isSignalling || b.isSignalling then flagIV else 0
  match a, b with
  | .nan _, _ => (.nan false, iv)
  | _, .nan _ => (.nan false, iv)
  | .inf n, .inf n' => if n = n' then (.inf n, 0) else (.nan false, flagIV)
  | .inf n, .num .. => (.inf n, 0)
  | .num .., .inf n => (.inf n, 0)
  | .num n m e, .num n' m' e' =>
    let e0 := min e e'
    let s := mantAt n m e e0 + mantAt n' m' e' e0
    if s = 0 then (.num (if n = n' then n else rm = .rdn) 0 0, 0)
    else (.num (s < 0) s.natAbs e0, 0)

/-- The exact product under R17: 0 × ∞ raises IV. -/
def exactMul (a b : Val) : Val × Flags :=
  let iv := if a.isSignalling || b.isSignalling then flagIV else 0
  match a, b with
  | .nan _, _ => (.nan false, iv)
  | _, .nan _ => (.nan false, iv)
  | .inf n, .inf n' => (.inf (n != n'), 0)
  | .inf n, .num n' m _ => if m = 0 then (.nan false, flagIV) else (.inf (n != n'), 0)
  | .num n m _, .inf n' => if m = 0 then (.nan false, flagIV) else (.inf (n != n'), 0)
  | .num n m e, .num n' m' e' => (.num (n != n') (m * m') (e + e'), 0)

/-- A fused multiply-add before its rounding: product, then sum (R17). An IV of the product stands even when the addend
is a quiet NaN. -/
def exactFma (rm : Rm) (a b c : Val) : Val × Flags :=
  let (p, f) := exactMul a b
  let (s, g) := exactAdd rm p c
  (s, f ||| g)

/-- A pairwise tree of exact sums (R22), by fuel on the depth. -/
def exactTree : Nat → List (Val × Flags) → Val × Flags
  | 0, _ => (.zero, 0)
  | _ + 1, [] => (.zero, 0)
  | _ + 1, [v] => v
  | fuel + 1, vs =>
    let k := (vs.length + 1) / 2
    let (a, f) := exactTree fuel (vs.take k)
    let (b, g) := exactTree fuel (vs.drop k)
    let (s, h) := exactAdd .rne a b
    (s, f ||| g ||| h)

/-! ## Formats (R10, R11) -/

/-- Exponent bits, mantissa bits, bias and the code of the greatest finite magnitude of a floating-point format. -/
structure FpFormat where
  ebits : Nat
  mbits : Nat
  bias : Nat
  maxCode : Nat
  hasInf : Bool
  deriving DecidableEq, Repr

def ElemType.fpFormat : ElemType → FpFormat
  | .bf16 => ⟨8, 7, 127, 0x7F7F, true⟩
  | .f16 => ⟨5, 10, 15, 0x7BFF, true⟩
  | .e5m2 => ⟨5, 2, 15, 0x7B, true⟩
  | .e4m3 => ⟨4, 3, 7, 0x7E, false⟩
  | .e3m2 => ⟨3, 2, 3, 0x1F, false⟩
  | .e2m3 => ⟨2, 3, 1, 0x1F, false⟩
  | .e2m1 => ⟨2, 1, 1, 0x7, false⟩
  | _ => ⟨8, 23, 127, 0x7F7FFFFF, true⟩

/-- The canonical quiet NaN of a format (R11); a format without NaN writes +0 (R16). -/
def qnan : ElemType → Nat
  | .bf16 => 0x7FC0
  | .f16 => 0x7E00
  | .e5m2 => 0x7E
  | .e4m3 => 0x7F
  | .f32 => 0x7FC00000
  | _ => 0

/-- The bits of the infinity of a format, without sign. -/
def infCode (t : ElemType) : Nat := (2 ^ t.fpFormat.ebits - 1) * 2 ^ t.fpFormat.mbits

/-- The sign bit of a floating-point format. -/
def signBit (t : ElemType) (neg : Bool) : Nat := if neg then 2 ^ (t.fpFormat.ebits + t.fpFormat.mbits) else 0

/-- Exact value of an encoding (R9, R10, R11). -/
def decodeElem (t : ElemType) (bits : Nat) : Val :=
  if t.isInt then
    if t.isSigned then Val.ofInt (signedOf t.width bits) else .num false (bits % 2 ^ t.width) 0
  else
    let f := t.fpFormat
    let m := bits % 2 ^ f.mbits
    let ex := bits / 2 ^ f.mbits % 2 ^ f.ebits
    let neg := bits / 2 ^ (f.mbits + f.ebits) % 2 == 1
    if f.hasInf && ex = 2 ^ f.ebits - 1 then
      if m = 0 then .inf neg else .nan (m < 2 ^ (f.mbits - 1))
    else if t = .e4m3 && ex = 15 && m = 7 then .nan false
    else if ex = 0 then .num neg m (1 - f.bias - f.mbits)
    else .num neg (2 ^ f.mbits + m) (ex - f.bias - f.mbits)

/-! ## The one rounding (R16) -/

/-- ⌊log2 (num / den)⌋ of a positive ratio. -/
def floorLog2 (num den : Nat) : Int :=
  let d : Int := (Nat.log2 num : Int) - Nat.log2 den
  if den * 2 ^ d.toNat ≤ num * 2 ^ (-d).toNat then d else d - 1

/-- Whether the remainder r / d of a quotient n rounds up, under a rounding code (R16). -/
def roundsUp (rm : Rm) (u : Nat) (neg : Bool) (n r d : Nat) : Bool :=
  match rm with
  | .rne => 2 * r > d || (2 * r = d && n % 2 == 1)
  | .rz => false
  | .rdn => r > 0 && neg
  | .rup => r > 0 && !neg
  | .sr => r * 2 ^ 32 / d + u ≥ 2 ^ 32
  | .rna => 2 * r ≥ d

/-- `RoundToFormat` of the finite non-zero value (−1)^neg × num / den (R16): its bits and flags. -/
def roundRatio (t : ElemType) (rm : Rm) (sat : Bool) (u : Nat) (neg : Bool) (num den : Nat) : Nat × Flags :=
  let f := t.fpFormat
  let minExp : Int := 1 - f.bias
  let lg := floorLog2 num den
  let e := max lg minExp
  let sh := e - f.mbits
  let n0 := num * 2 ^ (-sh).toNat
  let d0 := den * 2 ^ sh.toNat
  let n := n0 / d0
  let r := n0 % d0
  let n' := if roundsUp rm u neg n r d0 then n + 1 else n
  let inexact : Flags := if r > 0 then flagNX else 0
  let tiny : Flags := if r > 0 && lg < minExp then flagUF else 0
  -- the encodings of non-negative values rise with the value: the code may carry into the exponent
  let code := n' + (e - minExp).toNat * 2 ^ f.mbits
  if code > f.maxCode then
    let fl := inexact ||| tiny ||| flagOF ||| flagNX
    if sat || (!f.hasInf && t != .e4m3) then (signBit t neg + f.maxCode, fl ||| flagSAT)
    else if t = .e4m3 then (signBit t neg + 0x7F, fl)
    else if rm = .rz || (rm = .rdn && !neg) || (rm = .rup && neg) then (signBit t neg + f.maxCode, fl)
    else (signBit t neg + infCode t, fl)
  else (signBit t neg + code, inexact ||| tiny)

/-- `RoundToFormat(v, fmt, rm, sat, u)` (R16). A signalling NaN raises IV in a format with NaNs too, so that a float-to-float
conversion of one does (DEDUCED from R17, log entry 123: R16 and R141 raise nothing there). -/
def roundTo (t : ElemType) (rm : Rm) (sat : Bool) (u : Nat) (v : Val) : Nat × Flags :=
  match v with
  | .nan s =>
    if t.fpFormat.hasInf || t = .e4m3 then (qnan t, if s then flagIV else 0) else (0, flagIV)
  | .inf neg =>
    if t.fpFormat.hasInf && !sat then (signBit t neg + infCode t, 0)
    else if t = .e4m3 && !sat then (signBit t neg + 0x7F, flagOF)
    else (signBit t neg + t.fpFormat.maxCode, flagOF ||| flagSAT)
  | .num neg 0 _ => (signBit t neg, 0)
  | .num neg m e => roundRatio t rm sat u neg (m * 2 ^ e.toNat) (2 ^ (-e).toNat)

/-- Floating-point arithmetic: one exact operation, one rounding, the flags of both (R17). -/
def roundExact (t : ElemType) (rm : Rm) (x : Val × Flags) : Nat × Flags :=
  let (b, f) := roundTo t rm false 0 x.1
  (b, f ||| x.2)

/-- The value rounded to an integer of unbounded width, with whether it was inexact (R18). -/
def roundInt (rm : Rm) (neg : Bool) (m : Nat) (e : Int) : Int × Bool :=
  let num := m * 2 ^ e.toNat
  let den := 2 ^ (-e).toNat
  let n := num / den
  let r := num % den
  let n' := if roundsUp rm 0 neg n r den then n + 1 else n
  (if neg then -(n' : Int) else n', r > 0)

/-- Least and greatest value of an integer format (R9). -/
def intMin (t : ElemType) : Int := if t.isSigned then -(2 ^ (t.width - 1) : Nat) else 0
def intMax (t : ElemType) : Int := if t.isSigned then (2 ^ (t.width - 1) : Nat) - 1 else (2 ^ t.width : Nat) - 1

/-- `RoundToInt(v, ifmt, rm)` (R18): the bits and flags. -/
def roundToInt (t : ElemType) (rm : Rm) (v : Val) : Nat × Flags :=
  match v with
  | .nan _ => (0, flagIV)
  | .inf neg => (unsignedOf t.width (if neg then intMin t else intMax t), flagIV ||| flagSAT)
  | .num neg m e =>
    let (n, inexact) := roundInt rm neg m e
    if n < intMin t then (unsignedOf t.width (intMin t), flagIV ||| flagSAT)
    else if n > intMax t then (unsignedOf t.width (intMax t), flagIV ||| flagSAT)
    else (unsignedOf t.width n, if inexact then flagNX else 0)

/-- The conversion of one element (R141): float or integer to float or integer. -/
def convertElem (s d : ElemType) (rm : Rm) (sat : Bool) (u : Nat) (bits : Nat) : Nat × Flags :=
  let v := decodeElem s bits
  if d.isFloat then roundTo d rm sat u v
  else if s.isFloat then roundToInt d rm v
  else match v with
    | .num neg m _ =>
      let n : Int := if neg then -(m : Int) else m
      if intMin d ≤ n && n ≤ intMax d then (unsignedOf d.width n, 0)
      else if sat then (unsignedOf d.width (if n < intMin d then intMin d else intMax d), flagSAT)
      else (unsignedOf d.width n, 0)
    | _ => (0, 0)

/-! ## Minimum and maximum (R100, R133) -/

/-- −0 orders below +0; a NaN gives the canonical quiet NaN, with IV when a signalling NaN is involved. -/
def fpPick (t : ElemType) (wantMax : Bool) (a b : Nat) : Nat × Flags :=
  let x := decodeElem t a
  let y := decodeElem t b
  if x.isNan || y.isNan then (qnan t, if x.isSignalling || y.isSignalling then flagIV else 0)
  else
    let negA := bitOf a (t.width - 1)
    let less := x.lt y || (x.eqv y && negA)       -- of two equal values only the sign of zero can differ
    (if less = wantMax then b else a, 0)

/-! ## Stochastic words (R19, R20) -/

/-- One round of Philox-4×32. -/
def philoxRound (c : Nat × Nat × Nat × Nat) (k0 k1 : Nat) : Nat × Nat × Nat × Nat :=
  let (c0, c1, c2, c3) := c
  let p0 := 0xD2511F53 * c0
  let p1 := 0xCD9E8D57 * c2
  ((p1 / 2 ^ 32) ^^^ c1 ^^^ k0, p1 % 2 ^ 32, (p0 / 2 ^ 32) ^^^ c3 ^^^ k1, p0 % 2 ^ 32)

def philoxRounds : Nat → Nat × Nat × Nat × Nat → Nat → Nat → Nat × Nat × Nat × Nat
  | 0, c, _, _ => c
  | n + 1, c, k0, k1 =>
    philoxRounds n (philoxRound c k0 k1) ((k0 + 0x9E3779B9) % 2 ^ 32) ((k1 + 0xBB67AE85) % 2 ^ 32)

/-- `Philox4x32(c, k)` with ten rounds (R19). -/
def philox (c : Nat × Nat × Nat × Nat) (k0 k1 : Nat) : Nat × Nat × Nat × Nat := philoxRounds 10 c k0 k1

/-- `SrWord(seed, wid, tag, e)` (R20). -/
def srWord (seed wid : Word) (tag e : Nat) : Nat :=
  let e' := e % 2 ^ 34
  let (r0, r1, r2, r3) := philox
    (e' / 4, tag % 2 ^ 16, wid.toNat % 2 ^ 32, wid.toNat / 2 ^ 32) (seed.toNat % 2 ^ 32) (seed.toNat / 2 ^ 32)
  match e' % 4 with
  | 0 => r0
  | 1 => r1
  | 2 => r2
  | _ => r3

/-! ## Microscaling blocks (R12 to R15) -/

/-- The element formats of Microscaling streams (R13). -/
inductive MxFormat where
  | e4m3 | e5m2 | e3m2 | e2m3 | e2m1 | int8
  deriving DecidableEq, Repr, Inhabited

/-- The format byte of a block (R13); 0xF0, the zero block, is apart. -/
def MxFormat.byte : MxFormat → Nat
  | .e4m3 => 0x11 | .e5m2 => 0x12 | .e3m2 => 0x21 | .e2m3 => 0x22 | .e2m1 => 0x31 | .int8 => 0x41

def MxFormat.ofByte : Nat → Option MxFormat
  | 0x11 => some .e4m3 | 0x12 => some .e5m2 | 0x21 => some .e3m2 | 0x22 => some .e2m3 | 0x31 => some .e2m1
  | 0x41 => some .int8 | _ => none

/-- Bits of one payload element. -/
def MxFormat.bits : MxFormat → Nat
  | .e4m3 | .e5m2 | .int8 => 8
  | .e3m2 | .e2m3 => 6
  | .e2m1 => 4

def MxFormat.elem : MxFormat → ElemType
  | .e4m3 => .e4m3 | .e5m2 => .e5m2 | .e3m2 => .e3m2 | .e2m3 => .e2m3 | .e2m1 => .e2m1 | .int8 => .i8

/-- emax of R15. -/
def MxFormat.emax : MxFormat → Int
  | .e4m3 => 8 | .e5m2 => 15 | .e3m2 => 4 | .e2m3 => 2 | .e2m1 => 2 | .int8 => 0

/-- Payload bytes: 32, 24 or 16 (R13). -/
def MxFormat.payload (f : MxFormat) : Nat := 4 * f.bits

/-- Whether a slot class of 18, 26 or 34 bytes may hold the format (R13). -/
def MxFormat.fits (f : MxFormat) (slot : Nat) : Bool := 2 + f.payload ≤ slot

/-- The value of one payload element before its scale: an MXINT8 element is in units of 2^−6 (R12). -/
def MxFormat.value (f : MxFormat) (bits : Nat) : Val :=
  if f = .int8 then (Val.ofInt (signedOf 8 bits)).scale (-6) else decodeElem f.elem bits

/-- The rate K of a block (R22): 8 for MXFP4 and zero blocks, 4 otherwise. -/
def mxRate (byte : Nat) : Nat := if byte = 0x31 || byte = 0xF0 then 8 else 4

/-- `MxDecode`: the 32 exact values of a block, or none for a bad format byte or a format too wide for its slot (R14). -/
def mxDecode (slot : Nat) (block : List Byte) : Option (List Val) :=
  let fb := (block.headD 0).toNat
  if fb = 0xF0 then some (List.replicate 32 Val.zero)
  else match MxFormat.ofByte fb with
    | none => none
    | some f =>
      if !f.fits slot then none
      else
        let sc := ((block.drop 1).headD 0).toNat
        let pay := natOfBytes ((block.drop 2).take f.payload)
        if sc = 0xFF then some (List.replicate 32 (Val.nan false))
        else some ((List.range 32).map fun j => (f.value (bitsOf pay (f.bits * j) f.bits)).scale ((sc : Int) - 127))

/-- The scale exponent X of R15 for the magnitudes given, clamped to −127…127; none when every value is a zero. -/
def mxScaleExp (emax : Int) (vs : List Val) : Option Int :=
  let lg (v : Val) : Option Int := match v with
    | .num _ m e => if m = 0 then none else some ((Nat.log2 m : Int) + e)
    | _ => none
  let top := vs.foldl (fun (acc : Option Int) v => match lg v, acc with
    | none, a => a
    | some x, none => some x
    | some x, some y => some (max x y)) none
  top.map fun x => max (-127) (min 127 (x - emax))

/-- One element of a quantised block: rounded in units of 2^X with saturation (R15). -/
def mxElem (f : MxFormat) (rm : Rm) (u : Nat) (x : Int) (v : Val) : Nat × Flags :=
  if f = .int8 then
    match v.scale (6 - x) with
    | .num neg m e =>
      let r := roundToInt .i32 rm (.num neg m e)
      let n := signedOf 32 r.1
      -- the stochastic code rounds by the word u
      let n := if rm = .sr then
          let num := m * 2 ^ e.toNat
          let den := 2 ^ (-e).toNat
          let q := num / den
          let q' := if roundsUp .sr u neg q (num % den) den then q + 1 else q
          if neg then -(q' : Int) else q'
        else n
      let inexact : Flags := if m * 2 ^ e.toNat % 2 ^ (-e).toNat > 0 then flagNX else 0
      if n > 127 then (unsignedOf 8 127, flagSAT ||| flagNX)
      else if n < -127 then (unsignedOf 8 (-127), flagSAT ||| flagNX)
      else (unsignedOf 8 n, inexact)
    | _ => (0, 0)
  else roundTo f.elem rm true u (v.scale (-x))

/-- `MxEncode` (R15): the bytes of a block (format byte, scale, payload) and the flags; `u j` is the stochastic word of
element j. The block is padded with zeros to its slot (R14). -/
def mxEncode (f : MxFormat) (slot : Nat) (rm : Rm) (u : Nat → Nat) (vs : List Val) : List Byte × Flags :=
  let pad (bs : List Byte) := bs ++ List.replicate (slot - bs.length) 0
  let special := vs.any fun v => match v with
    | .num .. => false
    | _ => true
  if special then (pad [BitVec.ofNat 8 f.byte, 0xFF], flagIV)
  else
    let xs := mxScaleExp f.emax vs
    let x := xs.getD (-127)
    let els := (vs.zipIdx).map fun (v, j) =>
      if xs.isNone then
        (match v with
          | .num neg _ _ => if f = MxFormat.int8 then (0, 0) else (signBit f.elem neg, (0 : Flags))
          | _ => (0, 0))
      else mxElem f rm (u j) x v
    let pay := (els.zipIdx).foldl (fun acc (p, j) => acc + (p.1 % 2 ^ f.bits) * 2 ^ (f.bits * j)) 0
    (pad ([BitVec.ofNat 8 f.byte, BitVec.ofNat 8 (x + 127).toNat] ++ bytesOfNat f.payload pay),
      els.foldl (fun acc p => acc ||| p.2) 0)

/-! ## Accumulators (R22 to R24) -/

/-- The sticky flags of an ACCX tile or row state (R23). -/
structure AccFlags where
  nx : Bool
  range : Bool
  nan : Bool
  deriving DecidableEq, Repr, Inhabited

def AccFlags.none : AccFlags := ⟨false, false, false⟩
def AccFlags.or (a b : AccFlags) : AccFlags := ⟨a.nx || b.nx, a.range || b.range, a.nan || b.nan⟩

/-- The saturating 128-bit sum of R23. -/
def accxSat (t : Int) : Int × Bool :=
  if t ≥ (2 ^ 127 : Nat) then ((2 ^ 127 : Nat) - 1, true)
  else if t < -(2 ^ 127 : Nat) then (-(2 ^ 127 : Nat), true)
  else (t, false)

/-- `AccxAdd(A, p, anchor, tile)` (R23). -/
def accxAdd (a : Int) (p : Val) (anchor : Int) (f : AccFlags) : Int × AccFlags :=
  match p with
  | .nan _ => (a, { f with nan := true })
  | .inf neg =>
    let q : Int := if neg then -((2 ^ 100 : Nat) - 1) else (2 ^ 100 : Nat) - 1
    ((accxSat (a + q)).1, { f with range := true })
  | .num neg m e =>
    let sh := e - anchor
    let s : Int := if neg then -(m : Int) else m
    let big := m != 0 && (2 ^ 100 : Nat) * 2 ^ (-sh).toNat ≤ m * 2 ^ sh.toNat
    let q : Int := if big then (if neg then -((2 ^ 100 : Nat) - 1) else (2 ^ 100 : Nat) - 1)
      else (s * (2 ^ sh.toNat : Nat)) / (2 ^ (-sh).toNat : Nat)   -- Int division floors for a positive divisor
    let exact := big || q * (2 ^ (-sh).toNat : Nat) = s * (2 ^ sh.toNat : Nat)
    let (t, sat) := accxSat (a + q)
    (t, ⟨f.nx || !exact, f.range || big || sat, f.nan⟩)

/-- The value A × 2^anchor of an ACCX integer. -/
def accxVal (a : Int) (anchor : Int) : Val := .num (a < 0) a.natAbs anchor

/-- One k-step of an ACC32 cell (R22): the exact sum of the products, then one rounding of a + sum. -/
def acc32Step (a : Nat) (ps : List (Val × Flags)) : Nat × Flags :=
  let (s, f) := exactTree 8 ps
  let (t, g) := exactAdd .rne (decodeElem .f32 a) s
  let (b, h) := roundTo .f32 .rne false 0 t
  (b, f ||| g ||| h)

end Sys2Proof
end

