-- ==== Sys2Proof/Machine/StrandState.lean ====
section
/-! DEFINITION. The state of one strand or T context, and what the A, X and T strands share inside themselves (03_strand,
05_vector, 10_core_traps). -/

namespace Sys2Proof.Machine

/-- What a result writes at its exposed latency: the kinds of a replay descriptor (R260). Vector writes carry the nibble
mask of the elements they write (R123), so that an element not written keeps its previous value. -/
inductive Effect where
  | flagsOnly
  | scalar (r : Fin 64) (v : Word)
  | pred (r : Fin 16) (v : Bool)
  | vec (parts : List (Fin 64 × VReg)) (mask : Mask)
  | maskPush (top : Mask)
  | maskTop (top : Mask)
  | maskPop
  | template (r : Fin 64) (v : Tmpl) (quarters : BitVec 4)
  | lut (v : VReg)
  | sysreg (n : Nat) (v : Word)
  deriving DecidableEq, Repr, Inhabited

/-- A result in flight (R75 to R77): what it writes, the flags it raises, the cycle of its write, whether its latency is a
minimum, the data address when its data are poisoned (R265), the address of its group, whether it is a replay entry
(R86), and whether it is written already (it counts through its write cycle, R77). -/
structure Result where
  eff : Effect
  flags : Flags
  due : Nat
  minimum : Bool
  poison : Option Word
  group : Nat
  replay : Bool
  written : Bool
  deriving DecidableEq, Repr, Inhabited

/-- A captured replay entry that awaits the issue of the group at `sr.epc` (R86, R260): `remaining` counts from it. -/
structure ReplayEntry where
  eff : Effect
  flags : Flags
  remaining : Nat
  deriving DecidableEq, Repr, Inhabited

/-- A posted store or non-returning atomic that has issued and is not performed yet (R94, R99). -/
inductive Posted where
  | store (pa : Nat) (bytes : List Byte)
  | atomic (func : Nat) (pa : Nat) (operand : Word) (expected : Word)
  deriving DecidableEq, Repr, Inhabited

/-- Why a strand traps: the cause code and the words it writes to tval and orig (R268). -/
structure Cause where
  code : Byte
  tval : Word
  orig : Word
  /-- the engine fault record, for `ENGINE_FAULT` (R266) -/
  erec : BitVec 512
  /-- whether it is taken at a boundary and not raised by the group (R259) -/
  asy : Bool
  deriving DecidableEq, Repr, Inhabited

/-- A response that holds a strand's later groups (R101, R103, R227, R231, R247, R254, R360): the cycle it was issued in,
the cycle it returns in, and what it then does: it lets the strand continue, having written a result, or it carries a
cause that traps precisely at the held group. -/
structure Hold where
  since : Nat
  due : Nat
  write : Effect
  flags : Flags
  trap : Option Cause
  deriving DecidableEq, Repr, Inhabited

/-- A running nest (R159, R161): the captured descriptor, the body's syllables group by group, the address of the first
body group, the counters c0 to c5, the iteration i, the trip product T, S, rot, the position g of the next body group. -/
structure Nest where
  desc : BitVec 512
  body : List (List Nat)
  base : Nat
  c : List Nat
  i : Nat
  trips : Nat
  s : Nat
  rot : Bool
  g : Nat
  deriving DecidableEq, Repr, Inhabited

/-- An open speculation region (R112, R172): its range, the lines the strand has written, and their shadow copies. -/
structure SpecRegion where
  base : Nat
  len : Nat
  lines : List Nat
  data : Memory
  /-- the shadow lines that are poisoned: copies of a poisoned line not wholly overwritten (R175) -/
  poison : List Nat
  deriving DecidableEq, Repr, Inhabited

/-- Whether a strand issues (R105, R116, R220): idle (no entry in the launch), running, ended by `TASKEND` or `OVSWAP`,
waiting for a token (T), stopped at its boundary by an unsatisfied `CWAIT` or a double trap, or (on the controller)
waiting for a memory counter or for a fragment's jump. -/
inductive Run where
  | idle | running | ended | waiting | stopped
  | counterWait (pa : Nat) (target : Word) (scope : Nat) | fragmentWait
  deriving DecidableEq, Repr, Inhabited

/-- The state of a strand, of a T context, or of the cluster controller's strand. -/
structure Strand where
  run : Run
  pc : Nat
  /-- where the strand resumes if it is restarted at its ending group (R267) -/
  endGroup : Nat
  x : Vector Word 64
  v : Vector VReg 64
  p : Vector Bool 16
  /-- mask entries above the base entry, the top first (R71, R153) -/
  masks : List Mask
  vrb : BitVec 5
  prb : BitVec 3
  /-- `sr.status` bits 11 RQ, 10 SPEC, 9 PPL, 8 TH, 7 PL (R74); MDEPTH is the length of `masks` -/
  rq : Bool
  spec : Bool
  ppl : Bool
  th : Bool
  pl : Bool
  flags : Flags
  handler : Word
  epc : Word
  cause : Word
  tval : Word
  traparea : Word
  kscr0 : Word
  kscr1 : Word
  results : List Result
  replays : List ReplayEntry
  /-- the replay store (R261): the filled slots, with the raw value of the slot, and which nibbles or quarters it writes -/
  replayStore : List (Nat × BitVec 16384 × Mask)
  posted : List Posted
  hold : Option Hold
  nest : Option Nest
  region : Option SpecRegion
  /-- the cycle until which the committed lines are being copied back (R172); none when they are back -/
  copyBack : Option Nat
  /-- poison arrivals not yet taken: the data address and the loading group (R265) -/
  poisons : List (Word × Nat)
  /-- poison arrivals that a trap entry found beside its cause: they stay pending until TH is 0 (R264) -/
  held : List (Word × Nat)
  /-- the flags that the last returning atomic's response carried (R29, R100) -/
  returned : Flags
  /-- engine fault reports not yet taken, by queue and in fault order (R264, R267) -/
  reports : List (Nat × BitVec 512)
  /-- cycles counted against the issue watchdog, and the head command and phase they count for (R192) -/
  stall : Nat
  stallHead : Nat
  /-- the cycle from which the V slot is free (T strand, R68) -/
  vFree : Nat
  deriving DecidableEq, Repr, Inhabited

/-- A strand's state at core reset (R71, R73, R74): privileged level, everything else zero or empty. -/
def Strand.reset : Strand where
  run := .idle
  pc := 0
  endGroup := 0
  x := Vector.replicate 64 0
  v := Vector.replicate 64 0
  p := Vector.replicate 16 false
  masks := []
  vrb := 0
  prb := 0
  rq := false
  spec := false
  ppl := false
  th := false
  pl := true
  flags := 0
  handler := 0
  epc := 0
  cause := 0
  tval := 0
  traparea := 0
  kscr0 := 0
  kscr1 := 0
  results := []
  replays := []
  replayStore := []
  posted := []
  hold := none
  nest := none
  region := none
  copyBack := none
  poisons := []
  held := []
  returned := 0
  reports := []
  stall := 0
  stallHead := 0
  vFree := 0

/-- A strand at task start (R71, R73): the registers the table keeps stay, every other one takes its task-start value. -/
def Strand.taskStart (s : Strand) (run : Run) (pc : Nat) : Strand :=
  { Strand.reset with
    run := run, pc := pc, endGroup := pc, pl := false
    handler := s.handler, epc := s.epc, cause := s.cause, tval := s.tval, traparea := s.traparea
    kscr0 := s.kscr0, kscr1 := s.kscr1, copyBack := s.copyBack }

/-- What the contexts of one strand share (R53, R73, R150, R181). -/
structure StrandUnit where
  w : Vector Tmpl 64
  lut : VReg
  seed : Word
  ibase : Word
  ilimit : Word
  deriving DecidableEq, Repr, Inhabited

/-- Core reset values of R53, R73 and R150. -/
def StrandUnit.reset : StrandUnit where
  w := Vector.replicate 64 0
  lut := 0
  seed := 0
  ibase := 0
  ilimit := 0x40000

end Sys2Proof.Machine
end

