-- ==== Sys2Proof/Machine/CoreState.lean ====
section
/-! DEFINITION. The state of one core: its stores, queues, counters, tiles, engines and task (07_core_storage,
08_core_engines, 09_attention, 10_core_traps). -/

namespace Sys2Proof.Machine

/-- One entry of a data queue (R97, R188). A reserved entry awaits its `LDQ` data until its cycle; a full or poisoned one is
poppable from the cycle `ready`. -/
structure QEntry where
  data : BitVec 512
  ready : Nat
  reserved : Bool
  poison : Bool
  /-- the address the entry was loaded from and the group that loaded it, for `LDQ` poison -/
  addr : Word
  group : Nat
  deriving DecidableEq, Repr, Inhabited

/-- A data queue: its head index and its entries in use, the head first (R188). -/
structure DataQueue where
  head : Fin 16
  entries : List QEntry
  deriving DecidableEq, Repr, Inhabited

/-- A branch-outcome queue: its head index, and its bits with the cycle from which each can be popped (R98, R188). -/
structure BranchQueue where
  head : Fin 32
  entries : List (Bool × Nat)
  deriving DecidableEq, Repr, Inhabited

/-- The ceiling state of a local counter (R108, R189): linked, the linked counter, the slack. -/
structure Link where
  linked : Bool
  target : Fin 64
  slack : Word
  deriving DecidableEq, Repr, Inhabited

/-- A local counter (R106 to R108, R189): its count with every applied add in it, its link, a `KLINK` that governs from a
later cycle, and the recent adds (agent, amount, cycle) that are not visible to every agent yet (R75). -/
structure Counter where
  count : Word
  link : Link
  newLink : Option (Nat × Link)
  recent : List (Nat × Nat × Nat)
  deriving DecidableEq, Repr, Inhabited

def Counter.reset : Counter := ⟨0, ⟨false, 0, 0⟩, none, []⟩

/-- A ring (R179): the state word that claims use, and the definitions that they do not use yet, oldest first: the cycle from which
claims use it, and the new word, or none where the ring becomes undefined (R222). -/
structure Ring where
  word : Word
  changes : List (Nat × Option Word)
  deriving DecidableEq, Repr, Inhabited

/-- A claim of a command on a tile (R178): whether as destination, and whether it is the slot of the page ring that the command's engine
consumes (R232). -/
structure Claim where
  tile : Fin 64
  dest : Bool
  page : Bool
  deriving DecidableEq, Repr, Inhabited

/-- The resume cursor of a command (R195, R266): the nest index of a copy, the block and k group of a matrix command, the
entry of an attention command, or the signal phase. -/
structure Cursor where
  c : List Nat
  block : Nat
  k : Nat
  entry : Nat
  signal : Bool
  deriving DecidableEq, Repr, Inhabited

def Cursor.start : Cursor := ⟨[0, 0, 0, 0, 0, 0], 0, 0, 0, false⟩

/-- An engine fault of a command: its inner cause and the words of its record (R266). -/
structure EngineFault where
  code : Byte
  addr : Word
  extra : Word
  extra2 : Word
  deriving DecidableEq, Repr, Inhabited

/-- A command of an engine queue (R57, R191). -/
structure Command where
  /-- the issue image, and the copy nest pair captured with it (R207) -/
  image : Image
  nest : Image
  /-- the issuing strand and the template it named -/
  by_ : Who
  name : Fin 64
  /-- the order of issue on the core, and the started-copy number (R266) -/
  seq : Nat
  number : Nat
  /-- what else is captured at issue: `sr.seed`, the work identifier, the slot's handle (R231), the mask register (R239) -/
  seed : Word
  wid : Word
  handle : Option (BitVec 32)
  maskMode : Word
  maskBase : Word
  /-- the level of the issuing strand (R418), and the cycle in which its walker read the descriptor (R409) -/
  pl : Bool
  readAt : Nat
  /-- the tiles claimed (R178), the slot addresses of the operands located so far, and the records read (R218) -/
  claims : List Claim
  places : List (Nat × Nat)
  records : List (List Byte)
  cursor : Cursor
  fault : Option EngineFault
  /-- the order of the fault among the core's faults, and whether its report has been delivered to the strand -/
  faultSeq : Nat
  reported : Bool
  /-- the cycle in which a head had its wait and acquire phases behind it and reached its claims, and whether it has made
  them (R180, R191) -/
  passed : Option Nat
  claimed : Bool
  /-- whether it has started and waits at its cursor, its engine taken (R187, R190) -/
  paused : Bool
  /-- the cycle of its signal phase once it has performed its accesses -/
  due : Nat
  /-- flags of its conversions and drains (R196) -/
  flags : Flags
  range : Bool
  nan : Bool
  /-- the status of its completion, and the byte offset that goes with `STREAM_MALFORMED` (R7, R357) -/
  status : Byte
  statusAt : Nat
  /-- a copy held by a full start queue, or a fabric command's number -/
  aux : Nat
  deriving DecidableEq, Repr, Inhabited

/-- An engine queue (R190, R196): the commands not started, the commands started and not retired, whether it is frozen,
and the fields of its status word that outlast a command. -/
structure Queue where
  waiting : List Command
  started : List Command
  frozen : Bool
  last : Byte
  range : Bool
  nan : Bool
  flags : Flags
  /-- the byte offset in the completion of the last command (R357) -/
  lastAt : Nat
  /-- the cycle from which its engine takes the next command: the one after a retirement (R281) -/
  free : Nat
  deriving DecidableEq, Repr, Inhabited

def Queue.empty : Queue := ⟨[], [], false, 0, false, false, 0, 0, 0⟩

/-- One state slot of the DLE (R245): the 576-byte slot record, and its half of the state RAM. -/
structure DleSlot where
  record : Memory
  ram : Memory
  deriving DecidableEq, Repr, Inhabited

/-- A request to start a dormant T context (R182). -/
structure StartRequest where
  handler : Nat
  x1 : Word
  x2 : Word
  x3 : Word
  deriving DecidableEq, Repr, Inhabited

/-- Where a strand resumes in a continuation's task (R105). -/
inductive SavedPc where
  | at (pc : Nat) | ended | idle | waiting
  deriving DecidableEq, Repr, Inhabited

/-- The fields of a launch header that a task keeps (R72, R295). -/
structure Header where
  va : Nat
  code : Nat
  lena : Nat
  lenx : Nat
  lent : Nat
  entryA : Nat
  entryX : Nat
  entryT : Nat
  widths : List Nat
  scratch : Nat
  acc : Nat
  tvregs : Nat
  templates : Nat
  rotate : Nat
  coop : Nat
  prio : Nat
  trailer : Byte
  maxnode : Nat
  deriving DecidableEq, Repr, Inhabited

/-- A continuation of an unsatisfied `CWAIT` (R105): what the save area holds, with the waiter's registration. -/
structure Continuation where
  a : SavedPc
  x : SavedPc
  t : SavedPc
  wid : Word
  prio : Nat
  seed : Word
  scalars : List (Fin 64 × Word)
  vectors : List (Fin 64 × VReg)
  scope : Nat
  cluster : Nat
  /-- the launch entry it belongs to, the header its code runs under, its co-operative width and member, and its work-list set -/
  launch : Nat
  header : Header
  width : Nat
  member : Nat
  set : Option Nat
  /-- whether the save area holds it yet -/
  written : Bool
  /-- whether its counter has reached the target -/
  released : Bool
  /-- the waiter it is registered with -/
  waiter : Nat
  deriving DecidableEq, Repr, Inhabited

/-- The task a core runs (R304, R306). -/
structure Task where
  /-- the number of its launch's scoreboard entry, which stands for the launch (R167) -/
  launch : Nat
  header : Header
  wid : Word
  seed : Word
  prio : Nat
  /-- co-operative width and member (R304) -/
  width : Nat
  member : Nat
  /-- order of the start, for R311 -/
  startedAt : Nat
  /-- the cycle from which its strands issue (R304) -/
  readyAt : Nat
  /-- the next overlay named by an `OVSWAP` of A (R117), and the A registers it passes -/
  swap : Option Word
  /-- the continuation that an unsatisfied `CWAIT` leaves (R105) -/
  ending : Option Continuation
  /-- the outstanding pre-emption request (R311): its cycle, and whether it has become forced (R312) -/
  request : Option Nat
  forced : Bool
  /-- `KCANCEL` with HARD = 1 stops it as a forced pre-emption does, without an image (R326) -/
  cancelled : Bool
  /-- the work-list set whose item it is (R321) -/
  set : Option Nat
  /-- completion code of the task: nonzero when a queue was cancelled after an ending `CWAIT`, or a swap failed -/
  status : Byte
  deriving DecidableEq, Repr, Inhabited

/-- A debugger halt (R85, R275): DRAIN or FREEZE, the cause of a double trap if it was one, the strand it stands on, the
strand that is to issue one group as a step (R277), what the debugger has written, which takes effect on resumption (R276), and the
contexts whose results in flight are still to be captured, each in the cycle in which its next group would have issued (R84, R275). -/
structure Halt where
  drain : Bool
  cause : Option Cause
  strand : Who
  step : Option Who
  writes : List (DebugTarget × Word)
  stopping : List Who
  deriving DecidableEq, Repr, Inhabited

/-- The sticky flags of an accumulator block, kept with its first plane (R184). -/
structure BlockFlags where
  f32 : Flags
  x : AccFlags
  deriving DecidableEq, Repr, Inhabited

/-- A core. -/
structure Core where
  die : Fin 24
  cluster : Fin 6
  number : Fin 8
  /-- the three strands and T's dormant contexts 1 to 4 (R67, R181) -/
  a : Strand
  x : Strand
  t : Strand
  t1 : Strand
  t2 : Strand
  t3 : Strand
  t4 : Strand
  ua : StrandUnit
  ux : StrandUnit
  ut : StrandUnit
  /-- the T contexts in the order in which they are served, the one that issued last at the end (R183) -/
  turnsT : List (Fin 5)
  /-- attention-mask register of the X strand (R239): mode word and bitmap base -/
  maskMode : Word
  maskBase : Word
  /-- sequence slots: handle and bound bit (R230) -/
  slots : Vector (Option (BitVec 32)) 8
  q : Vector DataQueue 8
  bqAX : BranchQueue
  bqXA : BranchQueue
  k : Vector Counter 64
  /-- tile registers in the layout of R176, and rings -/
  tile : Vector Word 64
  ring : Vector Ring 8
  /-- pinned ways, scratchpad bytes and poisoned lines (R166 to R175) -/
  ways : Nat
  /-- the memory lines that the local store caches, (way, line), the last one used first (R169); a copy's bytes are memory's -/
  cache : List (Nat × Nat)
  scratch : Memory
  scratchPoison : List Nat
  /-- accumulator store: byte (plane × 65,536 + (128 r + c) × 4 + b), poisoned 128-byte lines, block flags by plane -/
  acc : Memory
  accPoison : List Nat
  blocks : Vector BlockFlags 32
  /-- instruction store and its marked syllables (R69, R110) -/
  istore : Memory
  marks : List Nat
  dle : Vector DleSlot 2
  queue : Vector Queue 8
  starts : List StartRequest
  task : Option Task
  /-- the launch of the previous task (R167) -/
  previous : Option Nat
  /-- tokens started in this task (R220) -/
  tokens : Nat
  /-- the OPA queue that ran last (R187) -/
  opaLast : Option Nat
  /-- entries of the range or list that the OPA's last attention command has processed (R245) -/
  opaCursor : Nat
  halt : Option Halt
  /-- numbers given out: commands issued, copies started, faults -/
  seq : Nat
  copies : Nat
  faults : Nat
  /-- the cycle of its last reset (R118) -/
  since : Nat
  deriving DecidableEq, Repr, Inhabited

/-- A core after core reset: everything zero or empty (R71, R73, R176, R179, R187, R189, R196, R230, R239, R245). -/
def Core.reset (die : Fin 24) (cluster : Fin 6) (number : Fin 8) : Core where
  die := die
  cluster := cluster
  number := number
  a := .reset
  x := .reset
  t := .reset
  t1 := .reset
  t2 := .reset
  t3 := .reset
  t4 := .reset
  ua := .reset
  ux := .reset
  ut := .reset
  turnsT := [0, 1, 2, 3, 4]
  maskMode := 0
  maskBase := 0
  slots := Vector.replicate 8 none
  q := Vector.replicate 8 ⟨0, []⟩
  bqAX := ⟨0, []⟩
  bqXA := ⟨0, []⟩
  k := Vector.replicate 64 .reset
  tile := Vector.replicate 64 0
  ring := Vector.replicate 8 ⟨0, []⟩
  ways := 0
  cache := []
  scratch := []
  scratchPoison := []
  acc := []
  accPoison := []
  blocks := Vector.replicate 32 ⟨0, .none⟩
  istore := []
  marks := []
  dle := Vector.replicate 2 ⟨[], []⟩
  queue := Vector.replicate 8 .empty
  starts := []
  task := none
  previous := none
  tokens := 0
  opaLast := none
  opaCursor := 0
  halt := none
  seq := 0
  copies := 0
  faults := 0
  since := 0

end Sys2Proof.Machine
end

