-- ==== Sys2Proof/Machine/ClusterState.lean ====
section
/-! DEFINITION. The state of one cluster: its controller, scoreboard, dispatch array, work lists and record cache
(12_cluster; R218). -/

namespace Sys2Proof.Machine

/-- A declared range of a scoreboard entry (R298): bytes of memory or a box of tiles, written or only read. -/
inductive Range where
  | bytes (write : Bool) (base len : Nat)
  | box (write : Bool) (id : Nat) (lo hi : List Nat)
  deriving DecidableEq, Repr, Inhabited

/-- A launch record (R296). -/
structure LaunchRecord where
  seed : Word
  wbase : Word
  ext : List Nat
  comp : Nat
  donek : Nat
  doneinc : Word
  errk : Nat
  deriving DecidableEq, Repr, Inhabited

/-- A saved node of a cooperative pre-emption (R311): the next header's address and x1 to x8 of the A strand. -/
structure SavedNode where
  header : Word
  regs : List Word
  deriving DecidableEq, Repr, Inhabited

/-- The image of a forced pre-emption (R270): of its header the partition, magic number, version and task identity, the pinned ways
and accumulator planes, and the sizes of the sections of each core's image; then the cores' state as it was saved. -/
structure SavedImage where
  part : Fin 16
  magic : Nat
  version : Nat
  launch : Nat
  wid : Word
  ways : Nat
  planes : Nat
  sections : List (List Nat)
  cores : List Core
  /-- the 16 shared counters of a co-operative group (R309) -/
  shared : List Counter
  deriving DecidableEq, Repr, Inhabited

/-- Resumed work of an entry (R304): a continuation, a saved node, or a saved image, with the task it belongs to. -/
inductive Resumed where
  | continuation (c : Continuation)
  | node (ns : List SavedNode) (t : Task)
  | image (i : SavedImage) (t : Task)
  deriving DecidableEq, Repr, Inhabited

/-- What an accepted scoreboard entry does (R292). -/
inductive EntryOp where
  | launch | stream | append | take | quiesce | accept
  deriving DecidableEq, Repr, Inhabited

/-- A scoreboard entry (R301). -/
structure Entry where
  /-- its number, which no other entry of the module has, and its tag (2^16 for an operation without one) -/
  serial : Nat
  op : EntryOp
  tag : Nat
  /-- the command that made it: its image, for its release and signal (R292) -/
  cmd : Command
  header : Header
  record : LaunchRecord
  ranges : List Range
  prio : Nat
  issued : Bool
  /-- the index of the lowest undispatched work identifier, and how many tasks there are (R297, R304) -/
  next : Nat
  total : Nat
  /-- tasks retired or cancelled; continuations started; pre-emptions (R300) -/
  done : Nat
  conts : Nat
  cooperative : Nat
  forced : Nat
  status : Byte
  cx : Bool
  /-- its own action is complete (`KSTREAM`, `WL.APPEND`, `WL.TAKE`, `ACCEPT`), and how far an append has come -/
  complete : Bool
  progress : Nat
  /-- the work-list set of an append or a take, and the replay a graph node belongs to (R313, R321) -/
  set : Option Nat
  replay : Option Nat
  deriving DecidableEq, Repr, Inhabited

/-- A graph replay that has not retired (R313, R315): its record's address, its command, the nodes still to accept (header and
launch record), and its done counter with the increment. -/
structure Replaying where
  record : Nat
  cmd : Command
  nodes : List (Nat × Nat)
  donek : Nat
  doneinc : Word
  deriving DecidableEq, Repr, Inhabited

/-- One list of an open set (R317): its base, log2 capacity, head and tail. -/
structure WorkList where
  base : Nat
  cap : Nat
  head : Nat
  tail : Nat
  deriving DecidableEq, Repr, Inhabited

/-- An open work-list set (R317, R318). -/
structure WorkSet where
  va : Nat
  lists : List WorkList
  listsAt : Nat
  emit : Nat
  entries : Nat
  termk : Nat
  tinc : Word
  record : Nat
  /-- items taken whose task has not retired with its emit slot appended (R322) -/
  inProgress : Nat
  fired : Bool
  deriving DecidableEq, Repr, Inhabited

/-- A core whose emit slot is still to be appended (R320), with the set. -/
structure EmitPending where
  core : Fin 8
  set : Nat
  /-- whether the item is no longer in progress once the slot has been appended -/
  ends : Bool
  /-- the next entry of the slot and how many there are, once the count has been read -/
  todo : Option (Nat × Nat)
  deriving DecidableEq, Repr, Inhabited

/-- A cluster. -/
structure Cluster where
  die : Fin 24
  number : Fin 6
  /-- the controller's strand, unit, counters, instruction store and data RAM (R289) -/
  c : Strand
  u : StrandUnit
  k : Vector Counter 64
  istore : Memory
  marks : List Nat
  ram : Memory
  ramPoison : List Nat
  /-- the controller's command queue (R292) -/
  queue : Queue
  seq : Nat
  faults : Nat
  /-- a controller stopped by cbootgo STOP or a double trap (R291, R377) -/
  stopped : Bool
  entries : List Entry
  serial : Nat
  starts : Nat
  pointer : Fin 15
  resumed : List (Nat × Resumed)
  /-- registered continuations that are not both released and written (R105) -/
  conts : List Continuation
  /-- shared counters k48 to k63 of the co-operative groups, by the group's first core (R309) -/
  shared : List (Nat × List Counter)
  replaying : List Replaying
  sets : List WorkSet
  emits : List EmitPending
  jump : Vector (BitVec 32) 16
  acceptance : BitVec 4
  /-- entries whose last dependence retired in a cycle: they may issue in the next (R302) -/
  retired : List (Nat × Nat)
  /-- record cache, the most recently used first: address and the 128 bytes (R218) -/
  records : List (Nat × List Byte)
  /-- the cycle of the controller's last reset (R118) -/
  since : Nat
  deriving DecidableEq, Repr, Inhabited

/-- A cluster after cluster reset (R289, R305, R323, R324). -/
def Cluster.reset (die : Fin 24) (number : Fin 6) : Cluster where
  die := die
  number := number
  c := .reset
  u := .reset
  k := Vector.replicate 64 .reset
  istore := []
  marks := []
  ram := []
  ramPoison := []
  queue := .empty
  seq := 0
  faults := 0
  stopped := false
  entries := []
  serial := 0
  starts := 0
  pointer := 0
  resumed := []
  conts := []
  shared := []
  replaying := []
  sets := []
  emits := []
  jump := Vector.replicate 16 0xFFFFFFFF
  acceptance := 0
  retired := []
  records := []
  since := 0

end Sys2Proof.Machine
end

