-- ==== Sys2Proof/Machine/ModuleState.lean ====
section
/-! DEFINITION. The state of the module beyond its clusters: physical memory, L2, RDC, translation caches, waiters,
partitions, the host's windows, checkpoint, power, the Madder pools and the fabric (14_die_memory, 16_module, 17_madder,
18_fabric). -/

namespace Sys2Proof.Machine

/-- A cached translation (R340): its die, the core of the die whose TLB holds it (none: the die's translation cache), its
partition, the level of its leaf, the virtual page, and the entry. -/
structure Translation where
  die : Fin 24
  core : Option Nat
  part : Fin 16
  level : Nat
  page : Nat
  entry : Nat
  deriving DecidableEq, Repr, Inhabited

/-- An L2 line (R342, R345, R348): its tag, the line of its physical address and the die of the L2. A line under a tensor tag holds
its own data. A flat line has id 0: `Module.mem` holds what it reads as, and while it is dirty `data` and `poison` are what
memory holds beneath it. -/
structure L2Line where
  part : Fin 16
  id : Nat
  coord : Nat
  line : Nat
  home : Nat
  data : List Byte
  dirty : Bool
  pinned : Bool
  poison : Bool
  deriving DecidableEq, Repr, Inhabited

/-- An RDC line (R346): the die, its tag (R342), the line, and the cycle its lease was granted in. Its copy is what memory holds
(log entry 79). -/
structure RdcLine where
  die : Fin 24
  part : Fin 16
  id : Nat
  coord : Nat
  line : Nat
  granted : Nat
  deriving DecidableEq, Repr, Inhabited

/-- What a waiter entry releases (R353): a registered continuation of a cluster, or a waiting controller. -/
inductive Waiting where
  | continuation (die : Fin 24) (cluster : Fin 6) (waiter : Nat)
  | controller (die : Fin 24) (cluster : Fin 6)
  deriving DecidableEq, Repr, Inhabited

/-- A waiter entry of a base die (R353): home die and stack, owner, counter, target, and whom it releases. -/
structure Waiter where
  die : Fin 24
  stack : Fin 2
  part : Fin 16
  pa : Nat
  target : Word
  who : Waiting
  deriving DecidableEq, Repr, Inhabited

/-- The state of a partition (R383). -/
inductive PartState where
  | free | live | scrubbing
  deriving DecidableEq, Repr, Inhabited

/-- A move of a page from CXL or a lender that has not ended (R413): the record, and the tier, frame, slot and lender it leaves;
the torus port of that lender, the data of a borrowed frame once they have arrived and which lines of them are poisoned; whether the
pool started it by itself. -/
structure Move where
  record : Nat
  tier : Nat
  frame : Nat
  slot : Nat
  module : Nat
  port : Nat
  due : Nat
  data : Option (List Byte)
  /-- the part of a borrowed page that has come, and its poisoned lines (R359) -/
  buf : List Byte
  bad : List Nat
  own : Bool
  deriving DecidableEq, Repr, Inhabited

/-- A frame lent to or borrowed from a torus neighbour through a port of this module (R414, R415, R450). Of a borrowed one the model keeps
the contents that it has sent there, and which 128-byte lines of them are poisoned (R359, log entry 13). -/
structure Loan where
  frame : Nat
  data : Memory
  poison : List Nat
  module : Nat
  port : Nat
  /-- whether the borrower has accepted it; the cycle of its recall, and the notice in units of 1,024 cycles -/
  answered : Bool
  recalled : Option Nat
  notice : Nat
  deriving DecidableEq, Repr, Inhabited

/-- The Madder pool of a partition (R397 to R399): the address of its registered record, the 128 bytes in force, the
access count, records that wait to become FREE with the cycle of their release, moves, loans, and, as the model's own note, the
records whose page has 64 channels. -/
structure Pool where
  va : Nat
  record : List Byte
  accesses : Nat
  pending : List (Nat × Nat)
  /-- descriptor indices freed while a walker ran, with the cycle (R422) -/
  freed : List (Nat × Nat)
  moves : List Move
  lent : List Loan
  borrowed : List Loan
  narrow : List Nat
  /-- where a CXL frame holds a compressed stream: frame and first slot (R356, R412) -/
  packed : List (Nat × Nat)
  /-- the records whose move inward met a malformed stream, with the byte offset (R357) -/
  malformed : List (Nat × Nat)
  deriving DecidableEq, Repr, Inhabited

/-- The state of an entry of the route trust table (R446). -/
inductive RouteState where
  | empty | attesting | trusted | failed
  deriving DecidableEq, Repr, Inhabited

/-- A route trust entry (R446). -/
structure Route where
  state : RouteState
  port : Nat
  switches : Nat
  fail : Nat
  epoch : Nat
  /-- the packets sent under the key of its epoch -/
  sent : Nat
  /-- the reduction key of its epoch (R447); empty where none was derived -/
  key : List Byte
  /-- the IPv6 addresses of its switches, from the nearest to the root -/
  path : List (List Byte)
  deriving DecidableEq, Repr, Inhabited

/-- A partition (R381 to R393, R416, R428, R446). Keys are named by their draw number (R387). -/
structure Partition where
  state : PartState
  result : Byte
  desc : List Byte
  proot : Word
  /-- the descriptor and root in force while it is not FREE -/
  dataKey : Option Nat
  attestKey : Option Nat
  jobKey : Option (List Byte)
  /-- its stacks being scrubbed: (die × 2 + stack, channels of the stack completed) -/
  scrub : List (Nat × Nat)
  measured : List (List Byte)
  pool : Option Pool
  binding : List Byte
  job : List Byte
  routes : Vector Route 64
  deriving DecidableEq, Repr, Inhabited

def Partition.reset : Partition where
  state := .free
  result := 0
  desc := List.replicate 128 0
  proot := 0
  dataKey := none
  attestKey := none
  jobKey := none
  scrub := []
  measured := []
  pool := none
  binding := []
  job := []
  routes := Vector.replicate 64 ⟨.empty, 0, 0, 0, 0, 0, [], []⟩

/-- The configuration block of a virtual function (R377): setup values by (core, field), and the cores whose setup is to
take effect at their next task start. -/
structure VirtualFunction where
  cbase : Word
  rbase : Word
  wstat : Word
  cboot : Word
  cbootgo : Word
  setup : List (Nat × Fin 6 × Word)
  pending : List (Nat × Fin 6)
  deriving DecidableEq, Repr, Inhabited

def VirtualFunction.reset : VirtualFunction := ⟨0, 0, 0, 0, 0, [], []⟩

/-- What stands behind a completed region of the safe tier, by its address. The save area of its partition has no address in R386 and
stands beside the region's bytes (log entry 130): by cluster, the images of stopped tasks and the continuations (R386, R393). The region's
bytes are ciphertext and lie in memory; `plain` and `bad` are the data and the poisoned lines that they were made from. -/
structure SafeRegion where
  dst : Nat
  plain : Memory
  bad : List Nat
  work : List (Nat × List (Nat × Resumed))
  conts : List (Nat × List Continuation)
  deriving DecidableEq, Repr, Inhabited

/-- The checkpoint engine (R392), and the regions that it has completed. -/
structure Checkpoint where
  ctl : Word
  dst : Word
  rcpt : Word
  done : Nat
  code : Byte
  phase : Nat
  regions : List SafeRegion
  deriving DecidableEq, Repr, Inhabited

/-- An HDM decoder (R384). -/
structure Hdm where
  base : Word
  size : Word
  virt : Word
  attr : Word
  deriving DecidableEq, Repr, Inhabited

/-- A lane group of a torus port (R430, R431, R387, R388): the link key of its epoch, empty where it has none; the packets of the
epoch in either direction; the nonce of the last packet sent; the cycle of its last valid flit. `tagFailed` keeps it down until a new job key. -/
structure Lane where
  up : Bool
  tagFailed : Bool
  key : List Byte
  epoch : Nat
  sent : Nat
  received : Nat
  retries : Nat
  nonce : Nat
  heard : Nat
  deriving DecidableEq, Repr, Inhabited

/-- A fabric operation of this module that awaits packets: a put, get, counter add, attestation or collective of queue 6, or, with
`network` false, a walker's read of a page in a lender's frame (R233, R433 to R450). -/
structure FabricOp where
  die : Fin 24
  cluster : Fin 6
  core : Fin 8
  part : Fin 16
  /-- its command, the cycle its time counts from, and its limit -/
  seq : Nat
  started : Nat
  limit : Nat
  /-- the collective's id, or the page record -/
  id : Nat
  /-- the group hash of a collective, and its members; of a page read the lender's module, frame and slot -/
  hash : List Byte
  ranks : List Nat
  rank : Nat
  /-- the collective or path descriptor -/
  desc : List Byte
  expected : Nat
  /-- what has come, by offset or by rank; what the switches have sent of an in-network reduction; the lines of a page read that came
  poisoned (R359) -/
  received : List (Nat × List Byte)
  reduced : List Byte
  bad : List Nat
  /-- the joins have met, or the page has come -/
  met : Bool
  /-- the collective runs in network, fell back, has lost its route (R448) -/
  innet : Bool
  fb : Bool
  lost : Bool
  network : Bool
  /-- the lane groups that have taken its packets (R431) -/
  lanes : List Nat
  /-- a forced pre-emption has cut its command, which takes it up again when its image is restored (R269) -/
  cut : Bool
  deriving DecidableEq, Repr, Inhabited

def FabricOp.isColl (o : FabricOp) : Bool := o.network && !o.hash.isEmpty

/-- Whether a forced pre-emption cuts the command of an operation at its cursor: a walker's read of a lender's page, and a collective whose
joins have not met. The others have sent writes or adds, which are awaited (R269, log entry 87). -/
def FabricOp.cuttable (o : FabricOp) : Bool := !o.network || (o.isColl && !o.met)

/-- A join of a collective that has arrived at a die: the fields that must match, and the state and epoch of the sender's route
entry (R443). -/
structure Join where
  part : Fin 16
  die : Nat
  id : Nat
  hash : List Byte
  rank : Nat
  shape : List Byte
  trusted : Bool
  epoch : Nat
  deriving DecidableEq, Repr, Inhabited

/-- A part of a put to a core's scratchpad that waits: to be written, for a task of the partition; once written, with the whole
payload, for room in the start queue (R182, R436); and the cycle until which it waits. -/
structure HeldPut where
  part : Fin 16
  lane : LaneRef
  packet : Packet
  written : Bool
  limit : Nat
  deriving DecidableEq, Repr, Inhabited

/-- The parts written so far of a put that is to start a context: its partition, sender and key, and the parts' offsets (R182). -/
structure ArrivedPut where
  part : Fin 16
  src : Nat
  key : Nat
  offsets : List Nat
  deriving DecidableEq, Repr, Inhabited

/-- How the module has answered a request of the host: in full, as an Unsupported Request (R376), or with Request Retry Status
(R396). -/
inductive HostStatus where
  | complete | unsupported | retry
  deriving DecidableEq, Repr, Inhabited

/-- The mode of a host port (R375). -/
inductive PortMode where
  | pcie | cxlHost | cxlPool
  deriving DecidableEq, Repr, Inhabited

/-- What the operator sets of an Ethernet port (R432): its IPv6 address and UDP port. -/
structure EthPort where
  address : List Byte
  udp : Nat
  deriving DecidableEq, Repr, Inhabited

/-- A packet on an Ethernet port that has not been acknowledged (R432): its route trust entry, where its datagram comes from and the
IPv6 address that it goes to, the cycle it was sent in last, and how often it has been resent. -/
structure EthPacket where
  part : Fin 16
  route : Fin 64
  packet : Packet
  source : EthPort
  address : List Byte
  sentAt : Nat
  resends : Nat
  deriving DecidableEq, Repr, Inhabited

/-- What the host or the debugger read last: the answer of a window or debug read. -/
structure HostReply where
  value : Word
  poison : Bool
  dropped : Bool
  bytes : List Byte
  status : HostStatus
  deriving DecidableEq, Repr, Inhabited

/-- The module. -/
structure Module where
  /-- physical memory as accesses through the L2 see it: HBM, and the CXL pool window (R336); poisoned 128-byte lines (R359) -/
  mem : Memory
  poison : List Nat
  tlb : List Translation
  /-- the lines that the running step of an engine has read from memory; the core's local store takes them over at the step's end (R169) -/
  fetched : List Nat
  /-- the lines of every L2, the last one used first; tags that `TC.INV` has dropped and nothing has used since (R348) -/
  l2 : List L2Line
  gone : List (Fin 16 × Nat × Nat)
  /-- the lines of every RDC, the last one used first -/
  rdc : List RdcLine
  waiters : List Waiter
  /-- memory-side status words by die × 16 + partition (R352) -/
  status : Vector (BitVec 7) 384
  /-- status words and the flags raised in them in this cycle, which a store of the cycle keeps (R352) -/
  raised : List (Fin 384 × BitVec 7)
  parts : Vector Partition 16
  vfs : Vector VirtualFunction 128
  ckpt : Checkpoint
  hdm : Vector Hdm 16
  pcap : Word
  /-- duty k of each die in sixteenths (R394), dies above 95 °C, module above its cap (R395) -/
  duty : Vector (Fin 17) 24
  hot : Vector Bool 24
  overCap : Bool
  /-- whether the firmware was verified and the ports trained (R396), and whether HBM is scrubbed after power-up (R391) -/
  powered : Bool
  scrubbed : Bool
  /-- the stacks of the scrub that follows power-up (R391): (die × 2 + stack, channels completed) -/
  powerScrub : List (Nat × Nat)
  /-- channel groups that a RESTORE filled and no CREATE has taken since, with the key that their ciphertext is under (R385, R393) -/
  restored : List (Nat × Nat)
  /-- numbers drawn from the DRBG (R387) -/
  draws : Nat
  lanes : Vector Lane 24
  ops : List FabricOp
  joins : List Join
  held : List HeldPut
  arrived : List ArrivedPut
  sent : List Packet
  /-- Ethernet packets not acknowledged, and the ports' settings (R432); the modes of the host ports (R375) -/
  eth : List EthPacket
  ethPorts : Vector EthPort 8
  modes : Vector PortMode 8
  reply : HostReply
  /-- reports to the partition controller: cause codes, newest first (R85, R359) -/
  controllerReports : List (Option (Fin 16) × Byte)
  serial : Nat
  deriving DecidableEq, Repr, Inhabited

def Module.reset : Module where
  mem := []
  poison := []
  tlb := []
  fetched := []
  l2 := []
  gone := []
  rdc := []
  waiters := []
  status := Vector.replicate 384 0
  raised := []
  parts := Vector.replicate 16 .reset
  vfs := Vector.replicate 128 .reset
  ckpt := ⟨0, 0, 0, 0, 0, 0, []⟩
  hdm := Vector.replicate 16 ⟨0, 0, 0, 0⟩
  pcap := 12500
  duty := Vector.replicate 24 16
  hot := Vector.replicate 24 false
  overCap := false
  powered := true
  scrubbed := true
  powerScrub := []
  restored := []
  draws := 0
  lanes := Vector.replicate 24 ⟨true, false, [], 0, 0, 0, 0, 0, 0⟩
  ops := []
  joins := []
  held := []
  arrived := []
  sent := []
  eth := []
  ethPorts := Vector.replicate 8 ⟨List.replicate 16 0, 0⟩
  modes := Vector.ofFn fun (p : Fin 8) => if p.val < 4 then .cxlHost else .cxlPool
  reply := ⟨0, false, false, [], .complete⟩
  controllerReports := []
  serial := 0

end Sys2Proof.Machine
end

