-- ==== Sys2Proof/Machine/State.lean ====
section
/-! DEFINITION. The machine's state, its stops, and the state after reset.

One core and its cluster stand in the focus: the strands, engines and controller that act next. Every other core and
cluster of the module is parked, in the order in which they act (`Machine/Step.lean`). -/

namespace Sys2Proof.Machine

/-- Who acts next in a cycle (R107: A, X, T, then the engines; then the cluster controller and its scoreboard). -/
inductive Turn where
  | a | x | t | engines | controller
  deriving DecidableEq, Repr, Inhabited

/-- What became of the instructions of the group so far: they issue, one of them blocks the group (R81), one waits for a result
in flight of its own strand (R75, R78, R111), or one trapped (R84). -/
inductive Verdict where
  | issued | blocked | awaits | trapped
  deriving DecidableEq, Repr, Inhabited

/-- The group being issued: the address of its first syllable, the address and first syllable of the instruction, the
address of the next group, the patches of the group (template, halfword, value, sticky; R58), the verdict, and whether
the group's waits have been found satisfied, so that its instructions now take effect (R34). -/
structure GroupContext where
  addr : Nat
  iaddr : Nat
  syl : Nat
  npc : Nat
  patches : List (Fin 64 × Fin 32 × BitVec 16 × Bool)
  verdict : Verdict
  settled : Bool
  deriving DecidableEq, Repr, Inhabited

/-- The state of the module. -/
structure State where
  /-- cycles since reset (R118) -/
  cycle : Nat
  turn : Turn
  /-- the strand whose instructions `exec` runs -/
  who : Who
  grp : GroupContext
  core : Core
  parked : List Core
  ctl : Cluster
  parkedCl : List Cluster
  mod : Module
  /-- what the outside world does to the machine, in order (host, operator, network, debugger, errors) -/
  inputs : List Instr
  /-- the model's own field: a counter that free values are drawn with (log entry 2) -/
  draw : Nat
  deriving DecidableEq, Repr, Inhabited

/-- Why the machine stops. -/
inductive Fault where
  /-- Raised by the meaning of an event or of an engine's step that cannot take place in the state it is run in (no result
  is due, no command stands at the head, no such response is awaited). `step` itself never chooses such an event; one that
  `inputs` holds ends the run. Safe: the machine has no such step either. -/
  | notEnabled
  deriving DecidableEq, Repr, Inhabited

/-- Why an instruction has no meaning. -/
inductive Refusal where
  /-- Raised by `exec` for an instruction that is not modelled yet. Safe: no behaviour is claimed. -/
  | notModelled (mnemonic : String)
  deriving DecidableEq, Repr, Inhabited

/-- The cores of the module in the order in which they act (R1): die, cluster, core. -/
def allCores : List Core :=
  (List.finRange 24).flatMap fun d => (List.finRange 6).flatMap fun c => (List.finRange 8).map fun n => Core.reset d c n

/-- The clusters of the module (R1). -/
def allClusters : List Cluster :=
  (List.finRange 24).flatMap fun d => (List.finRange 6).map fun c => Cluster.reset d c

/-- The machine right after reset, with its scrub complete (R396): no partition LIVE, every core idle. -/
def State.reset : State where
  cycle := 0
  turn := .a
  who := .a
  grp := ⟨0, 0, 0, 0, [], .issued, false⟩
  core := Core.reset 0 0 0
  parked := allCores.tail
  ctl := Cluster.reset 0 0
  parkedCl := allClusters.tail
  mod := .reset
  inputs := []
  draw := 0

end Sys2Proof.Machine
end

