-- ==== Sys2Proof/Machine/Ops.lean ====
section
/-! DEFINITION. The named operations over the state that instructions share: register access, results in flight, the
scratchpad, taking a trap and returning from one (03_strand, 10_core_traps). -/

namespace Sys2Proof.Machine

/-- What a meaning answers. -/
abbrev Answer := Host.Outcome State Fault Refusal

/-! ## Focus -/

/-- The strand or context of a core. -/
def Core.strand (k : Core) : Who → Strand
  | .a => k.a
  | .x => k.x
  | .t 0 => k.t
  | .t 1 => k.t1
  | .t 2 => k.t2
  | .t 3 => k.t3
  | .t 4 => k.t4
  | .c => k.a

def Core.setStrand (k : Core) (w : Who) (f : Strand) : Core :=
  match w with
  | .a => { k with a := f }
  | .x => { k with x := f }
  | .t 0 => { k with t := f }
  | .t 1 => { k with t1 := f }
  | .t 2 => { k with t2 := f }
  | .t 3 => { k with t3 := f }
  | .t 4 => { k with t4 := f }
  | .c => k

/-- The contexts of a core. -/
def contexts : List Who := [.a, .x, .t 0, .t 1, .t 2, .t 3, .t 4]

/-- The templates, table, seed and fetch region of a strand. -/
def Core.unit (k : Core) : Who → StrandUnit
  | .a => k.ua
  | .x => k.ux
  | _ => k.ut

def Core.setUnit (k : Core) (w : Who) (u : StrandUnit) : Core :=
  match w with
  | .a => { k with ua := u }
  | .x => { k with ux := u }
  | .t _ => { k with ut := u }
  | .c => k

def State.strandOf (s : State) (w : Who) : Strand :=
  match w with
  | .c => s.ctl.c
  | w => Core.strand s.core w

def State.setStrandOf (s : State) (w : Who) (f : Strand) : State :=
  match w with
  | .c => { s with ctl := { s.ctl with c := f } }
  | w => { s with core := Core.setStrand s.core w f }

/-- The strand that `exec` runs. -/
def State.strand (s : State) : Strand := s.strandOf s.who
def State.setStrand (s : State) (f : Strand) : State := s.setStrandOf s.who f
def State.onStrand (s : State) (g : Strand → Strand) : State := s.setStrand (g s.strand)

def State.unitOf (s : State) (w : Who) : StrandUnit :=
  match w with
  | .c => s.ctl.u
  | w => Core.unit s.core w

def State.setUnitOf (s : State) (w : Who) (u : StrandUnit) : State :=
  match w with
  | .c => { s with ctl := { s.ctl with u := u } }
  | w => { s with core := Core.setUnit s.core w u }

def State.unit (s : State) : StrandUnit := s.unitOf s.who

/-- Whether the instruction runs on the cluster controller. -/
def State.onController (s : State) : Bool := s.who = .c

/-- Whether the T strand runs it (main or dormant context). -/
def isTStrand : Who → Bool
  | .t _ => true
  | _ => false

/-- The die of the focus. -/
def State.die (s : State) : Fin 24 := if s.onController then s.ctl.die else s.core.die

/-! ## Registers (R71, R79) -/

/-- x[r]; x0 reads 0. -/
def Strand.xr (f : Strand) (r : Fin 64) : Word := if r = 0 then 0 else f.x[r]

/-- The physical vector register of an architectural one: v32 to v63 rotate on the X strand (R79). -/
def physV (w : Who) (f : Strand) (r : Fin 64) : Fin 64 :=
  if w = .x && 32 ≤ r.val then Fin.ofNat 64 (32 + (r.val - 32 + f.vrb.toNat) % 32) else r

/-- The physical predicate of an architectural one: p8 to p15 rotate (R79). -/
def physP (f : Strand) (r : Fin 16) : Fin 16 :=
  if 8 ≤ r.val then Fin.ofNat 16 (8 + (r.val - 8 + f.prb.toNat) % 8) else r

def State.xr (s : State) (r : Fin 64) : Word := Strand.xr s.strand r
def State.pr (s : State) (r : Fin 16) : Bool := s.strand.p[physP s.strand r]
def State.vr (s : State) (r : Fin 64) : VReg := s.strand.v[physV s.who s.strand r]

/-- The mask top: all ones at depth 0, and on T (R68, R71). -/
def State.top (s : State) : Mask := s.strand.masks.headD (BitVec.allOnes 1024)

/-- `sr.status` composed from its fields (R74). -/
def statusWord (w : Who) (f : Strand) : Word :=
  let b (v : Bool) (n : Nat) : Nat := if v then 2 ^ n else 0
  BitVec.ofNat 64 (b f.rq 11 + b f.spec 10 + b f.ppl 9 + b f.th 8 + b f.pl 7 + (if w = .x then f.masks.length % 32 else 0))

/-- `sr.stratid` (R73): strand, core, cluster, die; the controller has strand 3 and core 0 (R289). -/
def State.stratid (s : State) : Word :=
  match s.who with
  | .c => BitVec.ofNat 64 (3 + s.ctl.number.val * 32 + s.ctl.die.val * 256)
  | w =>
    let n := match w with
      | .a => 0
      | .x => 1
      | _ => 2
    BitVec.ofNat 64 (n + s.core.number.val * 4 + s.core.cluster.val * 32 + s.core.die.val * 256)

/-! ## Results in flight (R75 to R77) -/

/-- What a result is kept as: one for x0 writes nothing but its flags (kind 12 of R260). -/
def Effect.kept : Effect → Effect
  | .scalar 0 _ => .flagsOnly
  | e => e

/-- Adds a result to a strand: it is written `lat` cycles from now. One for x0 counts as any other (R77, R260). -/
def State.emitFull (s : State) (e : Effect) (flags : Flags) (lat : Nat) (minimum : Bool) (poison : Option Word) : State :=
  s.onStrand fun f =>
    { f with results := f.results ++ [⟨e.kept, flags, s.cycle + lat, minimum, poison, s.grp.addr, false, false⟩] }

def State.emit (s : State) (e : Effect) (flags : Flags) (lat : Nat) : State := s.emitFull e flags lat false none

/-- A scalar result of fixed latency without flags. -/
def State.emitX (s : State) (d : Fin 64) (v : Word) (lat : Nat) : State := s.emit (.scalar d v) 0 lat

def State.emitP (s : State) (d : Fin 16) (v : Bool) (lat : Nat) : State := s.emit (.pred (physP s.strand d) v) 0 lat

/-- Replaces the nibbles of a vector register that a mask names (R123): nibble n is bits 4n+3 to 4n. -/
def mergeNibbles (old new : VReg) (mask : Mask) : VReg :=
  if mask = BitVec.allOnes 1024 then new
  else
    let full := (List.range 1024).foldl (fun (acc : Nat) n => if mask.getLsbD n then acc + 15 * 2 ^ (4 * n) else acc) 0
    let m : VReg := BitVec.ofNat 4096 full
    (new &&& m) ||| (old &&& ~~~m)

/-- Replaces the quarters of a template that a mask names (R114). -/
def mergeQuarters (old new : Tmpl) (q : BitVec 4) : Tmpl :=
  let full := (List.range 4).foldl (fun (acc : Nat) n => if q.getLsbD n then acc + (2 ^ 64 - 1) * 2 ^ (64 * n) else acc) 0
  let m : Tmpl := BitVec.ofNat 256 full
  (new &&& m) ||| (old &&& ~~~m)

/-- The writable fields of a system register after a `WRSR` (R27, R73, R74): reserved bits and misaligned low bits are
dropped. -/
def writeSysreg (w : Who) (n : Nat) (v : Word) (s : State) : State :=
  let f := s.strandOf w
  let u := s.unitOf w
  let set (g : Strand) : State := s.setStrandOf w g
  match n with
  | 0x000 => set { f with ppl := v.getLsbD 9, th := v.getLsbD 8, pl := v.getLsbD 7 }
  | 0x001 => set { f with flags := v.truncate 6 }
  | 0x002 => s.setUnitOf w { u with seed := v }
  | 0x008 => set { f with handler := v &&& ~~~3 }
  | 0x009 => set { f with epc := v }
  | 0x00A => set { f with cause := v &&& 0xFF }
  | 0x00B => set { f with tval := v }
  | 0x00C => set { f with traparea := v &&& ~~~0xFFF }
  | 0x00D => set { f with kscr0 := v }
  | 0x00E => set { f with kscr1 := v }
  | 0x010 => s.setUnitOf w { u with ibase := v &&& ~~~3 }
  | 0x011 => s.setUnitOf w { u with ilimit := v }
  | _ => s

/-- Writes what a result holds (R76, R80, R86, R260). -/
def State.applyEffect (s : State) (w : Who) (e : Effect) : State :=
  let f := s.strandOf w
  match e with
  | .flagsOnly => s
  | .scalar r v => if r = 0 then s else s.setStrandOf w { f with x := f.x.set r v }
  | .pred r v => s.setStrandOf w { f with p := f.p.set r v }
  | .vec parts mask =>
    s.setStrandOf w { f with v := parts.foldl (fun (vs : Vector VReg 64) q => vs.set q.1 (mergeNibbles vs[q.1] q.2 mask)) f.v }
  | .maskPush top => s.setStrandOf w { f with masks := top :: f.masks }
  | .maskTop top => s.setStrandOf w { f with masks := top :: f.masks.tail }
  | .maskPop => s.setStrandOf w { f with masks := f.masks.tail }
  | .template r v q =>
    let u := s.unitOf w
    s.setUnitOf w { u with w := u.w.set r (mergeQuarters u.w[r] v q) }
  | .lut v => s.setUnitOf w { s.unitOf w with lut := v }
  | .sysreg n v => writeSysreg w n v s

/-- ORs flags into a strand's `sr.flags` (R28). -/
def State.orFlags (s : State) (w : Who) (fl : Flags) : State :=
  let f := s.strandOf w
  s.setStrandOf w { f with flags := f.flags ||| fl }

/-- The kind of step that writes a result: a replay entry, a minimum-latency response, or an ordinary result. -/
inductive Arrival where
  | ordinary | response | replay
  deriving DecidableEq, Repr, Inhabited

def Result.arrival (r : Result) : Arrival := if r.replay then .replay else if r.minimum then .response else .ordinary

/-- Inserts a result behind those whose cycle is not later. -/
def insertDue (r : Result) : List Result → List Result
  | [] => [r]
  | q :: qs => if r.due < q.due then r :: q :: qs else q :: insertDue r qs

/-- The results due and not written, in the order of their cycles, and of issue within a cycle (R76). -/
def dueResults (now : Nat) (f : Strand) : List Result :=
  (f.results.filter fun r => r.due ≤ now && !r.written).foldl (fun acc r => insertDue r acc) []

/-- The step that writes the strand's next due result. -/
def nextArrival (now : Nat) (f : Strand) : Option Arrival := (dueResults now f).head?.map Result.arrival

/-- Writes the due results up to the first of another kind, marks them, and forgets those of earlier cycles. A poisoned one is
not written: its arrival is noted for the strand's next boundary (R265). The flags of the cycle are ORed in after its
`WRSR` (R28). -/
def State.writeResults (s : State) (w : Who) (kind : Arrival) : State :=
  let now := s.cycle
  let rs := (dueResults now (s.strandOf w)).takeWhile fun r => r.arrival = kind
  let s1 := rs.foldl (fun (t : State) r => if r.poison.isSome then t else t.applyEffect w r.eff) s
  let mark (r : Result) : Result := if rs.contains r then { r with written := true } else r
  let all := (s.strandOf w).results.map mark
  let s2 := s1.orFlags w (all.foldl (fun acc r => if r.written && r.poison.isNone && now ≤ r.due then acc ||| r.flags else acc) 0)
  let f := s2.strandOf w
  s2.setStrandOf w { f with
    results := all.filter fun r => !(r.written && (r.due < now || r.poison.isSome))
    poisons := f.poisons ++ rs.filterMap fun r => r.poison.map fun a => (a, r.group) }

/-! ## Capture and the replay descriptors (R84, R259 to R262) -/

/-- Captures the results in flight as of the cycle `now` in which the group at the boundary would have issued: entries that
wait already keep their remaining cycles (R84, R260). -/
def captured (now : Nat) (f : Strand) : List ReplayEntry :=
  f.replays ++ (f.results.filter fun r => !r.written && r.poison.isNone).map
    fun r => ⟨r.eff, r.flags, max 1 (r.due - now)⟩

/-- The poisoned results in flight, in the order of their arrival. -/
def Strand.poisoned (f : Strand) : List Result :=
  (f.results.filter fun r => !r.written && r.poison.isSome).foldl (fun acc r => insertDue r acc) []

/-- A poisoned result as an arrival: its data address and its loading group (R265). -/
def Result.arrived (r : Result) : Word × Nat := (r.poison.getD 0, r.group)

/-- The poison arrivals that a halt finds: those noted, then those of the accesses that it waits for (R84, R264, R269). -/
def Strand.arriving (f : Strand) : List (Word × Nat) := f.poisons ++ f.poisoned.map Result.arrived

/-- Poison arrivals with their cycles, one more in its place: after those of its cycle. -/
def insertArrival (x : Nat × Word × Nat) (l : List (Nat × Word × Nat)) : List (Nat × Word × Nat) :=
  l.takeWhile (fun y => y.1 ≤ x.1) ++ x :: l.dropWhile (fun y => y.1 ≤ x.1)

/-- The poisoned data of queue loads in flight, which the A strand is to be told of (R97). -/
def Core.poisonedLoads (k : Core) : List (Nat × Word × Nat) :=
  k.q.toList.flatMap fun d => (d.entries.filter fun e => e.reserved && e.poison).map fun e => (e.ready, e.addr, e.group)

/-- The core with the data of its poisoned queue loads in place: zeros in a poisoned entry (R97). -/
def Core.fillPoisoned (k : Core) : Core :=
  { k with q := k.q.map fun d => { d with entries := d.entries.map fun e => if e.reserved && e.poison then { e with reserved := false, data := 0 } else e } }

/-- The state with those data in place where the strand is the one that has queue loads, the A strand (R97). -/
def State.filled (s : State) : State := if s.who = .a then { s with core := s.core.fillPoisoned } else s

/-- The poison arrivals that a trap entry of the strand finds: those noted, then, in the order of their arrival, those of the accesses that
it waits for; on the A strand the data of queue loads are among them (R84, R97, R264). -/
def State.arriving (s : State) : List (Word × Nat) :=
  let loads := if s.who = .a then s.core.poisonedLoads else []
  s.strand.poisons ++
    (loads.foldl (fun l x => insertArrival x l) (s.strand.poisoned.map fun r => (r.due, r.arrived))).map (·.2)

def Effect.kind : Effect → Nat
  | .scalar .. => 1
  | .pred .. => 2
  | .vec ps _ => if ps.length ≤ 1 then 3 else if ps.length = 2 then 4 else 5
  | .maskPush _ => 6
  | .maskTop _ => 7
  | .maskPop => 8
  | .template .. => 9
  | .lut _ => 10
  | .sysreg .. => 11
  | .flagsOnly => 12

def Effect.index : Effect → Nat
  | .scalar r _ => r.val
  | .pred r _ => r.val
  | .template r _ _ => r.val
  | .sysreg n _ => n
  | _ => 0

def Effect.word : Effect → Nat
  | .scalar _ v => v.toNat
  | .sysreg _ v => v.toNat
  | .pred _ v => if v then 1 else 0
  | .vec ps _ => (ps.zipIdx).foldl (fun acc q => acc + q.1.1.val * 2 ^ (8 * q.2)) 0
  | _ => 0

/-- The 2,048-byte value of a wide kind, and the nibbles or quarters it writes (R261). -/
def Effect.wide : Effect → Option (BitVec 16384 × Mask)
  | .vec ps mask => some (BitVec.ofNat 16384 ((ps.zipIdx).foldl (fun acc q => acc + q.1.2.toNat * 2 ^ (4096 * q.2)) 0), mask)
  | .maskPush m => some (m.zeroExtend 16384, BitVec.allOnes 1024)
  | .maskTop m => some (m.zeroExtend 16384, BitVec.allOnes 1024)
  | .template _ v q => some (v.zeroExtend 16384, q.zeroExtend 1024)
  | .lut v => some (v.zeroExtend 16384, BitVec.allOnes 1024)
  | _ => none

/-- The 16 bytes of a replay descriptor (R260). -/
def descriptorBytes (e : ReplayEntry) : List Byte :=
  bytesOfNat 8 e.eff.word ++
  bytesOfNat 8 (e.remaining % 256 + e.eff.kind * 2 ^ 16 + e.eff.index * 2 ^ 20 + e.flags.toNat * 2 ^ 32)

/-- The effect a descriptor names, its value taken from the descriptor or, for a wide kind, from its slot; none where `ERET`
raises `RECORD_INVALID` (R261). -/
def effectOf (kind index value : Nat) (slot : Option (BitVec 16384 × Mask)) : Option Effect :=
  match kind, slot with
  | 1, _ => some (.scalar (Fin.ofNat 64 index) (BitVec.ofNat 64 value))
  | 2, _ => some (.pred (Fin.ofNat 16 index) (value % 2 == 1))
  | 3, some (v, m) => some (.vec [(Fin.ofNat 64 value, v.truncate 4096)] m)
  | 4, some (v, m) => some (.vec ((List.range 2).map fun j =>
      (Fin.ofNat 64 (value / 2 ^ (8 * j)), (v.toNat / 2 ^ (4096 * j) : Nat))) m)
  | 5, some (v, m) => some (.vec ((List.range 4).map fun j =>
      (Fin.ofNat 64 (value / 2 ^ (8 * j)), (v.toNat / 2 ^ (4096 * j) : Nat))) m)
  | 6, some (v, _) => some (.maskPush (v.truncate 1024))
  | 7, some (v, _) => some (.maskTop (v.truncate 1024))
  | 8, _ => some .maskPop
  | 9, some (v, m) => some (.template (Fin.ofNat 64 index) (v.truncate 256) (m.truncate 4))
  | 10, some (v, _) => some (.lut (v.truncate 4096))
  | 11, _ => some (.sysreg index (BitVec.ofNat 64 value))
  | 12, _ => some .flagsOnly
  | _, _ => none

/-- The nest state of R262, from offset 0x080: the counters, ctl, i, T and the descriptor. -/
def nestBytes (n : Nest) : List Byte :=
  (n.c.take 6).flatMap (bytesOfNat 4) ++
  bytesOfNat 8 ((n.body.length - 1) % 32 + n.s * 2 ^ 5 + (if n.rot then 2 ^ 8 else 0) + n.g * 2 ^ 9) ++
  bytesOfNat 16 n.i ++ bytesOfNat 16 n.trips ++ bytesOfNat 64 n.desc.toNat

/-- The loop-buffer image (R259): body group g at 0x400 + 32 g, unused syllables zero. -/
def lbufBytes (n : Nest) : List Byte :=
  (n.body.take 32).flatMap fun grp => (List.range 8).flatMap fun j => bytesOfNat 4 (grp.getD j 0)

/-- The first n bytes of a list, and zeros after its end. -/
def padTo : Nat → List Byte → List Byte
  | 0, _ => []
  | n + 1, bs => bs.headD 0 :: padTo n bs.tail

/-- The 2,048 bytes that trap entry writes (R259). -/
def frameBytes (w : Who) (f : Strand) (addr : Nat) (c : Cause) (entries : List ReplayEntry) : List Byte :=
  let nv : Nat := if f.nest.isSome then 2 ^ 8 else 0
  padTo 0x40 (bytesOfNat 8 addr ++ bytesOfNat 8 (statusWord w f).toNat ++ bytesOfNat 8 c.code.toNat ++ bytesOfNat 8 c.tval.toNat ++
    bytesOfNat 8 c.orig.toNat ++ bytesOfNat 8 (entries.length + nv + (if c.asy then 2 ^ 9 else 0))) ++
  bytesOfNat 0x40 c.erec.toNat ++
  padTo 0x80 (match f.nest with
    | some n => nestBytes n
    | none => []) ++
  padTo 0x180 ((entries.take 24).flatMap descriptorBytes) ++
  List.replicate 0x180 (0 : Byte) ++
  padTo 0x400 (match f.nest with
    | some n => lbufBytes n
    | none => [])

/-! ## The scratchpad of the focus (R168, R289) -/

/-- Bytes of the scratchpad: the pinned ways of the core, or the controller's data RAM. -/
def State.spSize (s : State) : Nat := if s.onController then 0x10000 else 262144 * s.core.ways

def State.spMem (s : State) : Memory := if s.onController then s.ctl.ram else s.core.scratch

def State.setSp (s : State) (m : Memory) : State :=
  if s.onController then { s with ctl := { s.ctl with ram := m } } else { s with core := { s.core with scratch := m } }

def State.spPoison (s : State) : List Nat := if s.onController then s.ctl.ramPoison else s.core.scratchPoison

def State.setSpPoison (s : State) (p : List Nat) : State :=
  if s.onController then { s with ctl := { s.ctl with ramPoison := p } } else { s with core := { s.core with scratchPoison := p } }

/-- The 128-byte lines that a run of bytes touches. -/
def linesOf (a n : Nat) : List Nat := if n = 0 then [] else (List.range ((a + n - 1) / 128 - a / 128 + 1)).map (· + a / 128)

/-- Whether a run of bytes touches a poisoned line. -/
def poisonedIn (p : List Nat) (a n : Nat) : Bool := p.any fun l => a / 128 ≤ l && l ≤ (a + n - 1) / 128 && n ≠ 0

/-- The poisoned lines after a write: a full write of a line clears its poison (R175, R359). -/
def clearPoison (p : List Nat) (a n : Nat) : List Nat := p.filter fun l => !(a ≤ 128 * l && 128 * l + 128 ≤ a + n)

/-- Writes bytes to the scratchpad, clearing the poison of the lines wholly written. -/
def State.spWrite (s : State) (a : Nat) (bs : List Byte) : State :=
  (s.setSp (s.spMem.write a bs)).setSpPoison (clearPoison s.spPoison a bs.length)

/-! ## Halts and traps (R84, R85, R174, R261, R277) -/

/-- A strand standing at its boundary with its results in flight captured, in the cycle `now` in which its next group would have issued
(R84, R269, R275). A poison arrival stays pending (R264). -/
def Strand.freeze (now : Nat) (f : Strand) : Strand :=
  { f with
    replays := captured now f, results := f.results.filter (·.written), poisons := f.arriving, stall := 0 }

/-- Whether a strand has results in flight that are not written: where it is to stop, they are still to be captured. -/
def Strand.flying (f : Strand) : Bool := f.results.any fun r => !r.written

/-- The flags byte of a partition's descriptor: PROT and DEBUG (R382). -/
def Partition.flagsByte (p : Partition) : Nat := (p.desc.getD 99 0).toNat
def Partition.debug (p : Partition) : Bool := bitOf p.flagsByte 1
def Partition.prot (p : Partition) : Bool := bitOf p.flagsByte 0

/-- Whether a partition's descriptor names a cluster (R382). -/
def Partition.hasCluster (p : Partition) (g : Nat) : Bool := bitOf (natOfBytes (p.desc.take 18)) g

/-- The live partition that owns a cluster (R381). -/
def State.partOfCluster (s : State) (g : Nat) : Option (Fin 16) :=
  (List.finRange 16).find? fun p => s.mod.parts[p].state = .live && s.mod.parts[p].hasCluster g

/-- The partition of the focus. -/
def State.part (s : State) : Option (Fin 16) :=
  s.partOfCluster (if s.onController then 6 * s.ctl.die.val + s.ctl.number.val else 6 * s.core.die.val + s.core.cluster.val)

def State.debugOn (s : State) : Bool :=
  match s.part with
  | some p => s.mod.parts[p].debug
  | none => false

/-- Reports a cause to the partition controller. -/
def State.report (s : State) (c : Byte) : State :=
  { s with mod := { s.mod with controllerReports := (s.part, c) :: s.mod.controllerReports } }

/-- Halts a core at the group of one of its strands, which would have issued in cycle `now`; every other context stops at its own boundary
(R275). -/
def State.haltAt (s : State) (now : Nat) (cause : Option Cause) : State :=
  let s := s.setStrand (Strand.freeze now s.strand)
  { s with core := { s.core with halt := some ⟨false, cause, s.who, none, [], contexts.filter (· != s.who)⟩ } }

/-- A cluster reset through the partition controller (R277): its cores and its controller. The cycle count of `RDCYC` runs on
with that of the die's other cores (R118). -/
def State.resetCluster (s : State) (die : Fin 24) (cluster : Fin 6) : State :=
  let fix (k : Core) : Core := if k.die = die && k.cluster = cluster then { Core.reset k.die k.cluster k.number with since := k.since } else k
  let fixC (c : Cluster) : Cluster := if c.die = die && c.number = cluster then { Cluster.reset c.die c.number with since := c.since } else c
  { s with core := fix s.core, parked := s.parked.map fix, ctl := fixC s.ctl, parkedCl := s.parkedCl.map fixC }

/-- A double trap (R85, R277, R291), of a group that would have issued in cycle `now`: the controller stops; a core halts in FREEZE mode, or,
in a partition without DEBUG, its cluster is reset. Either is reported to the partition controller. -/
def State.doubleTrap (s : State) (now : Nat) (c : Cause) : State :=
  let s := s.report c.code
  match s.who with
  | .c => { s with ctl := { s.ctl with c := { Strand.freeze now s.ctl.c with run := .stopped }, stopped := true } }
  | _ =>
    if s.debugOn then
      let k := (s.haltAt now (some c)).core
      -- the cause is reported against the launch (R300)
      { s with core := { k with task := k.task.map fun (t : Task) => { t with status := if t.status = 0 then c.code else t.status } } }
    else s.resetCluster s.core.die s.core.cluster

/-- The wide values of the captured entries, by slot (R261). -/
def wideSlots (entries : List ReplayEntry) : List (Nat × BitVec 16384 × Mask) :=
  (entries.zipIdx).filterMap fun e => e.1.eff.wide.map fun v => (e.2, v.1, v.2)

/-- The cause of a poison arrival (R265). -/
def poisonCause (p : Word × Nat) : Cause := ⟨0x30, p.1, BitVec.ofNat 64 p.2, 0, true⟩

/-- Whether the strand's core is halted: poison arrivals are held then (R277). -/
def State.coreHalted (s : State) : Bool := !s.onController && s.core.halt.isSome

/-- Trap entry of the strand that runs, with the group G at `addr`, which would have issued in cycle `now` (R84). The first poison
arrival that it finds replaces the cause, and further ones stay pending (R264, R265), as all do while the core is halted (R277). -/
def State.trapAt (s : State) (now addr : Nat) (c : Cause) : State :=
  let f0 := s.strand
  let found := s.arriving
  let taken := if s.coreHalted then none else found.head?
  let c := (taken.map poisonCause).getD c
  let f := { f0 with
    poisons := [], held := f0.held ++ (if taken.isSome then found.tail else found)
    results := f0.results.filter fun r => r.written || r.poison.isNone }
  let s := s.filled.setStrand f
  let entries := captured now f
  let area := f.traparea.toNat
  if f.th || (f.rq && !f.replayStore.isEmpty) then s.doubleTrap now c
  else if s.spSize < area + 4096 then s.doubleTrap now { c with code := 0x14, tval := f.traparea, orig := 0 }
  else
    (s.spWrite area (frameBytes s.who f addr c entries)).setStrand { f with
      epc := BitVec.ofNat 64 addr, cause := c.code.zeroExtend 64, tval := c.tval
      ppl := f.pl, pl := true, th := true, rq := true
      pc := f.handler.toNat, nest := none, results := f.results.filter (·.written), replays := []
      replayStore := wideSlots entries, run := .running, stall := 0 }

/-- Marks the verdict of the group. -/
def State.verdict (s : State) (v : Verdict) : State := { s with grp := { s.grp with verdict := v } }

/-- The instruction traps as the group G (R84, R88). -/
def State.raise (s : State) (code : Nat) (tval orig : Word) : Answer :=
  .next ((s.trapAt s.cycle s.grp.addr ⟨BitVec.ofNat 8 code, tval, orig, 0, false⟩).verdict .trapped)

/-- The address of the instruction, as `orig` records it (R268). -/
def State.here (s : State) : Word := BitVec.ofNat 64 s.grp.iaddr

/-- The instruction blocks its group (R81): nothing takes effect. -/
def State.block (s : State) : Answer := .next (s.verdict .blocked)

/-- The instruction waits for a result in flight of its strand. -/
def State.await (s : State) : Answer := .next (s.verdict .awaits)

/-- The instruction issues. -/
def issue (s : State) : Answer := .next s

/-! ## Return (R86, R261, R262) -/

/-- The descriptors of a frame as replay entries, or none where one is invalid (R261). -/
def readDescriptors (frame : List Byte) (store : List (Nat × BitVec 16384 × Mask)) (n : Nat) : Option (List ReplayEntry) :=
  (List.range n).mapM fun i =>
    let value := natOfBytes ((frame.drop (0x100 + 16 * i)).take 8)
    let hi := natOfBytes ((frame.drop (0x108 + 16 * i)).take 8)
    let remaining := bitsOf hi 0 8
    if remaining = 0 then none
    else (effectOf (bitsOf hi 16 4) (bitsOf hi 20 12) value ((store.find? fun q => q.1 = i).map (·.2))).map
      fun e => ⟨e, BitVec.ofNat 6 (bitsOf hi 32 6), remaining⟩

/-- The syllables of one group in a loop-buffer image, up to its stop bit. -/
def lbufGroup : Nat → List Nat → List Nat
  | 0, _ => []
  | _ + 1, [] => []
  | n + 1, w :: ws => if 2 ^ 31 ≤ w then [w] else w :: lbufGroup n ws

/-- The nest state of a frame (R262), before its checks: `addr` is the group G, at body position g. -/
def readNest (frame : List Byte) (addr : Nat) : Nest :=
  let word (o n : Nat) : Nat := natOfBytes ((frame.drop o).take n)
  let ctl := word 0x98 8
  let b := bitsOf ctl 0 5 + 1
  let g := bitsOf ctl 9 5
  let body := (List.range b).map fun j => lbufGroup 8 ((List.range 8).map fun k => word (0x400 + 32 * j + 4 * k) 4)
  { desc := BitVec.ofNat 512 (word 0xC0 64), body := body
    base := addr - 4 * ((body.take g).foldl (fun acc l => acc + l.length) 0)
    c := (List.range 6).map fun d => word (0x80 + 4 * d) 4 % 2 ^ 20
    i := word 0xA0 16, trips := word 0xB0 16, s := bitsOf ctl 5 3, rot := bitOf ctl 8, g := g }

/-- `sr.status` and the pc after `ERET`; the entries wait for the issue of the group at `sr.epc` (R86). -/
def State.eret (s : State) (entries : List ReplayEntry) (nest : Option Nest) : State :=
  s.onStrand fun f => { f with
    pl := f.ppl, th := false, rq := false, pc := f.epc.toNat
    replays := entries, replayStore := [], nest := nest }

end Sys2Proof.Machine
end

