-- ==== Sys2Proof/Machine/Compress.lean ====
section
/-! DEFINITION. Sector compression: records, streams and their expansion (R355 to R357). -/

namespace Sys2Proof.Machine

/-! ## CRC-32C (R355) -/

/-- One bit taken in by the CRC register, least significant bit first. The spec names the polynomial of Castagnoli and no more: the
bit order and the ones that the register starts with and the check is inverted by are those in common use (PRESUMED, log entry
125). -/
def crcShift (r : BitVec 32) : BitVec 32 := if r.getLsbD 0 then (r >>> 1) ^^^ 0x82F63B78#32 else r >>> 1

def crcByte (r : BitVec 32) (b : Byte) : BitVec 32 := (List.range 8).foldl (fun r _ => crcShift r) (r ^^^ b.setWidth 32)

def crc32c (bs : List Byte) : BitVec 32 := ~~~ (bs.foldl crcByte 0xFFFFFFFF#32)

/-! ## Records (R355) -/

def sectorBytes : Nat := 512

/-- The 32-bit words of a sector, in ascending order. -/
def sectorWords (bs : List Byte) : List (List Byte) := (List.range 128).map fun i => (bs.drop (4 * i)).take 4

/-- The mask of a sector: bit i says that word i is not zero. -/
def sectorMask (bs : List Byte) : Nat :=
  ((sectorWords bs).zipIdx.map fun w => if w.1.all (· = 0) then 0 else 2 ^ w.2).sum

/-- How many of the 128 words a mask marks. -/
def markedWords (mask : Nat) : Nat := ((List.range 128).filter (bitOf mask)).length

/-- A record's header. -/
def recordHeader (method len : Nat) (check : BitVec 32) : List Byte := bytesOfNat 8 (check.toNat + len * 2 ^ 32 + method * 2 ^ 42)

/-- The record of a sector of 512 bytes: the method with the smallest body, zero before word mask before raw on a tie. -/
def compressSector (bs : List Byte) : List Byte :=
  let mask := sectorMask bs
  let len := 16 + 4 * markedWords mask
  let check := crc32c bs
  if mask = 0 then recordHeader 1 0 check
  else if len ≤ sectorBytes then
    recordHeader 2 len check ++ bytesOfNat 16 mask ++ (sectorWords bs).flatMap fun w => if w.all (· = 0) then [] else w
  else recordHeader 0 sectorBytes check ++ bs

/-- The words that a mask places in a sector, taken one after another. -/
def unmask (mask : Nat) : Nat → Nat → List Byte → List Byte
  | 0, _, _ => []
  | n + 1, i, bs => if bitOf mask i then bs.take 4 ++ unmask mask n (i + 1) (bs.drop 4) else List.replicate 4 0 ++ unmask mask n (i + 1) bs

/-! ## Streams (R356) -/

/-- The next multiple of 8. -/
def up8 (n : Nat) : Nat := (n + 7) / 8 * 8

/-- The sectors of a run of bytes, the last one filled with zeros. -/
def sectorsOf (bs : List Byte) : List (List Byte) :=
  (List.range ((bs.length + 511) / 512)).map fun i => padTo 512 ((bs.drop (512 * i)).take 512)

/-- The stream of a run of bytes: the index, then the records on 8-byte boundaries. -/
def compressStream (bs : List Byte) : List Byte :=
  let records := (sectorsOf bs).map fun s => (let r := compressSector s; padTo (up8 r.length) r)
  let start := up8 (4 * records.length)
  let (index, body, _) := records.foldl (fun (acc : List Byte × List Byte × Nat) r =>
    (acc.1 ++ bytesOfNat 4 (acc.2.2 / 8), acc.2.1 ++ r, acc.2.2 + r.length)) ([], [], start)
  padTo start index ++ body

/-! ## Expansion (R356, R357) -/

/-- What the expansion of one sector meets: its 512 bytes, a poisoned line of the stream, or a malformed sector, with the byte offset
of the failing index entry or record. -/
inductive SectorRead where
  | data (bs : List Byte)
  | poisoned
  | malformed (offset : Nat)
  deriving DecidableEq, Repr, Inhabited

/-- Expands one record at an offset of a stream; `bad` says whether a range of the stream has a poisoned line. -/
def expandRecord (stream : List Byte) (bad : Nat → Nat → Bool) (o : Nat) : SectorRead :=
  if stream.length < o + 8 then .malformed o
  else if bad o 8 then .poisoned
  else
    let header := natOfBytes ((stream.drop o).take 8)
    let len := bitsOf header 32 10
    let body := (stream.drop (o + 8)).take len
    if bitsOf header 44 20 != 0 || stream.length < o + 8 + len then .malformed o
    else if bad (o + 8) len then .poisoned
    else
      let mask := natOfBytes (body.take 16)
      let sector : Option (List Byte) := match bitsOf header 42 2 with
        | 0 => if len = sectorBytes then some body else none
        | 1 => if len = 0 then some (List.replicate sectorBytes 0) else none
        | 2 => if 16 ≤ len && len = 16 + 4 * markedWords mask then some (unmask mask 128 0 (body.drop 16)) else none
        | _ => none
      match sector with
      | some bs => if (crc32c bs).toNat = bitsOf header 0 32 then .data bs else .malformed o
      | none => .malformed o

/-- Expands sector i of a stream, reading its index entry and its record only. -/
def expandSector (stream : List Byte) (bad : Nat → Nat → Bool) (i : Nat) : SectorRead :=
  if stream.length < 4 * i + 4 then .malformed (4 * i)
  else if bad (4 * i) 4 then .poisoned
  else
    let entry := natOfBytes ((stream.drop (4 * i)).take 4)
    if bitsOf entry 24 8 != 0 then .malformed (4 * i) else expandRecord stream bad (8 * entry)

/-- What an expansion writes: the bytes, the 128-byte lines of them that are poisoned, and where it met a malformed sector. -/
structure Expansion where
  bytes : List Byte
  bad : List Nat
  malformed : Option Nat
  deriving DecidableEq, Repr, Inhabited

/-- Expands the sectors of n bytes in order. Every line from a malformed sector on is poisoned (R357). -/
def expandStream (stream : List Byte) (bad : Nat → Nat → Bool) (n : Nat) : Expansion :=
  let step (x : Expansion) (i : Nat) : Expansion :=
    let lost : Expansion := { x with bytes := x.bytes ++ List.replicate sectorBytes 0, bad := x.bad ++ (List.range 4).map (4 * i + ·) }
    if x.malformed.isSome then lost
    else match expandSector stream bad i with
      | .data bs => { x with bytes := x.bytes ++ bs }
      | .poisoned => lost
      | .malformed o => { lost with malformed := some o }
  let x := (List.range ((n + 511) / 512)).foldl step ⟨[], [], none⟩
  { x with bytes := x.bytes.take n, bad := x.bad.filter fun l => 128 * l < n }

end Sys2Proof.Machine
end

