-- ==== Sys2Proof/WellFormed.lean ====
section
/-! DEFINITION. Well-formed instructions: those whose operands their encoding admits (R38 step 2, R40, R52). -/

namespace Sys2Proof

/-- An instruction whose operand values the spec's encoding admits on some strand; what also depends on the strand
(register counts, queue directions, launch limits) is checked where a group is decoded. -/
abbrev Instr.WellFormed (i : Instr) : Prop := formOk i = true

end Sys2Proof
end

