-- ==== Sys2Proof/Decode.lean ====
section
/-! DEFINITION. Decoding a syllable or a pair of syllables (R31, R32, R39 to R52, R58), and the encoder.

Decoding is total on any words and rejects by name: `opcode` for an unassigned major, func or marker (ILLEGAL_OPCODE),
`encoding` for a non-zero unused field, a reserved code or an operand value the form does not admit (ILLEGAL_ENCODING),
in the order of steps 1 and 2 of R38. A syllable is a number below 2^32; bit 31 is the stop bit S. -/

namespace Sys2Proof

/-- What decoding one instruction gives. -/
inductive DecodeResult where
  | opcode
  | encoding
  | ok (i : Instr)
  deriving DecidableEq, Repr

/-- major[30:25] -/
def nMajor (w : Nat) : Nat := w / 33554432 % 64
/-- d[24:19] -/
def nD (w : Nat) : Nat := w / 524288 % 64
/-- a[18:13] -/
def nA (w : Nat) : Nat := w / 8192 % 64
/-- b[12:7] -/
def nB (w : Nat) : Nat := w / 128 % 64
/-- func[6:0] -/
def nF (w : Nat) : Nat := w % 128
/-- type[6:3] of the V format -/
def nT (w : Nat) : Nat := w / 8 % 16
/-- func[2:0] of the V format -/
def nV (w : Nat) : Nat := w % 8
/-- imm13[12:0] -/
def nImm13 (w : Nat) : Nat := w % 8192
/-- disp18[17:0] -/
def nDisp (w : Nat) : Nat := w % 262144
/-- The stop bit S. -/
def nStop (w : Nat) : Bool := w / 2147483648 % 2 == 1

def fD (w : Nat) : Fin 64 := Fin.ofNat 64 (nD w)
def fA (w : Nat) : Fin 64 := Fin.ofNat 64 (nA w)
def fB (w : Nat) : Fin 64 := Fin.ofNat 64 (nB w)
def fD4 (w : Nat) : Fin 16 := Fin.ofNat 16 (nD w)
def fA4 (w : Nat) : Fin 16 := Fin.ofNat 16 (nA w)
def fB4 (w : Nat) : Fin 16 := Fin.ofNat 16 (nB w)
def fD3 (w : Nat) : Fin 8 := Fin.ofNat 8 (nD w)
def fA3 (w : Nat) : Fin 8 := Fin.ofNat 8 (nA w)
def fB3 (w : Nat) : Fin 8 := Fin.ofNat 8 (nB w)
def fT (w : Nat) : ElemType := ElemType.ofCode (nT w)
def fImm13 (w : Nat) : BitVec 13 := BitVec.ofNat 13 w
def fDisp (w : Nat) : BitVec 18 := BitVec.ofNat 18 w

/-- An instruction whose unused fields are zero (`clean`) and whose operand values its form admits (R40). -/
def form (clean : Bool) (i : Instr) : DecodeResult := if clean && formOk i then .ok i else .encoding


/-- Major 0x00: misc and system (R46). -/
def decodeMisc (w : Nat) : DecodeResult :=
  match nF w with
  | 0x00 => form (nD w == 0 && nA w == 0 && nB w == 0) (.nop)
  | 0x01 => form (nD w == 0 && nA w == 0) (.trap (fB w))
  | 0x02 => form (nD w == 0 && nA w == 0 && nB w == 0) (.brk)
  | 0x03 => form (nA w == 0 && nB w == 0) (.rdcyc (fD w))
  | 0x04 => form (nA w == 0 && nB w < 8) (.rdwid (fD w) (fB3 w))
  | 0x05 => form true (.rdsr (fD w) (Fin.ofNat 4096 (nA w * 64 + nB w)))
  | 0x06 => form true (.wrsr (Fin.ofNat 4096 (nD w * 64 + nB w)) (fA w))
  | 0x07 => form (nD w == 0 && nB w == 0) (.fenceE (fA w))
  | _ => .opcode

/-- Major 0x01: scalar ALU, register forms; `SEL` takes its predicate and `LEA` its scale from func (R46). -/
def decodeAlu (w : Nat) : DecodeResult :=
  match nF w with
  | 0x00 => form true (.add (fD w) (fA w) (fB w))
  | 0x01 => form true (.sub (fD w) (fA w) (fB w))
  | 0x02 => form true (.mul (fD w) (fA w) (fB w))
  | 0x03 => form true (.mulhI64 (fD w) (fA w) (fB w))
  | 0x04 => form true (.mulhN64 (fD w) (fA w) (fB w))
  | 0x05 => form true (.divI64 (fD w) (fA w) (fB w))
  | 0x06 => form true (.divN64 (fD w) (fA w) (fB w))
  | 0x07 => form true (.remI64 (fD w) (fA w) (fB w))
  | 0x08 => form true (.remN64 (fD w) (fA w) (fB w))
  | 0x09 => form true (.minI64 (fD w) (fA w) (fB w))
  | 0x0a => form true (.minN64 (fD w) (fA w) (fB w))
  | 0x0b => form true (.maxI64 (fD w) (fA w) (fB w))
  | 0x0c => form true (.maxN64 (fD w) (fA w) (fB w))
  | 0x0d => form (nB w == 0) (.abs (fD w) (fA w))
  | 0x0e => form true (.and (fD w) (fA w) (fB w))
  | 0x0f => form true (.or (fD w) (fA w) (fB w))
  | 0x10 => form true (.xor (fD w) (fA w) (fB w))
  | 0x11 => form true (.andn (fD w) (fA w) (fB w))
  | 0x12 => form true (.shl (fD w) (fA w) (fB w))
  | 0x13 => form true (.shr (fD w) (fA w) (fB w))
  | 0x14 => form true (.sra (fD w) (fA w) (fB w))
  | 0x15 => form true (.rot (fD w) (fA w) (fB w))
  | 0x16 => form (nB w == 0) (.clz (fD w) (fA w))
  | 0x17 => form (nB w == 0) (.ctz (fD w) (fA w))
  | 0x18 => form (nB w == 0) (.popc (fD w) (fA w))
  | 0x1a => form true (.shlImm (fD w) (fA w) (fB w))
  | 0x1b => form true (.shrImm (fD w) (fA w) (fB w))
  | 0x1c => form true (.sraImm (fD w) (fA w) (fB w))
  | 0x1d => form true (.rotImm (fD w) (fA w) (fB w))
  | f =>
    if 0x20 ≤ f && f ≤ 0x2f then form true (.sel (fD w) (fA w) (fB w) (Fin.ofNat 16 (f % 16)))
    else if 0x30 ≤ f && f ≤ 0x37 then form true (.lea (fD w) (fA w) (fB w) (Fin.ofNat 8 (f % 8)))
    else .opcode

/-- Major 0x07: compare and predicate logic (R46, R92). -/
def decodeCompare (w : Nat) : DecodeResult :=
  match nF w with
  | 0x00 => form (nD w < 16) (.cmpEq (fD4 w) (fA w) (fB w))
  | 0x01 => form (nD w < 16) (.cmpNe (fD4 w) (fA w) (fB w))
  | 0x02 => form (nD w < 16) (.cmpLt (fD4 w) (fA w) (fB w))
  | 0x03 => form (nD w < 16) (.cmpGe (fD4 w) (fA w) (fB w))
  | 0x04 => form (nD w < 16) (.cmpLtu (fD4 w) (fA w) (fB w))
  | 0x05 => form (nD w < 16) (.cmpGeu (fD4 w) (fA w) (fB w))
  | 0x10 => form (nD w < 16 && nA w < 16 && nB w < 16) (.pand (fD4 w) (fA4 w) (fB4 w))
  | 0x11 => form (nD w < 16 && nA w < 16 && nB w < 16) (.por (fD4 w) (fA4 w) (fB4 w))
  | 0x12 => form (nD w < 16 && nA w < 16 && nB w < 16) (.pxor (fD4 w) (fA4 w) (fB4 w))
  | 0x13 => form (nD w < 16 && nA w < 16 && nB w == 0) (.pnot (fD4 w) (fA4 w))
  | _ => .opcode

/-- Major 0x0F: narrow and indexed memory, queues, atomics, counters (R47). -/
def decodeMemory (w : Nat) : DecodeResult :=
  match nF w with
  | 0x00 => form true (.ldN8 (fD w) (fA w) (fB w))
  | 0x01 => form true (.ldI8 (fD w) (fA w) (fB w))
  | 0x02 => form true (.ldN16 (fD w) (fA w) (fB w))
  | 0x03 => form true (.ldI16 (fD w) (fA w) (fB w))
  | 0x04 => form true (.st8 (fD w) (fA w) (fB w))
  | 0x05 => form true (.st16 (fD w) (fA w) (fB w))
  | 0x08 => form (nD w < 8) (.ldq (fD3 w) (fA w) (fB w))
  | 0x09 => form (nD w < 8) (.stq (fD3 w) (fA w) (fB w))
  | 0x0a => form (nD w < 8 && nB w == 0) (.qpush (fD3 w) (fA w))
  | 0x0b => form (nA w < 8 && nB w == 0) (.qpop (fD w) (fA3 w))
  | 0x0c => form (nD w == 0 && nA w < 16 && nB w == 0) (.bqpush (fA4 w))
  | 0x10 => form true (.amoAdd (fD w) (fA w) (fB w))
  | 0x11 => form true (.amoMinI64 (fD w) (fA w) (fB w))
  | 0x12 => form true (.amoMinN64 (fD w) (fA w) (fB w))
  | 0x13 => form true (.amoMaxI64 (fD w) (fA w) (fB w))
  | 0x14 => form true (.amoMaxN64 (fD w) (fA w) (fB w))
  | 0x15 => form true (.amoAnd (fD w) (fA w) (fB w))
  | 0x16 => form true (.amoOr (fD w) (fA w) (fB w))
  | 0x17 => form true (.amoXor (fD w) (fA w) (fB w))
  | 0x18 => form true (.amoXchg (fD w) (fA w) (fB w))
  | 0x19 => form true (.amoCas (fD w) (fA w) (fB w))
  | 0x1a => form true (.amoFaddF32 (fD w) (fA w) (fB w))
  | 0x1b => form true (.amoFaddBf16 (fD w) (fA w) (fB w))
  | 0x1c => form true (.amoFmaxF32 (fD w) (fA w) (fB w))
  | 0x1d => form true (.amoFmaxBf16 (fD w) (fA w) (fB w))
  | 0x20 => form (nD w < 8) (.cadd (fD3 w) (fA w) (fB w))
  | 0x21 => form (nB w < 8) (.cread (fD w) (fA w) (fB3 w))
  | 0x22 => form true (.cwait (fD w) (fA w) (fB w))
  | 0x28 => form (nB w == 0) (.kadd (fD w) (fA w))
  | 0x29 => form (nD w == 0) (.kwait (fA w) (fB w))
  | 0x2a => form (nB w == 0) (.kread (fD w) (fA w))
  | 0x2b => form true (.klink (fD w) (fA w) (fB w))
  | _ => .opcode

/-- Major 0x13: returns, task and speculation (R48). -/
def decodeReturn (w : Nat) : DecodeResult :=
  match nF w with
  | 0x00 => form (nD w == 0 && nB w == 0) (.jr (fA w))
  | 0x01 => form (nD w == 0 && nA w == 0 && nB w == 0) (.ret)
  | 0x02 => form (nD w == 0 && nA w == 0 && nB w == 0) (.eret)
  | 0x08 => form (nD w == 0 && nA w == 0 && nB w == 0) (.taskend)
  | 0x09 => form (nD w == 0 && nB w == 0) (.ovswap (fA w))
  | 0x10 => form (nD w == 0) (.specBegin (fA w) (fB w))
  | 0x11 => form (nD w == 0 && nA w == 0 && nB w == 0) (.specCommit)
  | 0x12 => form (nD w == 0 && nA w == 0 && nB w == 0) (.specAbort)
  | _ => .opcode

/-- Major 0x18: templates (R49). -/
def decodeTemplate (w : Nat) : DecodeResult :=
  match nF w with
  | 0x00 => form true (.wld (fD w) (fA w) (fB w))
  | 0x01 => form true (.wst (fD w) (fA w) (fB w))
  | 0x02 => form (nB w < 8) (.wset (fD w) (fA w) (fB3 w))
  | 0x03 => form (nA w == 0 && nB w == 0) (.wgo (fD w))
  | 0x04 => form (nA w < 16 && nB w == 0) (.wgoNb (fD w) (fA4 w))
  | 0x05 => form (nB w < 8) (.wpatch (fD w) (fA w) (fB3 w))
  | _ => .opcode

/-- Major 0x19: rings, tiles, records, engine queues (R221). -/
def decodeRing (w : Nat) : DecodeResult :=
  match nF w with
  | 0x00 =>
    if nB w < 16 then form (nD w < 8) (.ringdef (fD3 w) (fA w) (Fin.ofNat 16 (nB w)))
    else form (nD w < 8 && nA w == 0 && nB w == 16) (.ringdefU (fD3 w))
  | 0x01 => form (nD w == 0 && nA w < 8 && nB w == 0) (.ringpop (fA3 w))
  | 0x02 => form (nA w < 8 && nB w == 0) (.ringstat (fD w) (fA3 w))
  | 0x03 => form (nB w == 0) (.tdef (fD w) (fA w))
  | 0x04 =>
    match nB w with
    | 0 => form true (.tfeRd (fD w) (fA w))
    | 1 => form true (.tfeSet (fD w) (fA w))
    | 2 => form true (.tfeClr (fD w) (fA w))
    | _ => .encoding
  | 0x05 => form (nD w == 0 && nB w == 0) (.rcfence (fA w))
  | 0x06 => form (nB w == 0) (.recld (fD w) (fA w))
  | 0x07 =>
    if nB w < 8 then form (nA w == 0) (.eqstat (fD w) (fB3 w))
    else form (nA w == 0 && 16 ≤ nB w && nB w < 24) (.eqstatC (fD w) (fB3 w))
  | 0x08 =>
    match nA w with
    | 0 => form (nD w == 0 && nB w < 8) (.ecancelRes (fB3 w))
    | 1 => form (nD w == 0 && nB w < 8) (.ecancelOne (fB3 w))
    | 2 => form (nD w == 0 && nB w < 8) (.ecancelAll (fB3 w))
    | _ => .encoding
  | _ => .opcode

/-- Major 0x20: data movement (R128). -/
def decodeVMove (w : Nat) : DecodeResult :=
  match nV w with
  | 0x00 => form true (.vld (fD w) (fA w) (fB w) (fT w))
  | 0x01 => form true (.vst (fD w) (fA w) (fB w) (fT w))
  | 0x02 => form (nA w < 8 && nB w == 0 && nT w == 0) (.vqpop (fD w) (fA3 w))
  | 0x03 => form (nD w < 8 && nB w == 0 && nT w == 0) (.vqpush (fD3 w) (fA w))
  | 0x04 => form (nB w == 0) (.vmov (fD w) (fA w) (fT w))
  | 0x05 => form (nB w == 0) (.vbcst (fD w) (fA w) (fT w))
  | 0x06 => form true (.vins (fD w) (fA w) (fB w) (fT w))
  | 0x07 => form true (.vextr (fD w) (fA w) (fB w) (fT w))
  | _ => .opcode

/-- Major 0x21: element arithmetic (R132). -/
def decodeVArith (w : Nat) : DecodeResult :=
  match nV w with
  | 0x00 => form true (.vadd (fD w) (fA w) (fB w) (fT w))
  | 0x01 => form true (.vsub (fD w) (fA w) (fB w) (fT w))
  | 0x02 => form true (.vmul (fD w) (fA w) (fB w) (fT w))
  | 0x03 => form true (.vmin (fD w) (fA w) (fB w) (fT w))
  | 0x04 => form true (.vmax (fD w) (fA w) (fB w) (fT w))
  | 0x05 => form (nB w == 0) (.vabs (fD w) (fA w) (fT w))
  | 0x06 => form (nB w == 0) (.vneg (fD w) (fA w) (fT w))
  | _ => .opcode

/-- Major 0x22: fused, widening and dot forms (R134, R138, R139). -/
def decodeVFma (w : Nat) : DecodeResult :=
  match nV w with
  | 0x00 => form true (.vfma (fD w) (fA w) (fB w) (fT w))
  | 0x01 => form true (.vfms (fD w) (fA w) (fB w) (fT w))
  | 0x02 => form true (.vwmul (fD w) (fA w) (fB w) (fT w))
  | 0x03 => form true (.vwadd (fD w) (fA w) (fB w) (fT w))
  | 0x04 => form true (.vwfma (fD w) (fA w) (fB w) (fT w))
  | 0x05 => form true (.vdot4 (fD w) (fA w) (fB w) (fT w))
  | 0x06 => form true (.vamax (fD w) (fA w) (fB w) (fT w))
  | _ => .opcode

/-- Major 0x23: logic and shifts (R135). -/
def decodeVLogic (w : Nat) : DecodeResult :=
  match nV w with
  | 0x00 => form true (.vand (fD w) (fA w) (fB w) (fT w))
  | 0x01 => form true (.vor (fD w) (fA w) (fB w) (fT w))
  | 0x02 => form true (.vxor (fD w) (fA w) (fB w) (fT w))
  | 0x03 => form true (.vandn (fD w) (fA w) (fB w) (fT w))
  | 0x04 => form true (.vshl (fD w) (fA w) (fB w) (fT w))
  | 0x05 => form true (.vshr (fD w) (fA w) (fB w) (fT w))
  | 0x06 => form true (.vsra (fD w) (fA w) (fB w) (fT w))
  | _ => .opcode

/-- Major 0x24: compares (R136). -/
def decodeVCompare (w : Nat) : DecodeResult :=
  match nV w with
  | 0x00 => form true (.vcmpEq (fD w) (fA w) (fB w) (fT w))
  | 0x01 => form true (.vcmpNe (fD w) (fA w) (fB w) (fT w))
  | 0x02 => form true (.vcmpLt (fD w) (fA w) (fB w) (fT w))
  | 0x03 => form true (.vcmpLe (fD w) (fA w) (fB w) (fT w))
  | 0x04 => form true (.vcmpGt (fD w) (fA w) (fB w) (fT w))
  | 0x05 => form true (.vcmpGe (fD w) (fA w) (fB w) (fT w))
  | 0x06 => form true (.vcmpUn (fD w) (fA w) (fB w) (fT w))
  | _ => .opcode

/-- Major 0x25: select, rearrangement, reduction, lookup (R137, R143 to R151). -/
def decodeVShuffle (w : Nat) : DecodeResult :=
  match nV w with
  | 0x00 => form true (.vsel (fD w) (fA w) (fB w) (fT w))
  | 0x01 => form true (.vperm (fD w) (fA w) (fB w) (fT w))
  | 0x02 => form true (.vzip (fD w) (fA w) (fB w) (fT w))
  | 0x03 => form true (.vunzip (fD w) (fA w) (fB w) (fT w))
  | 0x04 => form true (.vslide (fD w) (fA w) (fB w) (fT w))
  | 0x05 => form (nB w < 4) (.vred (fD w) (fA w) (Fin.ofNat 4 (nB w)) (fT w))
  | 0x06 => form (nB w < 4) (.vscan (fD w) (fA w) (Fin.ofNat 4 (nB w)) (fT w))
  | 0x07 => form (nB w == 0) (.vlut (fD w) (fA w) (fT w))
  | _ => .opcode

/-- A form that carries its rounding code in three bits: codes 6 and 7 are reserved (R4, R44). -/
def formRm (clean : Bool) (code : Nat) (mk : Rm → Instr) : DecodeResult :=
  match Rm.ofCode code with
  | some r => form clean (mk r)
  | none => .encoding

/-- Major 0x26: special functions, `VLUTLD` and `VRNG` (R149, R150, R152). -/
def decodeVSpecial (w : Nat) : DecodeResult :=
  match nV w with
  | 0 => formRm (nB w < 8) (nB w % 8) (fun r => .vexp2 (fD w) (fA w) r (fT w))
  | 1 => formRm (nB w < 8) (nB w % 8) (fun r => .vlog2 (fD w) (fA w) r (fT w))
  | 2 => formRm (nB w < 8) (nB w % 8) (fun r => .vrcp (fD w) (fA w) r (fT w))
  | 3 => formRm (nB w < 8) (nB w % 8) (fun r => .vrsq (fD w) (fA w) r (fT w))
  | 4 => formRm (nB w < 8) (nB w % 8) (fun r => .vtanh (fD w) (fA w) r (fT w))
  | 5 => form (nD w == 0 && nB w == 0 && nT w == 0) (.vlutld (fA w))
  | 6 => form (nA w == 0 && nB w == 0 && nT w == 7) (.vrng (fD w))
  | _ => .opcode

/-- Majors 0x27 and 0x28: the destination type in vb[10:7], sat in vb[11], vb[12] zero, the rounding code in func (R44). -/
def decodeVcvt (w : Nat) : DecodeResult :=
  formRm (nB w < 32) (nV w) (fun r => .vcvt (fD w) (fA w) (nB w / 16 % 2 == 1) (ElemType.ofCode (nB w % 16)) (fT w) r)
def decodeVnarrow (w : Nat) : DecodeResult :=
  formRm (nB w < 32) (nV w) (fun r => .vnarrow (fD w) (fA w) (nB w / 16 % 2 == 1) (ElemType.ofCode (nB w % 16)) (fT w) r)

/-- Major 0x29: the mask stack (R153). -/
def decodeMask (w : Nat) : DecodeResult :=
  match nV w with
  | 0x00 => form (nD w == 0 && nB w == 0 && nT w == 0) (.mpush (fA w))
  | 0x01 => form (nD w == 0 && nA w == 0 && nB w == 0 && nT w == 0) (.minv)
  | 0x02 => form (nD w == 0 && nA w == 0 && nB w == 0 && nT w == 0) (.mpop)
  | 0x03 => form (nA w == 0 && nB w == 0 && nT w == 0) (.mtop (fD w))
  | _ => .opcode

/-- Major 0x30: attention inline (R51, R231, R239, R247). -/
def decodeAttention (w : Nat) : DecodeResult :=
  match nF w with
  | 0x00 => form (nD w == 0) (.attmask (fA w) (fB w))
  | 0x01 =>
    if nD w / 2 % 2 == 1 then form (nD w < 4 && nB w == 0) (.attstLdM (Fin.ofNat 2 (nD w)) (fA w))
    else form (nD w < 2 && nB w == 0) (.attstLd (Fin.ofNat 2 (nD w)) (fA w))
  | 0x02 => form (nD w < 2 && nB w == 0) (.attstSt (Fin.ofNat 2 (nD w)) (fA w))
  | 0x03 => form (nD w < 8 && nB w == 0) (.seqbind (fD3 w) (fA w))
  | _ => .opcode

/-- Major 0x31: Madder inline (R51, R254). -/
def decodeMadder (w : Nat) : DecodeResult :=
  match nF w with
  | 0x00 => form true (.kvappend (fD w) (fA w) (fB w))
  | 0x01 => form true (.kvput (fD w) (fA w) (fB w))
  | 0x02 => form (nD w == 0) (.kvinv (fA w) (fB w))
  | _ => .opcode

/-- Major 0x34: privileged (R51, R341, R360). -/
def decodePrivileged (w : Nat) : DecodeResult :=
  match nF w with
  | 0x00 =>
    match nD w with
    | 0 => form (nB w == 0) (.xlinvPg (fA w))
    | 1 => form true (.xlinvRg (fA w) (fB w))
    | 2 => form (nA w == 0 && nB w == 0) .xlinvAll
    | _ => .encoding
  | 0x01 =>
    match nD w with
    | 0 => form (nB w == 0) (.poisonClr (fA w))
    | 1 => form (nB w == 0) (.poisonClrSp (fA w))
    | _ => .encoding
  | _ => .opcode

/-- Major 0x10: the cond code chooses the branch; codes 4 to 7 are reserved (R42). -/
def decodeBranch (w : Nat) : DecodeResult :=
  match w / 4194304 % 8 with
  | 0 => form (w / 262144 % 16 == 0) (.br (fDisp w))
  | 1 => form true (.bp (Fin.ofNat 16 (w / 262144)) (fDisp w))
  | 2 => form true (.bpF (Fin.ofNat 16 (w / 262144)) (fDisp w))
  | 3 => form (w / 262144 % 16 == 0) (.bq (fDisp w))
  | _ => .encoding

/-- Major 0x15: `NEST` and `NEST.R` (R156); b[0] tells them apart and a func other than 0 is not assigned. -/
def decodeNest (w : Nat) : DecodeResult :=
  if nF w != 0 then .opcode
  else if nB w % 2 == 1 then form (nA w < 32 && nB w < 16) (.nestR (fD w) (Fin.ofNat 32 (nA w)) (Fin.ofNat 8 (nB w / 2)))
  else form (nA w < 32 && nB w == 0) (.nest (fD w) (Fin.ofNat 32 (nA w)))

/-- The opcode map of the one-syllable formats (R45, R58). -/
def decodeOne (w : Nat) : DecodeResult :=
  match nMajor w with
  | 0x00 => decodeMisc w
  | 0x01 => decodeAlu w
  | 0x02 => form true (.addi (fD w) (fA w) (fImm13 w))
  | 0x03 => form (nA w == 0) (.movi (fD w) (fImm13 w))
  | 0x04 => form (nF w < 64) (.fsh (fD w) (fA w) (fB w) (Fin.ofNat 64 (nF w)))
  | 0x05 =>
    if nImm13 w < 4096 then form true (.bfxN64 (fD w) (fA w) (Fin.ofNat 64 (w / 64)) (Fin.ofNat 64 w))
    else form true (.bfxI64 (fD w) (fA w) (Fin.ofNat 64 (w / 64)) (Fin.ofNat 64 w))
  | 0x06 => form (nImm13 w < 4096) (.bfi (fD w) (fA w) (Fin.ofNat 64 (w / 64)) (Fin.ofNat 64 w))
  | 0x07 => decodeCompare w
  | 0x08 => form true (.ld64 (fD w) (fA w) (fImm13 w))
  | 0x09 => form true (.ldN32 (fD w) (fA w) (fImm13 w))
  | 0x0a => form true (.ldI32 (fD w) (fA w) (fImm13 w))
  | 0x0b => form true (.st64 (fD w) (fA w) (fImm13 w))
  | 0x0c => form true (.st32 (fD w) (fA w) (fImm13 w))
  | 0x0d => form true (.ldsp (fD w) (fA w) (fImm13 w))
  | 0x0e => form true (.stsp (fD w) (fA w) (fImm13 w))
  | 0x0f => decodeMemory w
  | 0x10 => decodeBranch w
  | 0x11 => form (w / 262144 % 128 == 0) (.call (fDisp w))
  | 0x12 =>
    if w / 262144 % 2 == 0 then form true (.dbnz (fD w) (fDisp w)) else form true (.dbnzG (fD w) (fDisp w))
  | 0x13 => decodeReturn w
  | 0x14 => form (w / 262144 % 128 == 0) (.ubz (fDisp w))
  | 0x15 => decodeNest w
  | 0x18 => decodeTemplate w
  | 0x19 => decodeRing w
  | 0x20 => decodeVMove w
  | 0x21 => decodeVArith w
  | 0x22 => decodeVFma w
  | 0x23 => decodeVLogic w
  | 0x24 => decodeVCompare w
  | 0x25 => decodeVShuffle w
  | 0x26 => decodeVSpecial w
  | 0x27 => decodeVcvt w
  | 0x28 => decodeVnarrow w
  | 0x29 => decodeMask w
  | 0x30 => decodeAttention w
  | 0x31 => decodeMadder w
  | 0x34 => decodePrivileged w
  | m =>
    if 0x38 ≤ m then
      if w / 2097152 % 2 == 0 then form true (.pw (Fin.ofNat 64 (w / 4194304)) (Fin.ofNat 32 (w / 65536)) (BitVec.ofNat 16 w))
      else form true (.pwS (Fin.ofNat 64 (w / 4194304)) (Fin.ofNat 32 (w / 65536)) (BitVec.ofNat 16 w))
    else .opcode

/-- Whether a syllable begins a long-immediate form, major 0x37 (R39). -/
def isLong (w : Nat) : Bool := nMajor w == 0x37

/-- The two syllables of a long-immediate form: the value is imm31 (bit 12 of the first) above imm[30:0] (R41, R51, R52). -/
def decodeLong (w1 w2 : Nat) : DecodeResult :=
  let v := BitVec.ofNat 32 (w1 / 4096 % 2 * 2147483648 + w2 % 2147483648)
  let clean := !nStop w1 && nA w1 == 0
  match w1 % 4096 with
  | 0 => form clean (.movl (fD w1) v)
  | 1 => form clean (.movlN (fD w1) v)
  | 2 => form clean (.movlH (fD w1) v)
  | _ => .opcode

/-- The instruction that begins at the first of the given syllables, and how many syllables it takes. A long-immediate
form whose second syllable is not given reads it as zero. -/
def decode (w1 : Nat) (rest : List Nat) : DecodeResult × Nat :=
  if isLong w1 then (decodeLong w1 (rest.headD 0), 2) else (decodeOne w1, 1)

/-- The instruction the decoder reads from the bits w of an opcode-table row: bits 31..0 are the first syllable and
bits 63..32 the second; the bits above the row's own are zero (the hardware stores each syllable little-endian, R31). -/
def decodeTableWord (_nbits w : Nat) : Option Instr :=
  match (decode (w % 4294967296) [w / 4294967296 % 4294967296]).1 with
  | .ok i => some i
  | _ => none

/-- The R format without its stop bit (R39). -/
def encR (major d a b func : Nat) : Nat := major * 33554432 + d * 524288 + a * 8192 + b * 128 + func
/-- The I and M formats. -/
def encI (major d a imm : Nat) : Nat := major * 33554432 + d * 524288 + a * 8192 + imm
/-- The B format. -/
def encB (major cond pred disp : Nat) : Nat := major * 33554432 + cond * 4194304 + pred * 262144 + disp
/-- The V format. -/
def encV (major vd va vb type func : Nat) : Nat := major * 33554432 + vd * 524288 + va * 8192 + vb * 128 + type * 8 + func
/-- The P format: 111 in bits 30 to 28. -/
def encP (t s k v : Nat) : Nat := 1879048192 + t * 4194304 + s * 2097152 + k * 65536 + v

/-- The one syllable of an instruction, its stop bit clear; nothing for a long-immediate form or an event. -/
def encodeOne : Instr → Option Nat
  | .nop => some (encR 0 0 0 0 0)
  | .trap c => some (encR 0 0 0 c.val 1)
  | .brk => some (encR 0 0 0 0 2)
  | .rdcyc d => some (encR 0 d.val 0 0 3)
  | .rdwid d f => some (encR 0 d.val 0 f.val 4)
  | .rdsr d n => some (encR 0 d.val (n.val / 64) (n.val % 64) 5)
  | .wrsr n a => some (encR 0 (n.val / 64) a.val (n.val % 64) 6)
  | .fenceE a => some (encR 0 0 a.val 0 7)
  | .add d a b => some (encR 1 d.val a.val b.val 0)
  | .sub d a b => some (encR 1 d.val a.val b.val 1)
  | .mul d a b => some (encR 1 d.val a.val b.val 2)
  | .mulhI64 d a b => some (encR 1 d.val a.val b.val 3)
  | .mulhN64 d a b => some (encR 1 d.val a.val b.val 4)
  | .divI64 d a b => some (encR 1 d.val a.val b.val 5)
  | .divN64 d a b => some (encR 1 d.val a.val b.val 6)
  | .remI64 d a b => some (encR 1 d.val a.val b.val 7)
  | .remN64 d a b => some (encR 1 d.val a.val b.val 8)
  | .minI64 d a b => some (encR 1 d.val a.val b.val 9)
  | .minN64 d a b => some (encR 1 d.val a.val b.val 10)
  | .maxI64 d a b => some (encR 1 d.val a.val b.val 11)
  | .maxN64 d a b => some (encR 1 d.val a.val b.val 12)
  | .abs d a => some (encR 1 d.val a.val 0 13)
  | .and d a b => some (encR 1 d.val a.val b.val 14)
  | .or d a b => some (encR 1 d.val a.val b.val 15)
  | .xor d a b => some (encR 1 d.val a.val b.val 16)
  | .andn d a b => some (encR 1 d.val a.val b.val 17)
  | .shl d a b => some (encR 1 d.val a.val b.val 18)
  | .shr d a b => some (encR 1 d.val a.val b.val 19)
  | .sra d a b => some (encR 1 d.val a.val b.val 20)
  | .rot d a b => some (encR 1 d.val a.val b.val 21)
  | .clz d a => some (encR 1 d.val a.val 0 22)
  | .ctz d a => some (encR 1 d.val a.val 0 23)
  | .popc d a => some (encR 1 d.val a.val 0 24)
  | .shlImm d a n => some (encR 1 d.val a.val n.val 26)
  | .shrImm d a n => some (encR 1 d.val a.val n.val 27)
  | .sraImm d a n => some (encR 1 d.val a.val n.val 28)
  | .rotImm d a n => some (encR 1 d.val a.val n.val 29)
  | .sel d a b k => some (encR 1 d.val a.val b.val (0x20 + k.val))
  | .lea d a b s => some (encR 1 d.val a.val b.val (0x30 + s.val))
  | .addi d a i => some (encI 2 d.val a.val i.toNat)
  | .movi d i => some (encI 3 d.val 0 i.toNat)
  | .fsh d a b n => some (encR 4 d.val a.val b.val n.val)
  | .bfxN64 d a w p => some (encI 5 d.val a.val (w.val * 64 + p.val))
  | .bfxI64 d a w p => some (encI 5 d.val a.val (4096 + w.val * 64 + p.val))
  | .bfi d a w p => some (encI 6 d.val a.val (w.val * 64 + p.val))
  | .cmpEq d a b => some (encR 7 d.val a.val b.val 0)
  | .cmpNe d a b => some (encR 7 d.val a.val b.val 1)
  | .cmpLt d a b => some (encR 7 d.val a.val b.val 2)
  | .cmpGe d a b => some (encR 7 d.val a.val b.val 3)
  | .cmpLtu d a b => some (encR 7 d.val a.val b.val 4)
  | .cmpGeu d a b => some (encR 7 d.val a.val b.val 5)
  | .pand d a b => some (encR 7 d.val a.val b.val 16)
  | .por d a b => some (encR 7 d.val a.val b.val 17)
  | .pxor d a b => some (encR 7 d.val a.val b.val 18)
  | .pnot d a => some (encR 7 d.val a.val 0 19)
  | .ld64 d a o => some (encI 8 d.val a.val o.toNat)
  | .ldN32 d a o => some (encI 9 d.val a.val o.toNat)
  | .ldI32 d a o => some (encI 10 d.val a.val o.toNat)
  | .st64 d a o => some (encI 11 d.val a.val o.toNat)
  | .st32 d a o => some (encI 12 d.val a.val o.toNat)
  | .ldsp d a o => some (encI 13 d.val a.val o.toNat)
  | .stsp d a o => some (encI 14 d.val a.val o.toNat)
  | .ldN8 d a b => some (encR 15 d.val a.val b.val 0)
  | .ldI8 d a b => some (encR 15 d.val a.val b.val 1)
  | .ldN16 d a b => some (encR 15 d.val a.val b.val 2)
  | .ldI16 d a b => some (encR 15 d.val a.val b.val 3)
  | .st8 d a b => some (encR 15 d.val a.val b.val 4)
  | .st16 d a b => some (encR 15 d.val a.val b.val 5)
  | .ldq q a b => some (encR 15 q.val a.val b.val 8)
  | .stq q a b => some (encR 15 q.val a.val b.val 9)
  | .qpush q a => some (encR 15 q.val a.val 0 10)
  | .qpop d q => some (encR 15 d.val q.val 0 11)
  | .bqpush p => some (encR 15 0 p.val 0 12)
  | .amoAdd d a b => some (encR 15 d.val a.val b.val 16)
  | .amoMinI64 d a b => some (encR 15 d.val a.val b.val 17)
  | .amoMinN64 d a b => some (encR 15 d.val a.val b.val 18)
  | .amoMaxI64 d a b => some (encR 15 d.val a.val b.val 19)
  | .amoMaxN64 d a b => some (encR 15 d.val a.val b.val 20)
  | .amoAnd d a b => some (encR 15 d.val a.val b.val 21)
  | .amoOr d a b => some (encR 15 d.val a.val b.val 22)
  | .amoXor d a b => some (encR 15 d.val a.val b.val 23)
  | .amoXchg d a b => some (encR 15 d.val a.val b.val 24)
  | .amoCas d a b => some (encR 15 d.val a.val b.val 25)
  | .amoFaddF32 d a b => some (encR 15 d.val a.val b.val 26)
  | .amoFaddBf16 d a b => some (encR 15 d.val a.val b.val 27)
  | .amoFmaxF32 d a b => some (encR 15 d.val a.val b.val 28)
  | .amoFmaxBf16 d a b => some (encR 15 d.val a.val b.val 29)
  | .cadd c a b => some (encR 15 c.val a.val b.val 32)
  | .cread d a c => some (encR 15 d.val a.val c.val 33)
  | .cwait d a b => some (encR 15 d.val a.val b.val 34)
  | .kadd d a => some (encR 15 d.val a.val 0 40)
  | .kwait a b => some (encR 15 0 a.val b.val 41)
  | .kread d a => some (encR 15 d.val a.val 0 42)
  | .klink d a b => some (encR 15 d.val a.val b.val 43)
  | .br i => some (encB 0x10 0 0 i.toNat)
  | .bp p i => some (encB 0x10 1 p.val i.toNat)
  | .bpF p i => some (encB 0x10 2 p.val i.toNat)
  | .bq i => some (encB 0x10 3 0 i.toNat)
  | .call i => some (encB 0x11 0 0 i.toNat)
  | .dbnz n i => some (0x12 * 33554432 + n.val * 524288 + i.toNat)
  | .dbnzG n i => some (0x12 * 33554432 + n.val * 524288 + 262144 + i.toNat)
  | .jr a => some (encR 19 0 a.val 0 0)
  | .ret => some (encR 19 0 0 0 1)
  | .eret => some (encR 19 0 0 0 2)
  | .taskend => some (encR 19 0 0 0 8)
  | .ovswap a => some (encR 19 0 a.val 0 9)
  | .specBegin a b => some (encR 19 0 a.val b.val 16)
  | .specCommit => some (encR 19 0 0 0 17)
  | .specAbort => some (encR 19 0 0 0 18)
  | .ubz i => some (encB 0x14 0 0 i.toNat)
  | .nest d n => some (encR 21 d.val n.val 0 0)
  | .nestR d n s => some (encR 21 d.val n.val (1 + 2 * s.val) 0)
  | .wld d a b => some (encR 24 d.val a.val b.val 0)
  | .wst d a b => some (encR 24 d.val a.val b.val 1)
  | .wset d a q => some (encR 24 d.val a.val q.val 2)
  | .wgo d => some (encR 24 d.val 0 0 3)
  | .wgoNb d p => some (encR 24 d.val p.val 0 4)
  | .wpatch d a q => some (encR 24 d.val a.val q.val 5)
  | .ringdef r f n => some (encR 25 r.val f.val n.val 0)
  | .ringdefU r => some (encR 25 r.val 0 16 0)
  | .ringpop r => some (encR 25 0 r.val 0 1)
  | .ringstat d r => some (encR 25 d.val r.val 0 2)
  | .tdef t a => some (encR 25 t.val a.val 0 3)
  | .tfeRd d t => some (encR 25 d.val t.val 0 4)
  | .tfeSet d t => some (encR 25 d.val t.val 1 4)
  | .tfeClr d t => some (encR 25 d.val t.val 2 4)
  | .rcfence a => some (encR 25 0 a.val 0 5)
  | .recld d a => some (encR 25 d.val a.val 0 6)
  | .eqstat d q => some (encR 25 d.val 0 q.val 7)
  | .eqstatC d q => some (encR 25 d.val 0 (16 + q.val) 7)
  | .ecancelRes q => some (encR 25 0 0 q.val 8)
  | .ecancelOne q => some (encR 25 0 1 q.val 8)
  | .ecancelAll q => some (encR 25 0 2 q.val 8)
  | .vld d a b t => some (encV 0x20 d.val a.val b.val t.code 0)
  | .vst d a b t => some (encV 0x20 d.val a.val b.val t.code 1)
  | .vqpop d q => some (encV 0x20 d.val q.val 0 0 2)
  | .vqpush q a => some (encV 0x20 q.val a.val 0 0 3)
  | .vmov d a t => some (encV 0x20 d.val a.val 0 t.code 4)
  | .vbcst d a t => some (encV 0x20 d.val a.val 0 t.code 5)
  | .vins d a b t => some (encV 0x20 d.val a.val b.val t.code 6)
  | .vextr d a b t => some (encV 0x20 d.val a.val b.val t.code 7)
  | .vadd d a b t => some (encV 0x21 d.val a.val b.val t.code 0)
  | .vsub d a b t => some (encV 0x21 d.val a.val b.val t.code 1)
  | .vmul d a b t => some (encV 0x21 d.val a.val b.val t.code 2)
  | .vmin d a b t => some (encV 0x21 d.val a.val b.val t.code 3)
  | .vmax d a b t => some (encV 0x21 d.val a.val b.val t.code 4)
  | .vabs d a t => some (encV 0x21 d.val a.val 0 t.code 5)
  | .vneg d a t => some (encV 0x21 d.val a.val 0 t.code 6)
  | .vfma d a b t => some (encV 0x22 d.val a.val b.val t.code 0)
  | .vfms d a b t => some (encV 0x22 d.val a.val b.val t.code 1)
  | .vwmul d a b t => some (encV 0x22 d.val a.val b.val t.code 2)
  | .vwadd d a b t => some (encV 0x22 d.val a.val b.val t.code 3)
  | .vwfma d a b t => some (encV 0x22 d.val a.val b.val t.code 4)
  | .vdot4 d a b t => some (encV 0x22 d.val a.val b.val t.code 5)
  | .vamax d a b t => some (encV 0x22 d.val a.val b.val t.code 6)
  | .vand d a b t => some (encV 0x23 d.val a.val b.val t.code 0)
  | .vor d a b t => some (encV 0x23 d.val a.val b.val t.code 1)
  | .vxor d a b t => some (encV 0x23 d.val a.val b.val t.code 2)
  | .vandn d a b t => some (encV 0x23 d.val a.val b.val t.code 3)
  | .vshl d a b t => some (encV 0x23 d.val a.val b.val t.code 4)
  | .vshr d a b t => some (encV 0x23 d.val a.val b.val t.code 5)
  | .vsra d a b t => some (encV 0x23 d.val a.val b.val t.code 6)
  | .vcmpEq d a b t => some (encV 0x24 d.val a.val b.val t.code 0)
  | .vcmpNe d a b t => some (encV 0x24 d.val a.val b.val t.code 1)
  | .vcmpLt d a b t => some (encV 0x24 d.val a.val b.val t.code 2)
  | .vcmpLe d a b t => some (encV 0x24 d.val a.val b.val t.code 3)
  | .vcmpGt d a b t => some (encV 0x24 d.val a.val b.val t.code 4)
  | .vcmpGe d a b t => some (encV 0x24 d.val a.val b.val t.code 5)
  | .vcmpUn d a b t => some (encV 0x24 d.val a.val b.val t.code 6)
  | .vsel d a b t => some (encV 0x25 d.val a.val b.val t.code 0)
  | .vperm d a b t => some (encV 0x25 d.val a.val b.val t.code 1)
  | .vzip d a b t => some (encV 0x25 d.val a.val b.val t.code 2)
  | .vunzip d a b t => some (encV 0x25 d.val a.val b.val t.code 3)
  | .vslide d a b t => some (encV 0x25 d.val a.val b.val t.code 4)
  | .vred d a o t => some (encV 0x25 d.val a.val o.val t.code 5)
  | .vscan d a o t => some (encV 0x25 d.val a.val o.val t.code 6)
  | .vlut d a t => some (encV 0x25 d.val a.val 0 t.code 7)
  | .vexp2 d a r t => some (encV 0x26 d.val a.val r.code t.code 0)
  | .vlog2 d a r t => some (encV 0x26 d.val a.val r.code t.code 1)
  | .vrcp d a r t => some (encV 0x26 d.val a.val r.code t.code 2)
  | .vrsq d a r t => some (encV 0x26 d.val a.val r.code t.code 3)
  | .vtanh d a r t => some (encV 0x26 d.val a.val r.code t.code 4)
  | .vlutld a => some (encV 0x26 0 a.val 0 0 5)
  | .vrng d => some (encV 0x26 d.val 0 0 7 6)
  | .vcvt d a q e t r => some (encV 0x27 d.val a.val ((if q then 16 else 0) + e.code) t.code r.code)
  | .vnarrow d a q e t r => some (encV 0x28 d.val a.val ((if q then 16 else 0) + e.code) t.code r.code)
  | .mpush a => some (encV 0x29 0 a.val 0 0 0)
  | .minv => some (encV 0x29 0 0 0 0 1)
  | .mpop => some (encV 0x29 0 0 0 0 2)
  | .mtop d => some (encV 0x29 d.val 0 0 0 3)
  | .attmask a b => some (encR 48 0 a.val b.val 0)
  | .attstLd n a => some (encR 48 n.val a.val 0 1)
  | .attstLdM n a => some (encR 48 (2 + n.val) a.val 0 1)
  | .attstSt n a => some (encR 48 n.val a.val 0 2)
  | .seqbind n a => some (encR 48 n.val a.val 0 3)
  | .kvappend d a b => some (encR 49 d.val a.val b.val 0)
  | .kvput d a b => some (encR 49 d.val a.val b.val 1)
  | .kvinv a b => some (encR 49 0 a.val b.val 2)
  | .xlinvPg a => some (encR 52 0 a.val 0 0)
  | .xlinvRg a b => some (encR 52 1 a.val b.val 0)
  | .xlinvAll => some (encR 52 2 0 0 0)
  | .poisonClr a => some (encR 52 0 a.val 0 1)
  | .poisonClrSp a => some (encR 52 1 a.val 0 1)
  | .pw t k v => some (encP t.val 0 k.val v.toNat)
  | .pwS t k v => some (encP t.val 1 k.val v.toNat)
  | _ => none

/-- The syllables of an instruction with stop bit `stop` on the last; the empty list for an event (R32, R39). -/
def encode (stop : Bool) (i : Instr) : List Nat :=
  let s := if stop then 2147483648 else 0
  let long (m : Nat) (d : Fin 64) (v : BitVec 32) : List Nat :=
    [encI 0x37 d.val 0 (v.toNat / 2147483648 * 4096 + m), s + v.toNat % 2147483648]
  match i with
  | .movl d v => long 0 d v
  | .movlN d v => long 1 d v
  | .movlH d v => long 2 d v
  | i => match encodeOne i with
    | some w => [s + w]
    | none => []

end Sys2Proof
end

