-- ==== Sys2Proof/Machine/Translate.lean ====
section
/-! DEFINITION. Physical addresses and homes, translation, and accesses to memory (R89, R336 to R346, R351, R352, R458). -/

namespace Sys2Proof.Machine

/-! ## Homes (R336, R458) -/

def statusBase : Nat := 0x200000000000
def cxlBase : Nat := 0x400000000000

/-- Whether the partition holds a cluster on a die. -/
def Partition.onDie (p : Partition) (d : Nat) : Bool := (List.range 6).any fun c => p.hasCluster (6 * d + c)

/-- The dies on which a partition holds a cluster, in ascending order (R458). -/
def Partition.dies (p : Partition) : List Nat := (List.range 24).filter p.onDie

/-- First granule and length of the partition's CXL pool share (R382, R458). -/
def Partition.poolBase (p : Partition) : Nat := natOfBytes ((p.desc.drop 100).take 2)
def Partition.poolSize (p : Partition) : Nat := natOfBytes ((p.desc.drop 104).take 8)
def Partition.quota (p : Partition) : Nat := natOfBytes ((p.desc.drop 96).take 2)
def Partition.hasVf (p : Partition) (v : Nat) : Bool := bitOf (natOfBytes ((p.desc.drop 80).take 16)) v
def Partition.hasGroup (p : Partition) (n : Nat) : Bool := bitOf (natOfBytes ((p.desc.drop 24).take 48)) n
def Partition.hasLane (p : Partition) (n : Nat) : Bool := bitOf (natOfBytes ((p.desc.drop 72).take 3)) n
def Partition.hasEthernet (p : Partition) (n : Nat) : Bool := bitOf (natOfBytes ((p.desc.drop 75).take 1)) n

/-- The home die of a physical address for a partition (R336, R337, R458). -/
def homeDie (p : Partition) (pa : Nat) : Nat :=
  if pa < statusBase then pa / 2 ^ 37
  else if pa < cxlBase then (pa - statusBase) / 0x200000
  else
    let j := (pa - cxlBase) / 2 ^ 30 - p.poolBase
    p.dies.getD (j % p.dies.length) 0

/-- The stack whose base die acts for an address: that of its channel group in HBM, stack 0 for CXL (R336, R458). -/
def homeStack (pa : Nat) : Nat := if pa < statusBase then pa / 2 ^ 36 % 2 else 0

/-! ## Page types and kinds of access -/

/-- What an access needs of its page (R89, R339). -/
structure Access where
  read : Bool
  write : Bool
  /-- a counter instruction: it needs a COUNTER page, and every other access must not meet one -/
  counter : Bool
  /-- whether a TENSOR page is allowed (tensor mode, raw mode) -/
  tensor : Bool
  deriving DecidableEq, Repr

def accRead : Access := ⟨true, false, false, false⟩
def accWrite : Access := ⟨false, true, false, false⟩
def accAtomic : Access := ⟨true, true, false, false⟩
def accCounterAdd : Access := ⟨false, true, true, false⟩
def accCounterRead : Access := ⟨true, false, true, false⟩

/-- R89: bits 63 to 57 equal bit 56. -/
def canonical (va : Word) : Bool := va.toNat / 2 ^ 56 = 0 || va.toNat / 2 ^ 56 = 0xFF

/-- The 57 bits of a virtual address that are translated. -/
def vaBits (va : Word) : Nat := va.toNat % 2 ^ 57

/-- Low bit of the index, and number of index bits, of a level (R338). -/
def levelShift : Nat → Nat
  | 0 => 16 | 1 => 21 | 2 => 30 | _ => 39
def levelBits : Nat → Nat
  | 0 => 5 | 1 => 9 | 2 => 9 | _ => 18
/-- Alignment of the table of a level, as a power of two (R338). -/
def tableAlign : Nat → Nat
  | 0 => 8 | 1 => 12 | 2 => 12 | _ => 21

/-- Whether a leaf may name its page (R336, R352, R458; a page of HBM lies in a channel group of the partition, log entry 6). -/
def pageAllowed (p : Partition) (n : Fin 16) (level typ pa : Nat) : Bool :=
  if pa < 0x30000000000 then typ != 3 && p.hasGroup (pa / 0x200000000)
  else if statusBase ≤ pa && pa < statusBase + 24 * 0x200000 then
    level == 0 && typ == 3 && (pa - statusBase) % 0x200000 / 0x10000 == n.val
  else if cxlBase ≤ pa && pa < 2 * cxlBase then
    let g := (pa - cxlBase) / 2 ^ 30
    typ != 3 && p.poolBase ≤ g && g < p.poolBase + p.poolSize
  else false

/-- Whether a table may lie at an address: in memory of the partition, in its channel groups or in its pool share (R336, R339). -/
def tableAllowed (p : Partition) (pa : Nat) : Bool :=
  if pa < 0x30000000000 then p.hasGroup (pa / 0x200000000)
  else
    let g := (pa - cxlBase) / 2 ^ 30
    cxlBase ≤ pa && pa < 2 * cxlBase && p.poolBase ≤ g && g < p.poolBase + p.poolSize

/-- A walk from a table of a level (R338, R339), by fuel on the levels left: the leaf's level and entry, or the cause. -/
def walk (m : Module) (p : Partition) (n : Fin 16) (va : Nat) : Nat → Nat → Nat → Except Nat (Nat × Nat)
  | 0, _, _ => .error 0x11
  | fuel + 1, level, table =>
    let at_ := table + 8 * (va / 2 ^ levelShift level % 2 ^ levelBits level)
    if poisonedIn m.poison at_ 8 then .error 0x30
    else
      let e := m.mem.nat at_ 8
      let leaf := bitOf e 1
      let addr := bitsOf e 8 39 * 2 ^ 8
      let typ := bitsOf e 6 2
      if !bitOf e 0 then .error 0x10
      else if bitsOf e 47 17 != 0 || bitsOf e 2 2 != 0 || (leaf && level = 3) || (!leaf && level = 0) then .error 0x11
      else if leaf then
        if addr % 2 ^ levelShift level != 0 || !pageAllowed p n level typ addr then .error 0x11 else .ok (level, e)
      else if typ != 0 || addr % 2 ^ tableAlign (level - 1) != 0 || !tableAllowed p addr then .error 0x11
      else walk m p n va fuel (level - 1) addr

/-- Whether a cached translation is one of a holder's, and covers an address of a partition. -/
def Translation.covers (t : Translation) (die : Fin 24) (core : Option Nat) (n : Fin 16) (va : Nat) : Bool :=
  t.die = die && t.core = core && t.part = n && t.page = va / 2 ^ levelShift t.level

/-- The cached translation of an address: that of the core's TLB, else that of the die's translation cache (R340). -/
def cachedEntry (m : Module) (die : Fin 24) (core : Option Nat) (n : Fin 16) (va : Nat) : Option (Nat × Nat) :=
  ((m.tlb.find? (·.covers die core n va)).or (m.tlb.find? (·.covers die none n va))).map fun t => (t.level, t.entry)

/-- The leaf used for an address: a cached translation, else a walk. -/
def leafOf (m : Module) (die : Fin 24) (core : Option Nat) (n : Fin 16) (va : Nat) : Except Nat (Nat × Nat) :=
  match cachedEntry m die core n va with
  | some e => .ok e
  | none => walk m m.parts[n] n va 4 3 m.parts[n].proot.toNat

/-- A translated access: physical address, page type, home die. -/
structure Place where
  pa : Nat
  typ : Nat
  home : Nat
  deriving DecidableEq, Repr, Inhabited

/-- The checks of R89 on one access of n bytes, in the order of R263: canonical form, alignment, translation by the leaf that a
lookup gives, protection and page type, attribute. The error is the cause code. -/
def checkLeaf (p : Partition) (a : Access) (va : Word) (size : Nat) (leaf : Nat → Except Nat (Nat × Nat)) : Except Nat Place :=
  if !canonical va then .error 0x11
  else if va.toNat % size != 0 then .error 0x12
  else match leaf (vaBits va) with
    | .error c => .error c
    | .ok (level, e) =>
      let typ := bitsOf e 6 2
      if (a.read && !bitOf e 4) || (a.write && !bitOf e 5) || ((typ == 2) != a.counter) then .error 0x11
      else if typ == 1 && !a.tensor then .error 0x13
      else
        let pa := bitsOf e 8 39 * 2 ^ 8 + vaBits va % 2 ^ levelShift level
        .ok ⟨pa, typ, homeDie p pa⟩

/-- An access of a die's cores, engines or controllers: a core's and its engines' go through its TLB. -/
def checkAccess (m : Module) (die : Fin 24) (core : Option Nat) (n : Fin 16) (a : Access) (va : Word) (size : Nat) : Except Nat Place :=
  checkLeaf m.parts[n] a va size (leafOf m die core n)

/-- An access of the host (R378 to R380): it translates through the partition's tables, and no translation of it is kept. -/
def checkHost (m : Module) (n : Fin 16) (a : Access) (va : Word) (size : Nat) : Except Nat Place :=
  checkLeaf m.parts[n] a va size fun v => walk m m.parts[n] n v 4 3 m.parts[n].proot.toNat

/-! ## Translation caches, L2 and RDC -/

/-- Entries of a core's TLB, and of a die's translation cache (R340). -/
def tlbSize (core : Option Nat) : Nat := if core.isSome then 256 else 2048

/-- Puts a translation into its holder's cache; the oldest one leaves a full cache (log entry 21). -/
def Module.keepTranslation (m : Module) (t : Translation) : Module :=
  let mine (u : Translation) : Bool := u.die = t.die && u.core = t.core
  let tlb := if (m.tlb.filter mine).length < tlbSize t.core then m.tlb else m.tlb.eraseP mine
  { m with tlb := tlb ++ [t] }

/-- The translation of an address is kept in the core's TLB and in the die's translation cache (R340). -/
def noteLeaf (m : Module) (die : Fin 24) (core : Option Nat) (n : Fin 16) (va : Nat) : Module :=
  if m.tlb.any (·.covers die core n va) then m
  else match leafOf m die core n va with
    | .ok (level, e) =>
      let t : Translation := ⟨die, none, n, level, va / 2 ^ levelShift level, e⟩
      let m := if m.tlb.any (·.covers die none n va) then m else m.keepTranslation t
      if core.isSome then m.keepTranslation { t with core := core } else m
    | .error _ => m

/-- Lines of an RDC (R1, R346). -/
def rdcSize : Nat := 524288

def RdcLine.is (r : RdcLine) (die : Fin 24) (n : Fin 16) (id coord : Nat) : Bool :=
  r.die = die && r.part = n && r.id = id && r.coord = coord

/-- A line read from its home on another die: it comes to the front of the die's RDC, under a new lease if it was not there or its
lease has run out; the one used longest ago leaves a full RDC (R346). -/
def Module.rdcRead (m : Module) (v : RdcLine) : Module :=
  let same (r : RdcLine) : Bool := r.is v.die v.part v.id v.coord
  let live := (m.rdc.find? fun r => same r && v.granted < r.granted + 2048).getD v
  if m.rdc.head? = some live then m
  else
    let rest := m.rdc.filter fun r => !same r
    let last (r : RdcLine) : Bool := r.die = v.die
    let rest := if (rest.filter last).length < rdcSize then rest else (rest.reverse.eraseP last).reverse
    { m with rdc := live :: rest }

/-- The die's own copy of a line goes when the die writes it (R346). -/
def Module.rdcDrop (m : Module) (die : Fin 24) (n : Fin 16) (id coord : Nat) : Module :=
  { m with rdc := m.rdc.filter fun r => !r.is die n id coord }

def L2Line.tagged (l : L2Line) (n : Fin 16) (id coord : Nat) : Bool := l.part = n && l.id = id && l.coord = coord

/-- The lines that a partition's slices on a die hold: 1 MiB in each of the 32 slices of a cluster (R1, R337). -/
def Partition.l2Size (p : Partition) (die : Nat) : Nat :=
  262144 * ((List.range 6).filter fun c => p.hasCluster (6 * die + c)).length

/-- Notes that the L2s do not hold a line, by its owner and tag, until an access uses it again. -/
def Module.noteGone (m : Module) (t : Fin 16 × Nat × Nat) : Module := if m.gone.contains t then m else { m with gone := t :: m.gone }

/-- A line leaves its L2: a dirty tagged line is written to memory; of a dirty flat one memory shows the data already. -/
def Module.evict (m : Module) (l : L2Line) : Module :=
  let m := Module.noteGone { m with l2 := m.l2.filter fun x => !x.tagged l.part l.id l.coord } (l.part, l.id, l.coord)
  if l.dirty && l.id != 0 then
    { m with
      mem := m.mem.write (128 * l.line) l.data
      poison := if l.poison then insertNat l.line m.poison else m.poison.filter (· != l.line) }
  else m

/-- Puts a line in front of the L2 lines. Where it is new and the partition's slices on its die are full, the line used longest ago
that is not pinned leaves first (log entry 22). -/
def setLine (m : Module) (v : L2Line) : Module :=
  let rest := m.l2.filter fun l => !l.tagged v.part v.id v.coord
  let mine (l : L2Line) : Bool := l.part = v.part && l.home = v.home
  let m := if rest.length < m.l2.length || (rest.filter mine).length < m.parts[v.part].l2Size v.home then m
    else match (rest.filter fun l => mine l && !l.pinned).getLast? with
      | some l => m.evict l
      | none => m
  { m with
    l2 := v :: m.l2.filter fun l => !l.tagged v.part v.id v.coord
    gone := m.gone.filter (· != (v.part, v.id, v.coord)) }

/-- The flat lines of a run of bytes become dirty in their home L2; each keeps what memory held beneath it (R345). -/
def dirtyFlat (m : Module) (n : Fin 16) (pa len : Nat) : Module :=
  (linesOf pa len).foldl (fun m l =>
    let fresh : L2Line := ⟨n, 0, l, l, homeDie m.parts[n] (128 * l), m.mem.read (128 * l) 128, true, false, m.poison.contains l⟩
    match m.l2.find? (·.tagged n 0 l) with
    | none => setLine m fresh
    | some x => if x.dirty then m else setLine m { fresh with pinned := x.pinned }) m

/-- A flat line comes into its home L2 (R303, R348). -/
def warmFlat (m : Module) (n : Fin 16) (line : Nat) : Module :=
  setLine m ((m.l2.find? (·.tagged n 0 line)).getD ⟨n, 0, line, line, homeDie m.parts[n] (128 * line), [], false, false, false⟩)

/-- The L2s write back their flat copies of a run's lines of a partition and drop them, before the base die acts on the lines (R351). -/
def dropFlat (m : Module) (n : Fin 16) (pa len : Nat) : Module :=
  let m := { m with l2 := m.l2.filter fun l => !(l.id = 0 && (linesOf pa len).contains l.line) }
  (linesOf pa len).foldl (fun m l => m.noteGone (n, 0, l)) m

/-- Notes an access to a line under a tag in the caches: its translation (R340), the RDC of a die that is not its home (R346), and
that the home L2 has had the line. -/
def noteTagged (m : Module) (die : Fin 24) (core : Option Nat) (n : Fin 16) (va : Word) (pl : Place) (id coord : Nat) (read : Bool)
    (now : Nat) : Module :=
  let m := noteLeaf m die core n (vaBits va)
  if 2 ≤ pl.typ then m
  else
    let m := { m with gone := m.gone.filter (· != (n, id, coord)) }
    if pl.home = die.val then m
    else if read then m.rdcRead ⟨die, n, id, coord, pl.pa / 128, now⟩
    else m.rdcDrop die n id coord

/-- Notes an access under the flat tag. -/
def noteAccess (m : Module) (die : Fin 24) (core : Option Nat) (n : Fin 16) (va : Word) (pl : Place) (read : Bool) (now : Nat) : Module :=
  noteTagged m die core n va pl 0 (pl.pa / 128) read now

/-! ## Physical accesses -/

/-- The status word of a die and partition in memory (R352). -/
def statusIndex (d : Nat) (n : Nat) : Fin 384 := Fin.ofNat 384 (16 * d + n)

/-- Reads bytes at a physical address: ordinary memory, or a memory-side status page whose word 0 is the status word. -/
def physRead (m : Module) (pa n : Nat) : List Byte :=
  if statusBase ≤ pa && pa < cxlBase then
    let o := pa - statusBase
    let w := bytesOfNat 8 (if o % 0x10000 < 8 then m.status[statusIndex (o / 0x200000) (o % 0x200000 / 0x10000)].toNat else 0)
    if o % 0x10000 < 8 then (w.drop (o % 8)).take n else List.replicate n 0
  else m.mem.read pa n

/-- Writes bytes at a physical address. A partial write of a poisoned line is discarded and leaves it poisoned (R359). -/
def physWrite (m : Module) (pa : Nat) (bs : List Byte) : Module :=
  if statusBase ≤ pa && pa < cxlBase then
    let o := pa - statusBase
    if o % 0x10000 < 8 then
      let i := statusIndex (o / 0x200000) (o % 0x200000 / 0x10000)
      let old := bytesOfNat 8 m.status[i].toNat
      let new := old.take (o % 8) ++ bs ++ old.drop (o % 8 + bs.length)
      { m with status := m.status.set i (BitVec.ofNat 7 (natOfBytes new)) }
    else m
  else
    let p := clearPoison m.poison pa bs.length
    if poisonedIn p pa bs.length then
      -- line by line: the lines wholly written take their data, the poisoned ones keep theirs
      let mem := (linesOf pa bs.length).foldl (fun (mm : Memory) l =>
        if p.contains l then mm
        else
          let lo := max pa (128 * l)
          let hi := min (pa + bs.length) (128 * l + 128)
          mm.write lo ((bs.drop (lo - pa)).take (hi - lo))) m.mem
      { m with mem := mem, poison := p }
    else { m with mem := m.mem.write pa bs, poison := p }

/-- The status words after a store: the flags raised in its cycle are ORed in after it (R352). -/
def reraise (m : Module) : Module :=
  { m with status := m.raised.foldl (fun (v : Vector (BitVec 7) 384) r => v.set r.1 (v[r.1] ||| r.2)) m.status }

/-- A write of a partition's line: its home L2 takes the bytes and is dirty (R345); the status pages are memory-side (R351). -/
def l2Write (m : Module) (n : Fin 16) (pa : Nat) (bs : List Byte) : Module :=
  if statusBase ≤ pa && pa < cxlBase then reraise (physWrite m pa bs) else physWrite (dirtyFlat m n pa bs.length) pa bs

/-- A write at the home base die: the L2s no longer hold the lines (R351). -/
def baseWrite (m : Module) (n : Fin 16) (pa : Nat) (bs : List Byte) : Module :=
  physWrite (if statusBase ≤ pa && pa < cxlBase then m else dropFlat m n pa bs.length) pa bs

/-- ORs bits into a memory-side status word (R352). -/
def orStatus (m : Module) (pl_home : Nat) (n : Fin 16) (bits : BitVec 7) : Module :=
  let i := statusIndex pl_home n.val
  { m with status := m.status.set i (m.status[i] ||| bits), raised := (i, bits) :: m.raised }

/-! ## Accesses of the focus -/

/-- The TLB that the focus uses: its core's, by number in the die; the controller has none of its own (R340). -/
def State.tlbOf (s : State) : Option Nat := if s.who = .c then none else some (8 * s.core.cluster.val + s.core.number.val)

/-- The checked place of an access of the focus; without a partition nothing translates. -/
def State.place (s : State) (a : Access) (va : Word) (size : Nat) : Except Nat Place :=
  match s.part with
  | none => .error 0x10
  | some n => checkAccess s.mod s.die s.tlbOf n a va size

/-- The ways of the core's local store that cache lines now: W to 13, and a shadow way whose strand does not speculate (R166). -/
def Core.cacheWays (k : Core) : List Nat :=
  (List.range 16).filter fun w => k.ways ≤ w && !(w = 14 && k.a.spec) && !(w = 15 && k.x.spec)

/-- A line read from memory comes into the local store: into a free way of its set, else into the one used longest ago; without a way
it is not kept (R169). The list has the last one used in front. -/
def Core.cacheLine (k : Core) (line : Nat) : Core :=
  if (k.cache.head?.map (·.2)) = some line then k
  else
    let held := k.cache.filter fun e => e.2 % 2048 = line % 2048
    let free := k.cacheWays.find? fun w => held.all (·.1 != w)
    match (held.find? (·.2 = line)).or ((free.map fun w => (w, line)).or held.getLast?) with
    | none => k
    | some e => { k with cache := (e.1, line) :: k.cache.filter fun x => !(x.1 = e.1 && x.2 % 2048 = line % 2048) }

/-- The core's local store after an access: a line that a strand or engine of it reads from a FLAT or TENSOR page is kept; a store to
memory leaves the cached lines as they are, with their new data (R169). -/
def State.keepLine (s : State) (pl : Place) (read : Bool) : State :=
  if read && pl.typ < 2 && s.who != .c then { s with core := s.core.cacheLine (pl.pa / 128) } else s

/-- Notes an access of the focus in the caches. -/
def State.note (s : State) (va : Word) (pl : Place) (read : Bool) : State :=
  match s.part with
  | none => s
  | some n => State.keepLine { s with mod := noteAccess s.mod s.die s.tlbOf n va pl read s.cycle } pl read

/-- Notes an access of the focus under a tensor's tag. -/
def State.noteTag (s : State) (va : Word) (pl : Place) (id coord : Nat) (read : Bool) : State :=
  match s.part with
  | none => s
  | some n => State.keepLine { s with mod := noteTagged s.mod s.die s.tlbOf n va pl id coord read s.cycle } pl read

/-- Reads memory: the bytes and whether a line of them is poisoned. -/
def State.load (s : State) (pl : Place) (n : Nat) : List Byte × Bool := (physRead s.mod pl.pa n, poisonedIn s.mod.poison pl.pa n)

/-- Writes memory. -/
def State.store (s : State) (pa : Nat) (bs : List Byte) : State := { s with mod := l2Write s.mod (s.part.getD 0) pa bs }

end Sys2Proof.Machine
end

