-- ==== Sys2Proof/Machine/Operands.lean ====
section
/-! DEFINITION. Operands: the slot an instruction takes, the strands it is legal on, the operand values a strand refuses, and
the resources it reads and writes (R35 to R40, R45 to R51, R72); effective addresses; images and patches (R57 to R59). -/

namespace Sys2Proof.Machine

/-! ## Slots, strands and privilege -/

inductive Slot where
  | s | m | v | e
  deriving DecidableEq, Repr, Inhabited

/-- What kind of unit an instruction needs. -/
inductive Group where
  /-- misc, scalar ALU, long immediates, local counters, branches, `JR`, `RET`, `ERET` -/
  | scalar
  /-- control transfers -/
  | control
  /-- `TASKEND` (not on the controller, R289) -/
  | taskEnd
  /-- `OVSWAP`, and the speculation forms (A, X) -/
  | swap | spec
  /-- `BQ` (A, X) -/
  | branchQueue
  /-- `UBZ` (X), `NEST` (X, T) -/
  | ubz | nest
  /-- `LDSP`, `STSP` -/
  | scratch
  /-- memory, atomics, memory counters, `LDQ`, `STQ` (A) -/
  | memory | queueMemory
  /-- `QPUSH`, `QPOP`, `BQPUSH` (A, X) -/
  | queue
  /-- `WLD`, `WST`, `WSET` (A, X, T); issues and patch words (A, X) -/
  | template | wideIssue
  /-- major 0x19 (A, X) -/
  | ring | cancel
  /-- vector majors (X, T), the queue forms and the mask stack (X) -/
  | vector | vectorQueue | mask
  /-- majors 0x30 (X), 0x31 (A), 0x34 (A) -/
  | attention | madder | privileged
  deriving DecidableEq, Repr, Inhabited

def groupOf : Instr → Group
  | .br _ | .bp _ _ | .bpF _ _ | .call _ | .dbnz _ _ | .dbnzG _ _ | .jr _ | .ret | .eret => .control
  | .taskend => .taskEnd
  | .ovswap _ => .swap
  | .specBegin _ _ | .specCommit | .specAbort => .spec
  | .bq _ => .branchQueue
  | .ubz _ => .ubz
  | .nest _ _ | .nestR _ _ _ => .nest
  | .ldsp _ _ _ | .stsp _ _ _ => .scratch
  | .ld64 _ _ _ | .ldN32 _ _ _ | .ldI32 _ _ _ | .st64 _ _ _ | .st32 _ _ _ | .ldN8 _ _ _ | .ldI8 _ _ _ | .ldN16 _ _ _
  | .ldI16 _ _ _ | .st8 _ _ _ | .st16 _ _ _ | .amoAdd _ _ _ | .amoMinI64 _ _ _ | .amoMinN64 _ _ _ | .amoMaxI64 _ _ _
  | .amoMaxN64 _ _ _ | .amoAnd _ _ _ | .amoOr _ _ _ | .amoXor _ _ _ | .amoXchg _ _ _ | .amoCas _ _ _ | .amoFaddF32 _ _ _
  | .amoFaddBf16 _ _ _ | .amoFmaxF32 _ _ _ | .amoFmaxBf16 _ _ _ | .cadd _ _ _ | .cread _ _ _ | .cwait _ _ _ => .memory
  | .ldq _ _ _ | .stq _ _ _ => .queueMemory
  | .qpush _ _ | .qpop _ _ | .bqpush _ => .queue
  | .wld _ _ _ | .wst _ _ _ | .wset _ _ _ => .template
  | .wgo _ | .wgoNb _ _ | .wpatch _ _ _ | .pw _ _ _ | .pwS _ _ _ => .wideIssue
  | .ringdef _ _ _ | .ringdefU _ | .ringpop _ | .ringstat _ _ | .tdef _ _ | .tfeRd _ _ | .tfeSet _ _ | .tfeClr _ _
  | .rcfence _ | .recld _ _ | .eqstat _ _ | .eqstatC _ _ => .ring
  | .ecancelRes _ | .ecancelOne _ | .ecancelAll _ => .cancel
  | .vqpop _ _ | .vqpush _ _ => .vectorQueue
  | .mpush _ | .minv | .mpop | .mtop _ => .mask
  | .attmask _ _ | .attstLd _ _ | .attstLdM _ _ | .attstSt _ _ | .seqbind _ _ => .attention
  | .kvappend _ _ _ | .kvput _ _ _ | .kvinv _ _ => .madder
  | .xlinvPg _ | .xlinvRg _ _ | .xlinvAll | .poisonClr _ | .poisonClrSp _ => .privileged
  | .vld _ _ _ _ | .vst _ _ _ _ | .vmov _ _ _ | .vbcst _ _ _ | .vins _ _ _ _ | .vextr _ _ _ _ | .vadd _ _ _ _ | .vsub _ _ _ _
  | .vmul _ _ _ _ | .vmin _ _ _ _ | .vmax _ _ _ _ | .vabs _ _ _ | .vneg _ _ _ | .vfma _ _ _ _ | .vfms _ _ _ _ | .vwmul _ _ _ _
  | .vwadd _ _ _ _ | .vwfma _ _ _ _ | .vdot4 _ _ _ _ | .vamax _ _ _ _ | .vand _ _ _ _ | .vor _ _ _ _ | .vxor _ _ _ _
  | .vandn _ _ _ _ | .vshl _ _ _ _ | .vshr _ _ _ _ | .vsra _ _ _ _ | .vcmpEq _ _ _ _ | .vcmpNe _ _ _ _ | .vcmpLt _ _ _ _
  | .vcmpLe _ _ _ _ | .vcmpGt _ _ _ _ | .vcmpGe _ _ _ _ | .vcmpUn _ _ _ _ | .vsel _ _ _ _ | .vperm _ _ _ _ | .vzip _ _ _ _
  | .vunzip _ _ _ _ | .vslide _ _ _ _ | .vred _ _ _ _ | .vscan _ _ _ _ | .vlut _ _ _ | .vexp2 _ _ _ _ | .vlog2 _ _ _ _
  | .vrcp _ _ _ _ | .vrsq _ _ _ _ | .vtanh _ _ _ _ | .vlutld _ | .vrng _ | .vcvt _ _ _ _ _ _ | .vnarrow _ _ _ _ _ _ => .vector
  | _ => .scalar

/-- The strands an instruction is legal on (R45 to R51, R127, R289). `ECANCEL` of the controller's own queue follows R323
and R327 (log entry 7). -/
def strandOk (w : Who) (i : Instr) : Bool :=
  match groupOf i, w with
  | .scalar, _ | .control, _ | .scratch, _ | .template, _ => true
  | .taskEnd, .c => false
  | .taskEnd, _ => true
  | .swap, .a | .swap, .x => true
  | .spec, .a | .spec, .x | .spec, .c => true
  | .branchQueue, .a | .branchQueue, .x => true
  | .ubz, .x => true
  | .nest, .x | .nest, .t _ => true
  | .memory, .a | .memory, .c | .queueMemory, .a => true
  | .queue, .a | .queue, .x => true
  | .wideIssue, .a | .wideIssue, .x | .wideIssue, .c => true
  | .ring, .a | .ring, .x => true
  | .cancel, .a | .cancel, .x | .cancel, .c => true
  | .vector, .x | .vector, .t _ => true
  | .vectorQueue, .x | .mask, .x => true
  | .attention, .x => true
  | .madder, .a => true
  | .privileged, .a | .privileged, .c => true
  | _, _ => false

/-- Privileged forms (R70): major 0x34, privileged system registers, a write of a "user read" one, and `ERET` (R86). -/
def needsPrivilege : Instr → Bool
  | .xlinvPg _ | .xlinvRg _ _ | .xlinvAll | .poisonClr _ | .poisonClrSp _ | .eret => true
  | .rdsr _ n => sysRegPrivileged n.val
  | .wrsr n _ => sysRegPrivileged n.val || n.val == 0
  | _ => false

/-- The slot kind (R35). -/
def slotOf (w : Who) (i : Instr) : Slot :=
  let local_ : Bool := match i with
    | .kadd _ _ | .kwait _ _ | .kread _ _ | .klink _ _ _ => true
    | _ => false
  match w, groupOf i with
  | .t _, .vector => .v
  | .t _, _ => .s
  | .x, .vector | .x, .vectorQueue | .x, .mask => .v
  | .x, .queue => .s
  | .x, .scalar => .s
  | .x, _ => .e
  | _, .scalar | _, .control | _, .taskEnd | _, .swap | _, .spec | _, .branchQueue => .s
  | _, _ => if local_ then .s else .m

/-- How many slots of a kind a strand has (R35). -/
def slotCount (w : Who) (k : Slot) : Nat :=
  match w, k with
  | .x, .v => 2
  | .x, .s | .x, .e => 1
  | .t _, .v | .t _, .s => 1
  | .a, .s | .a, .m | .c, .s | .c, .m => 1
  | _, _ => 0

/-- Control transfers (R37). -/
def isControl (i : Instr) : Bool :=
  match groupOf i with
  | .control | .taskEnd | .swap | .branchQueue | .ubz => true
  | _ => false

/-! ## Resources (R36) -/

inductive Res where
  | x (n : Nat) | v (n : Nat) | p (n : Nat) | w (n : Nat) | k (n : Nat) | sys (n : Nat) | push (q : Nat) | pop (q : Nat) | mask
  deriving DecidableEq, Repr, Inhabited

/-- Consecutive vector registers of a group. -/
def vregs (r : Fin 64) (g : Nat) : List Res := (List.range g).map fun j => .v (r.val + j)

/-- Scalars and vectors that an instruction reads, and the other resources, by R36. -/
def readsOf : Instr → List Res
  | .wrsr _ a | .fenceE a | .addi _ a _ | .bfxN64 _ a _ _ | .bfxI64 _ a _ _ | .abs _ a | .clz _ a | .ctz _ a | .popc _ a
  | .shlImm _ a _ | .shrImm _ a _ | .sraImm _ a _ | .rotImm _ a _ | .ld64 _ a _ | .ldN32 _ a _ | .ldI32 _ a _ | .ldsp _ a _
  | .qpush _ a | .cread _ a _ | .kadd _ a | .jr a | .ovswap a | .wset _ a _ | .tdef _ a | .rcfence a | .recld _ a
  | .attstLd _ a | .attstLdM _ a | .attstSt _ a | .seqbind _ a | .xlinvPg a | .poisonClr a | .poisonClrSp a =>
    [.x a.val]
  | .rdsr _ n => [.sys n.val]
  | .add _ a b | .sub _ a b | .mul _ a b | .mulhI64 _ a b | .mulhN64 _ a b | .divI64 _ a b | .divN64 _ a b | .remI64 _ a b
  | .remN64 _ a b | .minI64 _ a b | .minN64 _ a b | .maxI64 _ a b | .maxN64 _ a b | .and _ a b | .or _ a b | .xor _ a b
  | .andn _ a b | .shl _ a b | .shr _ a b | .sra _ a b | .rot _ a b | .lea _ a b _ | .fsh _ a b _ | .cmpEq _ a b | .cmpNe _ a b
  | .cmpLt _ a b | .cmpGe _ a b | .cmpLtu _ a b | .cmpGeu _ a b | .ldN8 _ a b | .ldI8 _ a b | .ldN16 _ a b | .ldI16 _ a b
  | .ldq _ a b | .amoAdd _ a b | .amoMinI64 _ a b | .amoMinN64 _ a b | .amoMaxI64 _ a b | .amoMaxN64 _ a b | .amoAnd _ a b
  | .amoOr _ a b | .amoXor _ a b | .amoXchg _ a b | .amoFaddF32 _ a b | .amoFaddBf16 _ a b | .amoFmaxF32 _ a b
  | .amoFmaxBf16 _ a b | .cadd _ a b | .specBegin a b | .wld _ a b | .attmask a b | .kvappend _ a b | .kvput _ a b | .kvinv a b
  | .xlinvRg a b => [.x a.val, .x b.val]
  | .stq q a b => [.x a.val, .x b.val, .pop q.val]
  | .cwait d a b => [.w d.val, .x a.val, .x b.val]
  | .wst d a b => [.w d.val, .x a.val, .x b.val]
  | .sel _ a b k => [.x a.val, .x b.val, .p k.val]
  | .bfi d a _ _ => [.x d.val, .x a.val]
  | .movlH d _ => [.x d.val]
  | .pand _ a b | .por _ a b | .pxor _ a b => [.p a.val, .p b.val]
  | .pnot _ a => [.p a.val]
  | .st64 d a _ | .st32 d a _ | .stsp d a _ => [.x d.val, .x a.val]
  | .st8 d a b | .st16 d a b | .amoCas d a b => [.x d.val, .x a.val, .x b.val]
  | .bqpush p => [.p p.val]
  | .kwait a b => [.k a.val, .x b.val]
  | .kread _ a => [.k a.val]
  | .klink _ _ b => [.x b.val]
  | .bp p _ | .bpF p _ => [.p p.val]
  | .ret => [.x 63]
  | .dbnz n _ | .dbnzG n _ => [.x n.val]
  | .ubz _ => [.mask]
  | .nest d _ | .nestR d _ _ => [.w d.val, .w (d.val + 1)]
  | .wgo d | .wgoNb d _ => [.w d.val]
  | .wpatch d a _ => [.w d.val, .x a.val]
  | .pw t _ _ | .pwS t _ _ => [.w t.val]
  | .vbcst _ a _ => [.x a.val, .mask]
  | .vld _ a b _ => [.x a.val, .x b.val, .mask]
  | .vst d a b _ => [.v d.val, .x a.val, .x b.val, .mask]
  | .vqpop _ _ => [.mask]
  | .vqpush _ a => [.v a.val, .mask]
  | .vins _ a b _ => [.x a.val, .x b.val, .mask]
  | .vextr _ a b _ => [.v a.val, .x b.val, .mask]
  | .vmov _ a _ | .vabs _ a _ | .vneg _ a _ | .vred _ a _ _ | .vscan _ a _ _ | .vlut _ a _ | .vexp2 _ a _ _ | .vlog2 _ a _ _
  | .vrcp _ a _ _ | .vrsq _ a _ _ | .vtanh _ a _ _ | .vlutld a => [.v a.val, .mask]
  | .vadd _ a b _ | .vsub _ a b _ | .vmul _ a b _ | .vmin _ a b _ | .vmax _ a b _ | .vwmul _ a b _ | .vwadd _ a b _
  | .vamax _ a b _ | .vand _ a b _ | .vor _ a b _ | .vxor _ a b _ | .vandn _ a b _ | .vshl _ a b _ | .vshr _ a b _
  | .vsra _ a b _ | .vcmpEq _ a b _ | .vcmpNe _ a b _ | .vcmpLt _ a b _ | .vcmpLe _ a b _ | .vcmpGt _ a b _ | .vcmpGe _ a b _
  | .vcmpUn _ a b _ | .vperm _ a b _ | .vzip _ a b _ | .vunzip _ a b _ | .vslide _ a b _ => [.v a.val, .v b.val, .mask]
  | .vfma d a b _ | .vfms d a b _ | .vdot4 d a b _ | .vsel d a b _ => [.v d.val, .v a.val, .v b.val, .mask]
  | .vwfma d a b _ => vregs d 2 ++ [.v a.val, .v b.val, .mask]
  | .vrng _ => [.x 62, .mask]
  | .vcvt _ a _ _ _ r => [.v a.val, .mask] ++ (if r = .sr then [.x 62] else [])
  | .vnarrow _ a _ e t r => vregs a (convRatio e t) ++ [.mask] ++ (if r = .sr then [.x 62] else [])
  | .mpush a => [.v a.val]
  | _ => []

/-- What an instruction writes, by R36. -/
def writesOf : Instr → List Res
  | .rdcyc d | .rdwid d _ | .rdsr d _ | .add d _ _ | .sub d _ _ | .mul d _ _ | .mulhI64 d _ _ | .mulhN64 d _ _ | .divI64 d _ _
  | .divN64 d _ _ | .remI64 d _ _ | .remN64 d _ _ | .minI64 d _ _ | .minN64 d _ _ | .maxI64 d _ _ | .maxN64 d _ _ | .abs d _
  | .and d _ _ | .or d _ _ | .xor d _ _ | .andn d _ _ | .shl d _ _ | .shr d _ _ | .sra d _ _ | .rot d _ _ | .clz d _ | .ctz d _
  | .popc d _ | .shlImm d _ _ | .shrImm d _ _ | .sraImm d _ _ | .rotImm d _ _ | .sel d _ _ _ | .lea d _ _ _ | .addi d _ _
  | .movi d _ | .fsh d _ _ _ | .bfxN64 d _ _ _ | .bfxI64 d _ _ _ | .bfi d _ _ _ | .ld64 d _ _ | .ldN32 d _ _ | .ldI32 d _ _
  | .ldsp d _ _ | .ldN8 d _ _ | .ldI8 d _ _ | .ldN16 d _ _ | .ldI16 d _ _ | .amoAdd d _ _ | .amoMinI64 d _ _ | .amoMinN64 d _ _
  | .amoMaxI64 d _ _ | .amoMaxN64 d _ _ | .amoAnd d _ _ | .amoOr d _ _ | .amoXor d _ _ | .amoXchg d _ _ | .amoCas d _ _
  | .amoFaddF32 d _ _ | .amoFaddBf16 d _ _ | .amoFmaxF32 d _ _ | .amoFmaxBf16 d _ _ | .cread d _ _ | .kread d _ | .dbnz d _
  | .dbnzG d _ | .ringstat d _ | .tfeRd d _ | .tfeSet d _ | .tfeClr d _ | .recld d _ | .eqstat d _ | .eqstatC d _
  | .vextr d _ _ _ | .kvappend d _ _ | .kvput d _ _ | .movl d _ | .movlN d _ | .movlH d _ => [.x d.val]
  | .wrsr n _ => [.sys n.val]
  | .cmpEq d _ _ | .cmpNe d _ _ | .cmpLt d _ _ | .cmpGe d _ _ | .cmpLtu d _ _ | .cmpGeu d _ _ | .pand d _ _ | .por d _ _
  | .pxor d _ _ | .pnot d _ => [.p d.val]
  | .wgoNb _ p => [.p p.val]
  | .qpop d q => [.x d.val, .pop q.val]
  | .qpush q _ | .ldq q _ _ | .vqpush q _ => [.push q.val]
  | .stq q _ _ => [.pop q.val]
  | .vqpop d q => [.v d.val, .pop q.val]
  | .kadd d _ | .klink d _ _ => [.k d.val]
  | .call _ => [.x 63]
  | .wld d _ _ | .wset d _ _ => [.w d.val]
  | .pwS t _ _ => [.w t.val]
  | .vld d _ _ _ | .vmov d _ _ | .vbcst d _ _ | .vins d _ _ _ | .vadd d _ _ _ | .vsub d _ _ _ | .vmul d _ _ _ | .vmin d _ _ _
  | .vmax d _ _ _ | .vabs d _ _ | .vneg d _ _ | .vfma d _ _ _ | .vfms d _ _ _ | .vdot4 d _ _ _ | .vamax d _ _ _ | .vand d _ _ _
  | .vor d _ _ _ | .vxor d _ _ _ | .vandn d _ _ _ | .vshl d _ _ _ | .vshr d _ _ _ | .vsra d _ _ _ | .vcmpEq d _ _ _
  | .vcmpNe d _ _ _ | .vcmpLt d _ _ _ | .vcmpLe d _ _ _ | .vcmpGt d _ _ _ | .vcmpGe d _ _ _ | .vcmpUn d _ _ _ | .vsel d _ _ _
  | .vperm d _ _ _ | .vslide d _ _ _ | .vred d _ _ _ | .vscan d _ _ _ | .vexp2 d _ _ _ | .vlog2 d _ _ _ | .vrcp d _ _ _
  | .vrsq d _ _ _ | .vtanh d _ _ _ | .vrng d | .vnarrow d _ _ _ _ _ => [.v d.val]
  | .mtop d => [.v d.val, .mask]
  | .vwmul d _ _ _ | .vwadd d _ _ _ | .vwfma d _ _ _ | .vzip d _ _ _ | .vunzip d _ _ _ => vregs d 2
  | .vlut d _ t => vregs d (if t.width = 4 then 4 else 2)
  | .vcvt d _ _ e t _ => vregs d (convRatio t e)
  | .mpush _ | .minv | .mpop => [.mask]
  | _ => []

/-- The resources an instruction depends on, without x0 (R36). The mask stack's reads count on X only. -/
def realRes (w : Who) (rs : List Res) : List Res := rs.filter fun r => r != .x 0 && (w = .x || r != .mask)

/-! ## Operand values a strand refuses (R38 step 2: R40, R72, R221) -/

/-- The engines a strand may issue (R56, R67). -/
def engineOk (w : Who) (e : Nat) : Bool :=
  match w with
  | .a => e == 1 || e == 4 || e == 5 || e == 6
  | .x => e == 0 || e == 2 || e == 3
  | .c => e == 7
  | .t _ => false

/-- The queues a strand issues to (R190, R292). -/
def queueOk (w : Who) (q : Fin 8) : Bool :=
  match w with
  | .a => q.val == 1 || q.val == 4 || q.val == 5 || q.val == 6
  | .x => q.val == 0 || q.val == 2 || q.val == 3 || q.val == 7
  | .c => q.val == 0
  | .t _ => true

/-- The templates an instruction names. -/
def templatesNamed : Instr → List Nat
  | .wld d _ _ | .wst d _ _ | .wset d _ _ | .wgo d | .wgoNb d _ | .wpatch d _ _ | .cwait d _ _ => [d.val]
  | .pw t _ _ | .pwS t _ _ => [t.val]
  | .nest d _ | .nestR d _ _ => [d.val, d.val + 1]
  | _ => []

/-- The vector registers an instruction names, every register of a pair or quad counted. -/
def vectorsNamed (i : Instr) : List Nat :=
  (readsOf i ++ writesOf i).filterMap fun r => match r with
    | .v n => some n
    | _ => none

/-- Register limits of a task: templates, T-strand vectors, rotation (R72). The controller and a core without a task have
none. -/
structure Limits where
  templates : Nat
  tvregs : Nat
  rotate : Bool
  deriving DecidableEq, Repr

def State.limits (s : State) : Limits :=
  match s.who, s.core.task with
  | .c, _ => ⟨64, 16, true⟩
  | _, some t => ⟨t.header.templates, t.header.tvregs, t.header.rotate != 0⟩
  | _, none => ⟨64, 16, true⟩

/-- Operand values that are legal on this strand (R40, R72, R221). -/
def strandFormOk (w : Who) (lim : Limits) (i : Instr) : Bool :=
  (templatesNamed i).all (· < lim.templates) &&
  (!isTStrand w || (vectorsNamed i).all fun n => n ≤ 15 && n < lim.tvregs) &&
  (match i, w with
    | .qpush q _, .a | .vqpush q _, .a | .ldq q _ _, .a => q.val ≤ 3
    | .qpush q _, .x | .vqpush q _, .x | .ldq q _ _, .x => 4 ≤ q.val
    | .qpop _ q, .a | .vqpop _ q, .a | .stq q _ _, .a => 4 ≤ q.val
    | .qpop _ q, .x | .vqpop _ q, .x | .stq q _ _, .x => q.val ≤ 3
    | .nestR _ _ _, .x => lim.rotate
    | .ecancelRes q, w | .ecancelOne q, w | .ecancelAll q, w => queueOk w q
    | .ovswap a, .x => a == 0
    | _, _ => true)

/-! ## Effective addresses (R41, R93, R95) -/

/-- x[a] + sext(off13). -/
def State.addrOff (s : State) (a : Fin 64) (o : BitVec 13) : Word := s.xr a + o.signExtend 64
/-- x[a] + x[b]. -/
def State.addrIdx (s : State) (a b : Fin 64) : Word := s.xr a + s.xr b

/-- The target of a B form: the group's address plus 4 × disp18 (R42). -/
def State.target (s : State) (i : BitVec 18) : Nat := (((s.grp.addr : Int) + 4 * i.toInt) % (2 ^ 64 : Nat)).toNat

/-! ## Templates and images (R53, R57 to R59) -/

/-- Halfword h of an image. -/
def hw (img : Image) (h : Nat) : Nat := img.toNat / 2 ^ (16 * h) % 2 ^ 16

/-- A field of `len` bits from bit `lo` of a run of halfwords from h. -/
def hwBits (img : Image) (h lo len : Nat) : Nat := img.toNat / 2 ^ (16 * h + lo) % 2 ^ len

/-- Quarter q of an image. -/
def quarter (img : Image) (q : Nat) : Nat := img.toNat / 2 ^ (64 * q) % 2 ^ 64

def setHw (img : Image) (h : Nat) (v : BitVec 16) : Image :=
  (img &&& ~~~(BitVec.ofNat 512 (0xFFFF * 2 ^ (16 * h)))) ||| BitVec.ofNat 512 (v.toNat * 2 ^ (16 * h))

def setQuarter (img : Image) (q : Nat) (v : Word) : Image :=
  (img &&& ~~~(BitVec.ofNat 512 ((2 ^ 64 - 1) * 2 ^ (64 * q)))) ||| BitVec.ofNat 512 (v.toNat * 2 ^ (64 * q))

/-- The pair (wN, wN+1) as 32 halfwords; beyond w63 there is none. -/
def pairOf (u : StrandUnit) (n : Fin 64) : Image :=
  let hi : Tmpl := if h : n.val + 1 < 64 then u.w[n.val + 1] else 0
  BitVec.ofNat 512 (u.w[n].toNat + hi.toNat * 2 ^ 256)

def engineOfImage (img : Image) : Nat := hwBits img 0 12 4

/-- Length of an image in halfwords (R57). -/
def imageLength (img : Image) : Nat := if engineOfImage img = 1 || engineOfImage img = 2 then 32 else 16

/-- The op codes of an engine (R56). -/
def opCount : Nat → Nat
  | 0 => 4 | 1 => 5 | 2 => 4 | 3 => 1 | 4 => 6 | 5 => 13 | 6 => 6 | 7 => 10 | _ => 0

/-- The defined flag bits of an operation, hw0[5:0] (R54; the entries of each operation: R207 and R235 for the copies, R237 for attention). -/
def flagsDefined (e op : Nat) : Nat :=
  match e, op with
  | 0, 0 => 0x07 | 0, 1 => 0x0F | 0, _ => 0x03
  | 1, 4 => 0x02 | 1, _ => 0x07
  | 2, 1 => 0x07 | 2, 2 => 0x1C | 2, _ => 0x0F
  | 4, 4 | 4, 5 => 0x01
  | 5, 0 => 0x01 | 5, 7 => 0x07 | 5, 10 => 0x01
  | 6, 2 => 0x07 | 6, 3 => 0x01 | 6, 5 => 0x03
  | 7, 1 => 0x01 | 7, 6 => 0x01 | 7, 9 => 0x01
  | _, _ => 0x00

/-- Whether a `WLD`, `WSET` or replayed template result for wN is in flight (R75, R114). -/
def Strand.pendingW (f : Strand) (n : Nat) : Bool :=
  let is (e : Effect) : Bool := match e with
    | .template r _ _ => r.val = n
    | _ => false
  (f.results.any fun r => !r.written && is r.eff) || f.replays.any fun r => is r.eff

/-- An image formed at issue: the template or pair with the patches of the group (R57, R58). -/
def formImage (u : StrandUnit) (n : Fin 64) (patches : List (Nat × BitVec 16)) : Image :=
  let raw := pairOf u n
  let pick := patches.foldl (fun im p => setHw im p.1 p.2) raw
  if imageLength pick = 32 then pick
  else BitVec.ofNat 512 (pick.toNat % 2 ^ 256)

/-- The templates that the issue of an image of wN reads (R53, R207). -/
def templatesRead (n : Fin 64) (img : Image) : List Nat :=
  if engineOfImage img = 1 then
    let p := hwBits img 12 0 5
    [n.val, n.val + 1, 2 * p, 2 * p + 1]
  else if engineOfImage img = 2 then [n.val, n.val + 1]
  else [n.val]

end Sys2Proof.Machine
end

