-- ==== Sys2Proof/Machine/Group.lean ====
section
/-! DEFINITION. Fetching a group and the checks that decide whether it executes (R31 to R38, R57, R58, R69, R110). -/

namespace Sys2Proof.Machine

/-- One instruction of a fetched group: its address, its first syllable, and what the decoder reads from it. -/
structure Item where
  addr : Nat
  syl : Nat
  res : DecodeResult
  deriving DecidableEq, Repr

/-- A fetched group: its instructions, its length in syllables, whether it lies in the region, and whether it has a stop bit
within 8 syllables. -/
structure Fetched where
  items : List Item
  len : Nat
  inside : Bool
  stopped : Bool
  deriving DecidableEq, Repr

/-- Reads a group from position `pos` on, by fuel on the syllables left (R33): `word` gives the syllable at an address. -/
def fetchFrom (word : Nat → Nat) (lo hi addr : Nat) : Nat → Nat → Fetched
  | 0, pos => ⟨[], pos, true, false⟩
  | fuel + 1, pos =>
    let at_ := addr + 4 * pos
    if 8 ≤ pos then ⟨[], pos, true, false⟩
    else if at_ < lo || hi < at_ + 4 then ⟨[], pos, false, false⟩
    else
      let w := word at_
      if isLong w then
        -- a misplaced stop bit is a finding of the decoder, after the marker's (R38); so is the field of a form that begins at
        -- the 8th syllable, whose group has no stop bit (R33)
        if nStop w then ⟨[⟨at_, w, (decode w []).1⟩], pos + 1, true, true⟩
        else if pos = 7 then ⟨[⟨at_, w, (decode w []).1⟩], 8, true, false⟩
        else if hi < at_ + 8 then ⟨[], pos, false, false⟩
        else
          let w2 := word (at_ + 4)
          let item : Item := ⟨at_, w, (decode w [w2]).1⟩
          if nStop w2 then ⟨[item], pos + 2, true, true⟩
          else
            let r := fetchFrom word lo hi addr fuel (pos + 2)
            { r with items := item :: r.items }
      else
        let item : Item := ⟨at_, w, (decode w []).1⟩
        if nStop w then ⟨[item], pos + 1, true, true⟩
        else
          let r := fetchFrom word lo hi addr fuel (pos + 1)
          { r with items := item :: r.items }

/-- The instruction store that a strand fetches from. -/
def State.istore (s : State) : Memory := if s.onController then s.ctl.istore else s.core.istore
def State.marks (s : State) : List Nat := if s.onController then s.ctl.marks else s.core.marks

/-- The group at an address of the strand's region (R69). Where a privileged write has put the region's end behind the 256 KiB
store, the spec gives no syllables there: the model reads zeros (DESIGN CHOICE, log entry 113). -/
def State.fetchAt (s : State) (addr : Nat) : Fetched :=
  fetchFrom (fun a => s.istore.nat a 4) s.unit.ibase.toNat s.unit.ilimit.toNat addr 9 0

/-- A cause found before a group executes, with its tval and orig (R268). -/
abbrev Finding := Nat × Word × Word

def findingAt (code : Nat) (i : Item) : Finding := (code, BitVec.ofNat 64 i.addr, BitVec.ofNat 64 i.syl)

/-- Steps 1 to 4 of R38 for one instruction. -/
def checkItem (w : Who) (lim : Limits) (pl : Bool) (i : Item) : Option Finding :=
  match i.res with
  | .opcode => some (findingAt 0x01 i)
  | .encoding => some (findingAt 0x02 i)
  | .ok ins =>
    if !strandFormOk w lim ins then some (findingAt 0x02 i)
    else if !strandOk w ins then some (findingAt 0x04 i)
    else if needsPrivilege ins && !pl then some (findingAt 0x05 i)
    else none

/-- The instructions of a group. -/
def instrsOf (items : List Item) : List Instr :=
  items.filterMap fun i => match i.res with
    | .ok ins => some ins
    | _ => none

/-- The patches of a group (R58). -/
def patchesOf (is : List Instr) : List (Fin 64 × Fin 32 × BitVec 16 × Bool) :=
  is.filterMap fun i => match i with
    | .pw t k v => some (t, k, v, false)
    | .pwS t k v => some (t, k, v, true)
    | _ => none

def isPatch : Instr → Bool
  | .pw _ _ _ | .pwS _ _ _ => true
  | _ => false

/-- The group with the patch words of one template counted once: the first of them stands for all (R58). -/
def mergePatches : List Instr → List Instr → List Instr
  | _, [] => []
  | seen, i :: is =>
    match i with
    | .pw t _ _ | .pwS t _ _ =>
      if seen.any (fun j => isPatch j && templatesNamed j == [t.val]) then mergePatches seen is
      else i :: mergePatches (i :: seen) is
    | _ => i :: mergePatches seen is

/-- The nest pair that the issue of a copy reads (R207), from the image it would issue. -/
def copyPair (u : StrandUnit) (n : Fin 64) (patches : List (Nat × BitVec 16)) : List Res :=
  let img := formImage u n patches
  if engineOfImage img = 1 then
    let p := hwBits img 12 0 5
    [.w (n.val + 1), .w (2 * p), .w (2 * p + 1)]
  else if engineOfImage img = 2 then [.w (n.val + 1)]
  else []

/-- Reads and writes of an instruction in its group (R36): an issue reads its pair and the copy's nest pair, and the patch
words of a template together read it, and write it where one of them is sticky. -/
def depsOf (w : Who) (u : StrandUnit) (ps : List (Fin 64 × Fin 32 × BitVec 16 × Bool)) (i : Instr) : List Res × List Res :=
  let of (t : Fin 64) := (ps.filter fun q => q.1 = t).map fun q => (q.2.1.val, q.2.2.1)
  match i with
  | .pw t _ _ | .pwS t _ _ =>
    (.w t.val :: copyPair u t (of t), if ps.any fun q => q.1 = t && q.2.2.2 then [.w t.val] else [])
  | .wgo t | .wgoNb t _ | .wpatch t _ _ => (realRes w (readsOf i) ++ copyPair u t [], realRes w (writesOf i))
  | _ => (realRes w (readsOf i), realRes w (writesOf i))

/-- Whether two instructions of a group depend on one another (R36). -/
def conflict (a b : List Res × List Res) : Bool :=
  a.2.any (fun r => b.1.contains r || b.2.contains r) || b.2.any (fun r => a.1.contains r)

def anyPair {α : Type} (p : α → α → Bool) : List α → Bool
  | [] => false
  | a :: as => as.any (p a) || anyPair p as

/-- Step 5 of R38: length, slots, dependences, control count, and the forms that stand alone (R33, R35 to R37, R58, R156). -/
def groupShapeOk (w : Who) (u : StrandUnit) (stopped : Bool) (is : List Instr) : Bool :=
  let ps := patchesOf is
  let ms := mergePatches [] is
  stopped &&
  ([Slot.s, .m, .v, .e].all fun k => (ms.filter fun i => slotOf w i = k).length ≤ slotCount w k) &&
  !anyPair (fun p q => p.1 = q.1 && p.2.1 = q.2.1) ps &&
  !anyPair conflict (ms.map (depsOf w u ps)) &&
  (ms.filter isControl).length ≤ 1 &&
  !(ms.any (fun i => groupOf i = .spec) && 2 ≤ ms.length) &&
  !(ms.any (fun i => groupOf i = .nest) && ms.any isControl)

/-- Steps 1 to 5 of R38 on a fetched group at `addr`. -/
def checkGroup (w : Who) (u : StrandUnit) (lim : Limits) (pl : Bool) (f : Fetched) (addr firstSyl : Nat) : Option Finding :=
  match f.items.findSome? (checkItem w lim pl) with
  | some c => some c
  | none =>
    if groupShapeOk w u f.stopped (instrsOf f.items) then none
    else some (0x03, BitVec.ofNat 64 addr, BitVec.ofNat 64 firstSyl)

/-- The checks of R57 (step 6 of R38) on an issue image of template n; `reach` is the highest halfword patched. The cause
code, or none. -/
def imageCheck (w : Who) (lim : Limits) (n : Fin 64) (img : Image) (reach : Nat) : Option Nat :=
  let e := engineOfImage img
  let op := hwBits img 0 6 6
  if imageLength img ≤ reach then some 0x06
  else if e < 8 && !engineOk w e then some 0x04
  else if 8 ≤ e || opCount e ≤ op then some 0x07
  else if (hwBits img 1 14 2 != 0 && 5 ≤ hwBits img 1 11 3) || hwBits img 1 6 3 != 0 then some 0x07
  else if (List.range 6).any (fun b => bitOf (hwBits img 0 0 6) b && !bitOf (flagsDefined e op) b) then some 0x07
  else if imageLength img = 32 && n.val % 2 != 0 then some 0x07
  else if e = 1 && lim.templates ≤ 2 * hwBits img 12 0 5 + 1 then some 0x07
  else none

/-- The wide issue an instruction makes: the template, the image, and the highest halfword replaced (R57 to R59). -/
def wideOf (s : State) (i : Instr) : Option (Fin 64 × Image × Nat) :=
  let u := s.unit
  let of (t k : Nat) (v : BitVec 16) : List (Nat × BitVec 16) :=
    ((s.grp.patches.filter fun q => q.1.val = t).map fun q => (q.2.1.val, q.2.2.1)) ++ [(k, v)]
  match i with
  | .wgo t | .wgoNb t _ => some (t, formImage u t [], 0)
  | .wpatch t a q => some (t, formImage u t ((List.range 4).map fun j =>
      (4 * q.val + j, BitVec.ofNat 16 ((s.xr a).toNat / 2 ^ (16 * j)))), 4 * q.val)
  | .pw t k v | .pwS t k v =>
    let ps := of t.val k.val v
    some (t, formImage u t ps, ps.foldl (fun m p => max m p.1) 0)
  | _ => none

/-- Whether the issue must wait for a template it reads (R75, R114). -/
def wideAwaits (s : State) (n : Fin 64) (img : Image) : Bool := (templatesRead n img).any s.strand.pendingW

/-- The finding of R57 for an instruction, with its tval and orig (R268). An issue that waits for its template has none yet. -/
def wideFinding (s : State) (i : Instr) : Option Finding :=
  match wideOf s i with
  | none => none
  | some (n, img, reach) =>
    if wideAwaits s n img then none
    else match imageCheck s.who s.limits n img reach with
    | none => none
    | some 0x04 => some (0x04, s.here, BitVec.ofNat 64 s.grp.syl)
    | some c => some (c, BitVec.ofNat 64 n.val, BitVec.ofNat 64 (img.toNat % 2 ^ 64))

end Sys2Proof.Machine
end

