-- ==== Sys2Proof/Machine/Issue.lean ====
section
/-! DEFINITION. Issuing one group of a strand (R33, R34, R38, R68, R76, R77, R81, R84, R159, R263). The meanings are a
parameter: `run` is `exec`. -/

namespace Sys2Proof.Machine

/-- A meaning of instructions. -/
abbrev Runner := Instr → State → Host.Outcome State Fault Refusal

/-- The bounds, steps and stages of a nest descriptor (R157). -/
def nestBound (d : BitVec 512) (k : Nat) : Nat := bitsOf d.toNat (20 * k) 20
def nestStep (d : BitVec 512) (k : Nat) : Int := signedOf 20 (bitsOf d.toNat (144 + 20 * k) 20)
def nestStage (d : BitVec 512) (g : Nat) : Nat := bitsOf d.toNat (272 + 3 * g) 3
def nestDim (d : BitVec 512) : Nat := bitsOf d.toNat 120 3
def nestXi (d : BitVec 512) : Fin 64 := Fin.ofNat 64 (bitsOf d.toNat 128 6)

/-- The address of body group g, and of the group after the body. -/
def Nest.addrOf (n : Nest) (g : Nat) : Nat := n.base + 4 * ((n.body.take g).foldl (fun acc l => acc + l.length) 0)
def Nest.after (n : Nest) : Nat := n.addrOf n.body.length

/-- The counters after an iteration (R159): the carry from dimension d on, with the step of the last dimension counted. -/
def carry (d : BitVec 512) : Nat → Nat → List Nat → List Nat × Nat
  | 0, k, c => (c, k)
  | fuel + 1, k, c =>
    let v := c.getD k 0 + 1
    if v = nestBound d k then carry d fuel (k + 1) (c.set k 0) else (c.set k v, k)

/-- Rotation step (R79); the T strand rotates predicates only. -/
def Strand.rotate (w : Who) (f : Strand) : Strand :=
  { f with vrb := if isTStrand w then f.vrb else f.vrb - 1, prb := f.prb - 1 }

/-- The strand after a body group has issued (R159): the next body group, or the end of the iteration with its updates. They act at the issue
of the iteration's last group: where the next group is delayed, R159 says only that they stand between the two, and a result of the body
that lands in the gap is the later write (R76; DESIGN CHOICE, log entry 149). -/
def Strand.nestNext (w : Who) (f : Strand) (n : Nest) : Strand :=
  if n.g + 1 < n.body.length then { f with nest := some { n with g := n.g + 1 }, pc := n.addrOf (n.g + 1) }
  else
    let more := n.i + 1 < n.trips
    let (c, k) := if more then carry n.desc 6 0 n.c else (n.c, 0)
    let xi := nestXi n.desc
    let f := if more && xi != 0 then { f with x := f.x.set xi (f.x[xi] + BitVec.ofInt 64 (nestStep n.desc k)) } else f
    let f := if n.rot then Strand.rotate w f else f
    let f := if 1 ≤ n.s then { f with p := f.p.set (physP f 8) more } else f
    if n.i + 1 < n.trips + max n.s 1 - 1 then
      { f with nest := some { n with c := c, i := n.i + 1, g := 0 }, pc := n.base }
    else { f with nest := none, pc := n.after }

/-- Items of a body group held in the loop buffer. -/
def bodyItems (addr : Nat) : Nat → List Nat → List Item
  | _, [] => []
  | pos, [w] => [⟨addr + 4 * pos, w, (decode w []).1⟩]
  | pos, w :: w2 :: ws =>
    if isLong w then ⟨addr + 4 * pos, w, (decode w [w2]).1⟩ :: bodyItems addr (pos + 2) ws
    else ⟨addr + 4 * pos, w, (decode w []).1⟩ :: bodyItems addr (pos + 1) (w2 :: ws)

/-- The rank in which the instructions of a group take effect. All of them read the state at the start of the group (R34), so
one that looks at what another changes at once goes before it: `FENCE.E` before an issue, `ERET` and every read before the
scratchpad stores, a store before the change of a tile's state or of a nest's predicates, and the end of a part, which
closes the strand's region, last. Two stores of one group to overlapping bytes, of which the spec orders neither, act in
ascending address order, so that the later one's bytes remain (DESIGN CHOICE, log entry 8). -/
def effectRank (i : Instr) : Nat :=
  match i with
  | .fenceE _ => 0
  | .eret => 2
  | .stsp _ _ _ | .vst _ _ _ _ | .attstSt _ _ | .poisonClrSp _ => 3
  | _ => match groupOf i with
    | .ring | .nest => 4
    | .taskEnd | .swap => 5
    | _ => 1

/-- The state in which an instruction of the group runs. -/
def State.atItem (s : State) (i : Item) : State := { s with grp := { s.grp with iaddr := i.addr, syl := i.syl, verdict := .issued } }

/-- The verdict of two instructions of a group that do not trap. -/
def Verdict.join : Verdict → Verdict → Verdict
  | .blocked, _ => .blocked
  | _, .blocked => .blocked
  | .awaits, _ => .awaits
  | _, v => v

/-- Phase 1: each instruction alone on the state at the start of the group. A group that must wait waits (R81); otherwise
the first instruction that traps decides (R263), and its trap entry is the outcome. -/
def probe (run : Runner) (s : State) : List (Item × Instr) → Host.Outcome (Option State × Verdict) Fault Refusal
  | [] => .next (none, .issued)
  | (it, i) :: rest =>
    match run i (s.atItem it) with
    | .fault r => .fault r
    | .refused r => .refused r
    | .next t =>
      match probe run s rest with
      | .next (u, v) => .next (if t.grp.verdict = .trapped then (some t, v) else (u, t.grp.verdict.join v))
      | o => o

/-- Phase 2: the instructions take effect. -/
def perform (run : Runner) : State → List (Item × Instr) → Host.Outcome State Fault Refusal
  | s, [] => .next s
  | s, (it, i) :: rest =>
    match run i (s.atItem it) with
    | .next t => perform run t rest
    | o => o

/-- Results in flight, counted through their write cycle (R77). -/
def inFlight (now : Nat) (f : Strand) : Nat := (f.results.filter fun r => !r.written || now ≤ r.due).length + f.replays.length

/-- The results that the instructions of a group put in flight: one for each that has a destination which a result writes at its
latency (R75 to R77, R260). A sticky patch writes its template at issue, an atomic for x0 is posted, and a `DBNZ.G` of a zero writes nothing. -/
def newResults (s : State) (i : Instr) : Nat :=
  match i with
  | .pwS _ _ _ => 0
  | .dbnzG n _ => if s.xr n = 0 then 0 else 1
  | .amoAdd d _ _ | .amoMinI64 d _ _ | .amoMinN64 d _ _ | .amoMaxI64 d _ _ | .amoMaxN64 d _ _ | .amoAnd d _ _ | .amoOr d _ _
  | .amoXor d _ _ | .amoXchg d _ _ | .amoCas d _ _ | .amoFaddF32 d _ _ | .amoFaddBf16 d _ _ | .amoFmaxF32 d _ _
  | .amoFmaxBf16 d _ _ => if d = 0 then 0 else 1
  | _ =>
    if (writesOf i).any fun r => match r with
      | .x _ | .v _ | .p _ | .w _ | .sys _ | .mask => true
      | _ => false
    then 1
    else match i with
      | .vlutld _ => 1
      | _ => 0

/-- The group's issue cycle is c0 of the replay entries that wait for it (R86). -/
def Strand.startReplays (f : Strand) (now : Nat) : Strand :=
  { f with
    results := f.results ++ f.replays.map fun e => ⟨e.eff, e.flags, now + e.remaining, false, none, 0, true, false⟩
    replays := [] }

def isVector (i : Instr) : Bool := groupOf i = .vector

/-- The instructions of a group in the order in which they take effect. -/
def effectOrder (is : List (Item × Instr)) : List (Item × Instr) :=
  (List.range 6).flatMap fun n => is.filter fun q => effectRank q.2 = n

/-- Issues the group of instructions `items` at `addr`, the next group being at `npc`. The verdict says whether it blocks on a coupling
(R81) or awaits results or a slot. A group that would put more than 24 results in flight waits, as one does that needs a result in flight; replay entries that stand in its way count from now (R77, R81,
R86, log entry 9). -/
def issueItems (run : Runner) (s : State) (items : List Item) (addr npc : Nat) : Host.Outcome State Fault Refusal :=
  let pairs := items.filterMap fun i => match i.res with
    | .ok ins => some (i, ins)
    | _ => none
  let ins := pairs.map (·.2)
  let merged := mergePatches [] ins
  let keep := pairs.filter fun q => !isPatch q.2 || merged.contains q.2
  let s0 := { s with grp := { addr := addr, iaddr := addr, syl := 0, npc := npc, patches := patchesOf ins, verdict := .issued, settled := false } }
  let waiting : State := (s0.onStrand fun f => Strand.startReplays f s.cycle).verdict .awaits
  let wide := keep.findSome? fun q => wideFinding (s0.atItem q.1) q.2
  match wide with
  | some (c, tval, orig) => s0.raise c tval orig
  | none =>
    let vec := ins.any isVector && isTStrand s.who
    if vec && s.cycle < s.core.t.vFree then .next (s0.verdict .awaits)
    else if 24 < inFlight s.cycle s.strand + (keep.map fun q => newResults s q.2).sum then .next waiting
    else
      match probe run s0 keep with
      | .fault r => .fault r
      | .refused r => .refused r
      | .next (_, .blocked) => .next (s0.verdict .blocked)
      | .next (_, .awaits) => .next waiting
      | .next (some t, _) => .next t
      | .next (none, _) =>
        let started := s0.onStrand fun f => { Strand.startReplays f s.cycle with pc := npc, endGroup := addr, stall := 0 }
        match perform run { started with grp := { started.grp with settled := true } } (effectOrder keep) with
        | .fault r => .fault r
        | .refused r => .refused r
        | .next t =>
          let t := if vec then { t with core := { t.core with t := { t.core.t with vFree := s.cycle + 4 } } } else t
          .next { t with grp := { t.grp with settled := false } }

/-- Issues the strand's group (R33, R38, R69, R110), or a body group of its running nest (R159). Where a group both leaves the
strand's region and begins at a marked syllable, the spec ranks neither cause: the model takes `XLATE_PROT`, since no group
that leaves the region is decoded (DESIGN CHOICE, log entry 114). -/
def issueGroup (run : Runner) (s : State) : Host.Outcome State Fault Refusal :=
  let f := s.strand
  match f.nest with
  | some n =>
    let addr := n.addrOf n.g
    let items := bodyItems addr 0 (n.body.getD n.g [])
    if 1 ≤ n.s && !f.p[physP f (Fin.ofNat 16 (8 + nestStage n.desc n.g))] then
      -- issued with no effect
      .next ((s.onStrand fun f => Strand.nestNext s.who (Strand.startReplays f s.cycle) n).verdict .issued)
    else
      match issueItems run s items addr (n.addrOf (n.g + 1)) with
      | .next t => if t.grp.verdict = .issued then .next (t.onStrand fun f => Strand.nestNext s.who f n) else .next t
      | o => o
  | none =>
    let addr := f.pc - f.pc % 4
    let g := s.fetchAt addr
    let syl := s.istore.nat addr 4
    let s0 := { s with grp := { addr := addr, iaddr := addr, syl := syl, npc := addr, patches := [], verdict := .issued, settled := false } }
    if !g.inside then s0.raise 0x11 (BitVec.ofNat 64 addr) (BitVec.ofNat 64 addr)
    else if s.marks.contains addr then s0.raise 0x02 (BitVec.ofNat 64 addr) (BitVec.ofNat 64 syl)
    else
      match checkGroup s.who s.unit s.limits f.pl g addr syl with
      | some (c, tval, orig) => s0.raise c tval orig
      | none => issueItems run s g.items addr (addr + 4 * g.len)

end Sys2Proof.Machine
end

