-- ==== Sys2Proof/Machine/Flags.lean ====
section
/-! DEFINITION. Flag computations shared by the units (R17, R27 to R29, R100, R196): per-element arithmetic that returns the
result bits with its flags, and the OR of flags over elements. -/

namespace Sys2Proof.Machine

/-- The OR of the flags of computed elements (R28). -/
def orAll (fs : List Flags) : Flags := fs.foldl (· ||| ·) 0

/-- Modular value of an integer element, w bits. -/
def wrapInt (t : ElemType) (v : Int) : Nat := unsignedOf t.width v

/-- The integer value of an element. -/
def intOf (t : ElemType) (bits : Nat) : Int := if t.isSigned then signedOf t.width bits else (bits % 2 ^ t.width : Nat)

/-- Sum and product of two elements of an arithmetic type (R125): integers wrap, floats round once to nearest even. -/
def addElem (t : ElemType) (a b : Nat) : Nat × Flags :=
  if t.isInt then (wrapInt t (intOf t a + intOf t b), 0)
  else roundExact t .rne (exactAdd .rne (decodeElem t a) (decodeElem t b))

def subElem (t : ElemType) (a b : Nat) : Nat × Flags :=
  if t.isInt then (wrapInt t (intOf t a - intOf t b), 0)
  else roundExact t .rne (exactAdd .rne (decodeElem t a) (decodeElem t b).neg)

def mulElem (t : ElemType) (a b : Nat) : Nat × Flags :=
  if t.isInt then (wrapInt t (intOf t a * intOf t b), 0)
  else roundExact t .rne (exactMul (decodeElem t a) (decodeElem t b))

/-- a × b + c, or a × b − c (R134). -/
def fmaElem (t : ElemType) (minus : Bool) (a b c : Nat) : Nat × Flags :=
  if t.isInt then (wrapInt t (intOf t a * intOf t b + (if minus then -intOf t c else intOf t c)), 0)
  else
    let z := decodeElem t c
    roundExact t .rne (exactFma .rne (decodeElem t a) (decodeElem t b) (if minus then z.neg else z))

/-- Minimum or maximum (R132, R133). -/
def pickElem (t : ElemType) (wantMax : Bool) (a b : Nat) : Nat × Flags :=
  if t.isInt then (if (intOf t a < intOf t b) = wantMax then b % 2 ^ t.width else a % 2 ^ t.width, 0)
  else fpPick t wantMax a b

/-- A sign operation on a float: exact, but a NaN gives the canonical quiet NaN, with IV if it signals (R133). -/
def signElem (t : ElemType) (f : Val → Val) (a : Nat) : Nat × Flags :=
  let v := decodeElem t a
  if v.isNan then (qnan t, if v.isSignalling then flagIV else 0) else roundTo t .rne false 0 (f v)

def absElem (t : ElemType) (a : Nat) : Nat × Flags :=
  if t.isInt then (wrapInt t (if intOf t a < 0 then -intOf t a else intOf t a), 0) else signElem t Val.abs a

def negElem (t : ElemType) (a : Nat) : Nat × Flags :=
  if t.isInt then (wrapInt t (0 - intOf t a), 0) else signElem t Val.neg a

/-- max(|a|, |b|) (R139). -/
def amaxElem (t : ElemType) (a b : Nat) : Nat × Flags :=
  if t.isInt then (max (intOf t a).natAbs (intOf t b).natAbs % 2 ^ t.width, 0)
  else
    let x := decodeElem t a
    let y := decodeElem t b
    if x.isNan || y.isNan then (qnan t, if x.isSignalling || y.isSignalling then flagIV else 0)
    else roundTo t .rne false 0 (if x.abs.lt y.abs then y.abs else x.abs)

/-- The relations of `VCMP` (R136), in func order. -/
inductive Cmp where
  | eq | ne | lt | le | gt | ge | un
  deriving DecidableEq, Repr, Inhabited

def cmpElem (t : ElemType) (c : Cmp) (a b : Nat) : Bool × Flags :=
  if t.isInt then
    let x := intOf t a
    let y := intOf t b
    (match c with
      | .eq => x == y
      | .ne => x != y
      | .lt => x < y
      | .le => x ≤ y
      | .gt => y < x
      | .ge => y ≤ x
      | .un => false, 0)
  else
    let x := decodeElem t a
    let y := decodeElem t b
    let nan := x.isNan || y.isNan
    let snan := x.isSignalling || y.isSignalling
    match c with
    | .eq => (x.eqv y, if snan then flagIV else 0)
    | .ne => (!x.eqv y, if snan then flagIV else 0)
    | .un => (nan, if snan then flagIV else 0)
    | .lt => (!nan && x.lt y, if nan then flagIV else 0)
    | .le => (!nan && !y.lt x, if nan then flagIV else 0)
    | .gt => (!nan && y.lt x, if nan then flagIV else 0)
    | .ge => (!nan && !x.lt y, if nan then flagIV else 0)

end Sys2Proof.Machine
end

