-- ==== Sys2Proof/Machine/MemInstr.lean ====
section
/-! DEFINITION. Loads and stores of memory and of the scratchpad, data queues, atomics, and templates (R89, R93 to R100, R112,
R114, R168, R175, R177). -/

namespace Sys2Proof.Machine

/-! ## Memory -/

/-- A load of n bytes: the checks of R89, the read, and the result no earlier than 14 cycles later (R75, R94). -/
def State.loadWith (s : State) (va : Word) (n : Nat) (e : Nat → Effect) : Answer :=
  match s.place accRead va n with
  | .error c => s.raise c va s.here
  | .ok pl =>
    let (bs, bad) := s.load pl n
    issue ((s.note va pl true).emitFull (e (natOfBytes bs)) 0 14 true (if bad then some va else none))

/-- A load into x[d], zero- or sign-extended from n bytes. -/
def State.loadX (s : State) (d : Fin 64) (va : Word) (n : Nat) (signed : Bool) : Answer :=
  s.loadWith va n fun v => .scalar d (if signed then BitVec.ofInt 64 (signedOf (8 * n) v) else BitVec.ofNat 64 v)

/-- A posted store (R94): the checks of R89; the store is performed after the group. -/
def State.postStore (s : State) (va : Word) (bs : List Byte) : Answer :=
  match s.place accWrite va bs.length with
  | .error c => s.raise c va s.here
  | .ok pl => issue ((s.note va pl false).onStrand fun f => { f with posted := f.posted ++ [.store pl.pa bs] })

/-- R93: x[d] ← Mem(x[a] + off, 8). -/
def execLd64 (d a : Fin 64) (o : BitVec 13) (s : State) : Answer := s.loadX d (s.addrOff a o) 8 false

/-- R93: 4 bytes, zero-extended. -/
def execLdN32 (d a : Fin 64) (o : BitVec 13) (s : State) : Answer := s.loadX d (s.addrOff a o) 4 false

/-- R93: 4 bytes, sign-extended. -/
def execLdI32 (d a : Fin 64) (o : BitVec 13) (s : State) : Answer := s.loadX d (s.addrOff a o) 4 true

/-- R93: Mem(x[a] + off, 8) ← x[d]. -/
def execSt64 (d a : Fin 64) (o : BitVec 13) (s : State) : Answer :=
  s.postStore (s.addrOff a o) (bytesOfNat 8 (s.xr d).toNat)

/-- R93: Mem(x[a] + off, 4) ← x[d][31:0]. -/
def execSt32 (d a : Fin 64) (o : BitVec 13) (s : State) : Answer :=
  s.postStore (s.addrOff a o) (bytesOfNat 4 (s.xr d).toNat)

/-- R93: 1 byte at x[a] + x[b], zero-extended. -/
def execLdN8 (d a b : Fin 64) (s : State) : Answer := s.loadX d (s.addrIdx a b) 1 false

/-- R93: 1 byte, sign-extended. -/
def execLdI8 (d a b : Fin 64) (s : State) : Answer := s.loadX d (s.addrIdx a b) 1 true

/-- R93: 2 bytes, zero-extended. -/
def execLdN16 (d a b : Fin 64) (s : State) : Answer := s.loadX d (s.addrIdx a b) 2 false

/-- R93: 2 bytes, sign-extended. -/
def execLdI16 (d a b : Fin 64) (s : State) : Answer := s.loadX d (s.addrIdx a b) 2 true

/-- R93: Mem(x[a] + x[b], 1) ← x[d][7:0]. -/
def execSt8 (d a b : Fin 64) (s : State) : Answer := s.postStore (s.addrIdx a b) (bytesOfNat 1 (s.xr d).toNat)

/-- R93: Mem(x[a] + x[b], 2) ← x[d][15:0]. -/
def execSt16 (d a b : Fin 64) (s : State) : Answer := s.postStore (s.addrIdx a b) (bytesOfNat 2 (s.xr d).toNat)

/-! ## Scratchpad -/

/-- The parts of a run of bytes by 128-byte line: the line, the first byte and the length. -/
def lineParts (a n : Nat) : List (Nat × Nat × Nat) :=
  (linesOf a n).map fun l =>
    let lo := max a (128 * l)
    (l, lo, min (a + n) (128 * l + 128) - lo)

/-- The bytes a strand's scratchpad read returns: lines it has written in its region come from the shadow bank (R112). -/
def State.spRead (s : State) (a n : Nat) : List Byte :=
  match s.strand.region with
  | none => s.spMem.read a n
  | some r => (lineParts a n).flatMap fun p => (if r.lines.contains p.1 then r.data else s.spMem).read p.2.1 p.2.2

/-- Whether a strand's scratchpad read touches a poisoned line. -/
def State.spBad (s : State) (a n : Nat) : Bool :=
  match s.strand.region with
  | none => poisonedIn s.spPoison a n
  | some r => (linesOf a n).any fun l => if r.lines.contains l then r.poison.contains l else s.spPoison.contains l

/-- Writes one part of a line to the shadow bank, copying the primary line first (R172). -/
def SpecRegion.put (r : SpecRegion) (mem : Memory) (bad : List Nat) (line a : Nat) (bs : List Byte) (full : Bool) : SpecRegion :=
  let r := if r.lines.contains line then r
    else { r with
      lines := insertNat line r.lines, data := r.data.write (128 * line) (mem.read (128 * line) 128)
      poison := if bad.contains line then insertNat line r.poison else r.poison }
  { r with
    data := r.data.write a bs
    poison := if full && bs.length = 128 then r.poison.filter (· != line) else r.poison }

/-- Whether a line lies in a region. -/
def SpecRegion.covers (r : SpecRegion) (line : Nat) : Bool := r.base ≤ 128 * line && 128 * line < r.base + r.len

/-- A strand's scratchpad write, line by line (R112, R175): `full` says that every byte of the run is written, so that whole
lines lose their poison. -/
def State.spPut (s : State) (a : Nat) (bs : List Byte) (full : Bool) : State :=
  match s.strand.region with
  | none => if full then s.spWrite a bs else s.setSp (s.spMem.write a bs)
  | some _ => (lineParts a bs.length).foldl (fun (t : State) p =>
      let part := (bs.drop (p.2.1 - a)).take p.2.2
      match t.strand.region with
      | some r =>
        if r.covers p.1 then t.onStrand fun f => { f with region := some (r.put t.spMem t.spPoison p.1 p.2.1 part full) }
        else if full then t.spWrite p.2.1 part else t.setSp (t.spMem.write p.2.1 part)
      | none => t) s

/-- The cause of a scratchpad address check, in the order of R263: alignment, then range (R95, R168). -/
def State.spCheck (s : State) (a : Word) (n align : Nat) : Option Nat :=
  if a.toNat % align != 0 then some 0x12
  else if s.spSize < a.toNat + n then some 0x14
  else none

/-- Fields of a tile register (R176). -/
def tileF (t : Word) : Bool := t.getLsbD 63
def tileD (t : Word) : Bool := t.getLsbD 62
def tileC (t : Word) : Bool := t.getLsbD 61
def tileLines (t : Word) : Nat := bitsOf t.toNat 32 15 + 1
def tileBase (t : Word) : Nat := 128 * bitsOf t.toNat 7 15
def tileBytes (t : Word) : Nat := 128 * tileLines t

/-- Whether a run of bytes lies partly in a defined tile with the given full bit (R177); the controller has no tiles. -/
def State.couples (s : State) (a n : Nat) (full : Bool) : Bool :=
  !s.onController && s.core.tile.toList.any fun t =>
    tileD t && tileF t == full && a < tileBase t + tileBytes t && tileBase t < a + n

/-- R95, R175, R177: reads the 8 bytes at scratchpad address x[a] + off. -/
def execLdsp (d a : Fin 64) (o : BitVec 13) (s : State) : Answer :=
  let va := s.addrOff a o
  match s.spCheck va 8 8 with
  | some c => s.raise c va s.here
  | none =>
    if s.couples va.toNat 8 false then s.block
    else if s.spBad va.toNat 8 then s.raise 0x30 va s.here
    else issue (s.emitX d (BitVec.ofNat 64 (natOfBytes (s.spRead va.toNat 8))) 6)

/-- R95, R177: writes x[d] at scratchpad address x[a] + off. -/
def execStsp (d a : Fin 64) (o : BitVec 13) (s : State) : Answer :=
  let va := s.addrOff a o
  match s.spCheck va 8 8 with
  | some c => s.raise c va s.here
  | none =>
    if s.couples va.toNat 8 true then s.block
    else issue (s.spPut va.toNat (bytesOfNat 8 (s.xr d).toNat) true)

/-! ## Data queues and branch-outcome queues (R97, R98, R188) -/

def State.setQueue (s : State) (q : Fin 8) (d : DataQueue) : State := { s with core := { s.core with q := s.core.q.set q d } }

def DataQueue.full (d : DataQueue) : Bool := 16 ≤ d.entries.length

/-- The first n entries, if all are poppable in a cycle. -/
def DataQueue.poppable (d : DataQueue) (n now : Nat) : Option (List QEntry) :=
  let es := d.entries.take n
  if es.length = n && es.all (fun e => !e.reserved && e.ready ≤ now) then some es else none

def DataQueue.pop (d : DataQueue) (n : Nat) : DataQueue := ⟨d.head + Fin.ofNat 16 n, d.entries.drop n⟩

/-- An entry pushed in a cycle, poppable 3 cycles later (R75). -/
def pushed (data : BitVec 512) (now : Nat) : QEntry := ⟨data, now + 3, false, false, 0, 0⟩

def DataQueue.push (d : DataQueue) (es : List QEntry) : DataQueue := { d with entries := d.entries ++ es }

/-- R97: reserves the tail entry of qN and requests the 64 bytes at x[a] + x[b] for it. -/
def execLdq (q : Fin 8) (a b : Fin 64) (s : State) : Answer :=
  let va := s.addrIdx a b
  match s.place accRead va 64 with
  | .error c => s.raise c va s.here
  | .ok pl =>
    if s.core.q[q].full then s.block
    else
      let (bs, bad) := s.load pl 64
      let e : QEntry := ⟨BitVec.ofNat 512 (natOfBytes bs), s.cycle + 14, true, bad, va, s.grp.addr⟩
      let t := s.note va pl true
      issue (t.setQueue q (t.core.q[q].push [e]))

/-- R97: pops the head entry of qN and posts it as a store of 64 bytes. -/
def execStq (q : Fin 8) (a b : Fin 64) (s : State) : Answer :=
  let va := s.addrIdx a b
  match s.place accWrite va 64 with
  | .error c => s.raise c va s.here
  | .ok pl =>
    match s.core.q[q].poppable 1 s.cycle with
    | some (e :: _) =>
      if e.poison then s.raise 0x30 e.addr s.here
      else
        let t := (s.note va pl false).setQueue q (s.core.q[q].pop 1)
        issue (t.onStrand fun f => { f with posted := f.posted ++ [.store pl.pa (bytesOfNat 64 e.data.toNat)] })
    | _ => s.block

/-- R98: pushes an entry with x[a] in its low bytes. -/
def execQpush (q : Fin 8) (a : Fin 64) (s : State) : Answer :=
  if s.core.q[q].full then s.block
  else issue (s.setQueue q (s.core.q[q].push [pushed ((s.xr a).zeroExtend 512) s.cycle]))

/-- R97, R98: pops an entry into x[d]; a poisoned one raises `POISON`. -/
def execQpop (d : Fin 64) (q : Fin 8) (s : State) : Answer :=
  match s.core.q[q].poppable 1 s.cycle with
  | some (e :: _) =>
    if e.poison then s.raise 0x30 e.addr s.here
    else issue ((s.setQueue q (s.core.q[q].pop 1)).emitX d (e.data.truncate 64) 2)
  | _ => s.block

/-- R98: pushes p[K] into the strand's outgoing branch-outcome queue. -/
def execBqpush (p : Fin 16) (s : State) : Answer :=
  let e := (s.pr p, s.cycle + 3)
  if s.who = .a then
    if 32 ≤ s.core.bqAX.entries.length then s.block
    else issue { s with core := { s.core with bqAX := { s.core.bqAX with entries := s.core.bqAX.entries ++ [e] } } }
  else
    if 32 ≤ s.core.bqXA.entries.length then s.block
    else issue { s with core := { s.core with bqXA := { s.core.bqXA with entries := s.core.bqXA.entries ++ [e] } } }

/-! ## Memory-side atomics (R99, R100) -/

/-- Bytes of an atomic, by func. -/
def amoSize (func : Nat) : Nat := if func ≤ 0x19 then 8 else if func % 2 = 0 then 4 else 2

/-- The new value and flags of an atomic on `old`, with the operand, and the value compared by `AMO.CAS`. -/
def amoNew (func : Nat) (old operand expected : Nat) : Nat × Flags :=
  let o : Word := BitVec.ofNat 64 old
  let x : Word := BitVec.ofNat 64 operand
  match func with
  | 0x10 => ((o + x).toNat, 0)
  | 0x11 => (if x.slt o then operand else old, 0)
  | 0x12 => (if x.ult o then operand else old, 0)
  | 0x13 => (if o.slt x then operand else old, 0)
  | 0x14 => (if o.ult x then operand else old, 0)
  | 0x15 => ((o &&& x).toNat, 0)
  | 0x16 => ((o ||| x).toNat, 0)
  | 0x17 => ((o ^^^ x).toNat, 0)
  | 0x18 => (operand, 0)
  | 0x19 => (if old = expected then operand else old, 0)
  | 0x1A => addElem .f32 old (operand % 2 ^ 32)
  | 0x1B => addElem .bf16 old (operand % 2 ^ 16)
  | 0x1C => pickElem .f32 true old (operand % 2 ^ 32)
  | _ => pickElem .bf16 true old (operand % 2 ^ 16)

/-- Performs an atomic at the memory side, its flags going to the status word of the line's home (R100, R352). A poisoned line
stays as it is, and a non-returning atomic records it there. -/
def amoAt (m : Module) (n : Fin 16) (returning : Bool) (func pa operand expected : Nat) : Module :=
  let size := amoSize func
  let home := homeDie m.parts[n] pa
  if poisonedIn m.poison pa size then if returning then m else orStatus m home n 0x40
  else
    let (v, fl) := amoNew func (natOfBytes (physRead m pa size)) operand expected
    orStatus (baseWrite m n pa (bytesOfNat size v)) home n (fl.zeroExtend 7)

/-- An atomic at x[a]: with d ≠ 0 it is performed and returns the old value; with d = 0 it is posted. The flags that a returning
`AMO.FADD` or `AMO.FMAX` also returns (R29, R100) come with the response into `Strand.returned`, which no instruction reads (DESIGN
CHOICE, log entry 121: the spec names no destination for them, and they never reach `sr.flags`). -/
def State.amo (s : State) (func : Nat) (d a b : Fin 64) : Answer :=
  let va := s.xr a
  let operand := s.xr b
  let expected := s.xr d
  let size := amoSize func
  match s.part, s.place accAtomic va size with
  | some n, .ok pl =>
    let t := s.note va pl false
    if d = 0 then issue (t.onStrand fun f => { f with posted := f.posted ++ [.atomic func pl.pa operand expected] })
    else
      let (bs, bad) := s.load pl size
      let fl : Flags := if bad then 0 else (amoNew func (natOfBytes bs) operand.toNat expected.toNat).2
      let t := State.onStrand { t with mod := amoAt t.mod n true func pl.pa operand.toNat expected.toNat } fun f => { f with returned := fl }
      issue (t.emitFull (.scalar d (BitVec.ofNat 64 (natOfBytes bs))) 0 14 true (if bad then some va else none))
  | _, .error c => s.raise c va s.here
  | none, .ok _ => s.raise 0x10 va s.here

/-- R99: old + x[b]. -/
def execAmoAdd (d a b : Fin 64) (s : State) : Answer := s.amo 0x10 d a b
/-- R99: signed minimum. -/
def execAmoMinI64 (d a b : Fin 64) (s : State) : Answer := s.amo 0x11 d a b
/-- R99: unsigned minimum. -/
def execAmoMinN64 (d a b : Fin 64) (s : State) : Answer := s.amo 0x12 d a b
/-- R99: signed maximum. -/
def execAmoMaxI64 (d a b : Fin 64) (s : State) : Answer := s.amo 0x13 d a b
/-- R99: unsigned maximum. -/
def execAmoMaxN64 (d a b : Fin 64) (s : State) : Answer := s.amo 0x14 d a b
/-- R99: bitwise AND. -/
def execAmoAnd (d a b : Fin 64) (s : State) : Answer := s.amo 0x15 d a b
/-- R99: bitwise OR. -/
def execAmoOr (d a b : Fin 64) (s : State) : Answer := s.amo 0x16 d a b
/-- R99: bitwise XOR. -/
def execAmoXor (d a b : Fin 64) (s : State) : Answer := s.amo 0x17 d a b
/-- R99: exchange. -/
def execAmoXchg (d a b : Fin 64) (s : State) : Answer := s.amo 0x18 d a b
/-- R99: x[b] if the old value equals x[d]. -/
def execAmoCas (d a b : Fin 64) (s : State) : Answer := s.amo 0x19 d a b
/-- R99: binary32 sum, rounded to nearest even. -/
def execAmoFaddF32 (d a b : Fin 64) (s : State) : Answer := s.amo 0x1A d a b
/-- R99: BF16 sum. -/
def execAmoFaddBf16 (d a b : Fin 64) (s : State) : Answer := s.amo 0x1B d a b
/-- R100: binary32 maximum. -/
def execAmoFmaxF32 (d a b : Fin 64) (s : State) : Answer := s.amo 0x1C d a b
/-- R100: BF16 maximum. -/
def execAmoFmaxBf16 (d a b : Fin 64) (s : State) : Answer := s.amo 0x1D d a b

/-! ## Templates (R114) -/

/-- R114: wN ← Mem(x[a] + x[b], 32). -/
def execWld (d a b : Fin 64) (s : State) : Answer :=
  s.loadWith (s.addrIdx a b) 32 fun v => .template d (BitVec.ofNat 256 v) 0xF

/-- R114: Mem(x[a] + x[b], 32) ← wN. -/
def execWst (d a b : Fin 64) (s : State) : Answer :=
  s.postStore (s.addrIdx a b) (bytesOfNat 32 (s.unit.w[d]).toNat)

/-- R114: quarter q of wN ← x[a]. -/
def execWset (d a : Fin 64) (q : Fin 8) (s : State) : Answer :=
  issue (s.emit (.template d (BitVec.ofNat 256 ((s.xr a).toNat * 2 ^ (64 * q.val))) (BitVec.ofNat 4 (2 ^ q.val))) 0 1)

end Sys2Proof.Machine
end

