-- ==== Sys2Proof/Machine/Control.lean ====
section
/-! DEFINITION. Control transfers, task end, speculation regions, loop nests and the return from a trap (R78, R86, R109 to
R113, R116, R117, R155 to R161, R172, R173, R261, R262). A transfer sets the strand's pc, which the group has set to the
group behind it. -/

namespace Sys2Proof.Machine

/-! ## Transfers -/

/-- The strand's next group is at an address. -/
def State.jump (s : State) (pc : Nat) : State := s.onStrand fun f => { f with pc := pc }

def State.jumpIf (s : State) (taken : Bool) (pc : Nat) : State := if taken then s.jump pc else s

/-- R109: branches always. -/
def execBr (i : BitVec 18) (s : State) : Answer := issue (s.jump (s.target i))

/-- R109: branches when p[K] = 1. -/
def execBp (p : Fin 16) (i : BitVec 18) (s : State) : Answer := issue (s.jumpIf (s.pr p) (s.target i))

/-- R109: branches when p[K] = 0. -/
def execBpF (p : Fin 16) (i : BitVec 18) (s : State) : Answer := issue (s.jumpIf (!s.pr p) (s.target i))

/-- The head of a branch-outcome queue, if it is poppable. -/
def BranchQueue.front (q : BranchQueue) (now : Nat) : Option Bool :=
  match q.entries with
  | (v, ready) :: _ => if ready ≤ now then some v else none
  | [] => none

def BranchQueue.pop (q : BranchQueue) : BranchQueue := ⟨q.head + 1, q.entries.tail⟩

/-- R109: pops the incoming branch-outcome queue and branches on the value; blocks while it is empty. -/
def execBq (i : BitVec 18) (s : State) : Answer :=
  if s.who = .a then
    match s.core.bqXA.front s.cycle with
    | some v => issue (State.jumpIf { s with core := { s.core with bqXA := s.core.bqXA.pop } } v (s.target i))
    | none => s.block
  else
    match s.core.bqAX.front s.cycle with
    | some v => issue (State.jumpIf { s with core := { s.core with bqAX := s.core.bqAX.pop } } v (s.target i))
    | none => s.block

/-- R109: x63 ← the address of the next group, and branches. -/
def execCall (i : BitVec 18) (s : State) : Answer :=
  issue ((s.emitX 63 (BitVec.ofNat 64 s.grp.npc) 1).jump (s.target i))

/-- R109: jumps to an address whose low bits must be zero. -/
def State.jumpTo (s : State) (v : Word) : Answer :=
  if v.toNat % 4 != 0 then s.raise 0x12 v s.here else issue (s.jump v.toNat)

/-- R109: PC ← x63. -/
def execRet (s : State) : Answer := s.jumpTo (s.xr 63)

/-- R109: PC ← x[a]. -/
def execJr (a : Fin 64) (s : State) : Answer := s.jumpTo (s.xr a)

/-- Whether a result for x[n] is in flight, one of the replay entries included. -/
def Strand.pendingX (f : Strand) (n : Fin 64) : Bool :=
  let is (e : Effect) : Bool := match e with
    | .scalar r _ => r = n && n != 0
    | _ => false
  (f.results.any fun r => !r.written && is r.eff) || f.replays.any fun r => is r.eff

/-- R111: decrements x[n] and branches if the result is not zero. -/
def execDbnz (n : Fin 64) (i : BitVec 18) (s : State) : Answer :=
  if s.strand.pendingX n then s.await
  else
    let v := s.xr n - 1
    issue ((s.emitX n v 1).jumpIf (v != 0) (s.target i))

/-- R111: the guarded form, which leaves a zero as it is. -/
def execDbnzG (n : Fin 64) (i : BitVec 18) (s : State) : Answer :=
  if s.strand.pendingX n then s.await
  else if s.xr n = 0 then issue s
  else issue ((s.emitX n (s.xr n - 1) 1).jumpIf (s.xr n != 1) (s.target i))

/-- R155: branches when every bit of the mask top is 0; never at depth 0. -/
def execUbz (i : BitVec 18) (s : State) : Answer :=
  issue (s.jumpIf (!s.strand.masks.isEmpty && s.top == 0) (s.target i))

/-! ## Speculation regions (R112, R113, R172, R173) -/

/-- R112: opens a region of x[b] bytes at x[a], after its checks in their order; waits for the copy-back, and invalidates the cached
lines of the strand's shadow way (R172). -/
def execSpecBegin (a b : Fin 64) (s : State) : Answer :=
  let base := s.xr a
  let len := s.xr b
  if base.toNat % 128 != 0 || len = 0 || len.toNat % 128 != 0 then s.raise 0x12 base s.here
  else if s.spSize < base.toNat + len.toNat then s.raise 0x14 base s.here
  else if 262144 < len.toNat || s.strand.spec then s.raise 0x39 len base
  else if s.strand.copyBack.isSome then s.block
  else
    let way := if s.who = .x then 15 else 14
    let t : State := { s with core := { s.core with cache := s.core.cache.filter (·.1 != way) } }
    issue (t.onStrand fun f => { f with spec := true, region := some ⟨base.toNat, len.toNat, [], [], []⟩ })

/-- The primary bank after a commit: each line the strand wrote is replaced by its shadow. -/
def SpecRegion.merge (r : SpecRegion) (mem : Memory) : Memory :=
  r.lines.foldl (fun m l => m.write (128 * l) (r.data.read (128 * l) 128)) mem

/-- The poisoned lines after a commit. -/
def SpecRegion.mergePoison (r : SpecRegion) (bad : List Nat) : List Nat :=
  r.lines.foldl (fun p l => if r.poison.contains l then insertNat l p else p.filter (· != l)) bad

/-- R113, R173: every line the strand wrote becomes current at once; the copy into the primary bank takes one cycle a line,
and holds the strand's next `SPEC.BEGIN`. -/
def execSpecCommit (s : State) : Answer :=
  match s.strand.region with
  | none => issue s
  | some r =>
    let t := (s.setSp (r.merge s.spMem)).setSpPoison (r.mergePoison s.spPoison)
    issue (t.onStrand fun f => { f with
      spec := false, region := none, copyBack := if r.lines.isEmpty then f.copyBack else some (s.cycle + r.lines.length) })

/-- Closes a region without its writes. -/
def Strand.abort (f : Strand) : Strand := { f with spec := false, region := none }

/-- R113: discards the shadow lines. -/
def execSpecAbort (s : State) : Answer := issue (s.onStrand Strand.abort)

/-! ## Task end (R78, R116, R117, R220) -/

/-- Whether results of the strand are in flight, replay entries included. -/
def Strand.draining (f : Strand) : Bool := (f.results.any fun r => !r.written) || !f.replays.isEmpty

/-- Whether T waits for tokens in the core's task (R220). -/
def Core.tokenMode (k : Core) : Bool := k.task.any fun t => t.header.entryT = 0xFFFFFFFF

/-- The strand's part ends: a dormant context is dormant again, a T strand in token mode waits for its next token, whose
command then signals, and any other strand issues nothing until the core's next task. -/
def State.endPart (s : State) : State :=
  let s := s.onStrand Strand.abort
  match s.who with
  | .t 0 =>
    if s.core.tokenMode then
      let q := s.core.queue[(3 : Fin 8)]
      let q := { q with started := q.started.map fun c => { c with due := s.cycle + 1 } }
      let s := { s with core := { s.core with queue := s.core.queue.set (3 : Fin 8) q } }
      s.onStrand fun f => { f with run := .waiting }
    else s.onStrand fun f => { f with run := .ended }
  | .t _ => s.onStrand fun f => { f with run := .idle }
  | _ => s.onStrand fun f => { f with run := .ended }

/-- Whether an instruction that drains its strand waits: results of earlier groups are in flight (R34, R78). -/
def State.drains (s : State) : Bool := !s.grp.settled && s.strand.draining

/-- R116: ends the strand's part of the task, once its results are written. -/
def execTaskend (s : State) : Answer := if s.drains then s.await else issue s.endPart

/-- R117: ends the part, and on the A strand names the next overlay; x[a] = 0 there ends the task as `TASKEND` does (R306). -/
def execOvswap (a : Fin 64) (s : State) : Answer :=
  if s.drains then s.await
  else
    let v := s.xr a
    let t := s.endPart
    if s.who = .a && v != 0 then
      issue { t with core := { t.core with task := t.core.task.map fun (k : Task) => { k with swap := some v } } }
    else issue t

/-! ## Loop nests -/

/-- The descriptor's checks (R157). -/
def nestDescOk (d : BitVec 512) (b s : Nat) : Bool :=
  let v := d.toNat
  let stages := (List.range 32).map (nestStage d)
  v / 2 ^ 368 = 0 && bitsOf v 264 8 = 0 && bitsOf v 134 10 = 0 && bitsOf v 123 5 = 0 && nestDim d ≤ 5 &&
  ((List.range 6).all fun k => k ≤ nestDim d || (nestBound d k = 0 && nestStep d k = 0)) &&
  (stages.drop b).all (· = 0) && (stages.all fun g => if 1 ≤ s then g < s else g = 0)

/-- The product of the used bounds (R159). -/
def nestTrips (d : BitVec 512) : Nat := (List.range (nestDim d + 1)).foldl (fun acc k => acc * nestBound d k) 1

/-- The checks of R158 on one body group. -/
def checkBody (w : Who) (u : StrandUnit) (lim : Limits) (pl : Bool) (g : Fetched) (addr syl : Nat) : Option Finding :=
  if !g.inside then some (0x11, BitVec.ofNat 64 addr, BitVec.ofNat 64 addr)
  else match checkGroup w u lim pl g addr syl with
    | some c => some c
    | none =>
      if (instrsOf g.items).any fun i => isControl i || groupOf i = .nest || groupOf i = .spec then
        some (0x03, BitVec.ofNat 64 addr, BitVec.ofNat 64 syl)
      else none

/-- The syllables of a fetched group. -/
def syllables (word : Nat → Nat) (addr n : Nat) : List Nat := (List.range n).map fun j => word (addr + 4 * j)

/-- The B body groups from an address on, or the first failing one's finding with its address in tval (R158). -/
def State.fetchBody (s : State) : Nat → Nat → Except Finding (List (List Nat))
  | 0, _ => .ok []
  | n + 1, addr =>
    let g := s.fetchAt addr
    let word (a : Nat) : Nat := s.istore.nat a 4
    match checkBody s.who s.unit s.limits s.strand.pl g addr (word addr) with
    | some (c, _, orig) => .error (c, BitVec.ofNat 64 addr, if c = 0x11 then s.here else orig)
    | none =>
      match s.fetchBody n (addr + 4 * g.len) with
      | .ok gs => .ok (syllables word addr g.len :: gs)
      | .error e => .error e

/-- The pair (wN, wN+1) as a nest descriptor. -/
def State.nestDesc (s : State) (n : Fin 64) : BitVec 512 := pairOf s.unit n

/-- R156 to R160: checks the descriptor and the body, and starts the nest at its first body group. -/
def State.startNest (s : State) (n : Fin 64) (b : Nat) (rot : Bool) (stages : Nat) : Answer :=
  let d := s.nestDesc n
  if !nestDescOk d b stages then s.raise 0x07 (BitVec.ofNat 64 n.val) (BitVec.ofNat 64 (d.toNat % 2 ^ 64))
  else match s.fetchBody b s.grp.npc with
    | .error (c, tval, orig) => s.raise c tval orig
    | .ok body =>
      let nest : Nest := { desc := d, body := body, base := s.grp.npc, c := List.replicate 6 0, i := 0
                           trips := nestTrips d, s := stages, rot := rot, g := 0 }
      if nestTrips d = 0 then issue (s.jump nest.after)
      else issue (s.onStrand fun f => { f with
        nest := some nest, pc := s.grp.npc
        p := (List.range stages).foldl (fun (p : Vector Bool 16) j => p.set (physP f (Fin.ofNat 16 (8 + j))) (j == 0)) f.p })

/-- R156: a nest without rotation. -/
def execNest (d : Fin 64) (n : Fin 32) (s : State) : Answer := s.startNest d (n.val + 1) false 0

/-- R156: a rotating nest with S stages. -/
def execNestR (d : Fin 64) (n : Fin 32) (st : Fin 8) (s : State) : Answer := s.startNest d (n.val + 1) true st.val

/-! ## Return (R86, R261, R262) -/

/-- The checks of R262 on the nest state of a frame; `pl` is the level it resumes at. -/
def State.nestOk (s : State) (n : Nest) (pl : Bool) : Bool :=
  let one (g : Nat × List Nat) : Bool :=
    let addr := n.addrOf g.1
    let word (a : Nat) : Nat := g.2.getD ((a - addr) / 4) 0
    let f := fetchFrom word addr (addr + 4 * g.2.length) addr 9 0
    (checkBody s.who s.unit s.limits pl f addr (word addr)).isNone
  nestDescOk n.desc n.body.length n.s &&
  ((List.range (nestDim n.desc + 1)).all fun k => n.c.getD k 0 < nestBound n.desc k) &&
  n.i < n.trips + max n.s 1 - 1 && n.g < n.body.length && (n.body.zipIdx.all fun g => one (g.2, g.1))

/-- After a return the controller waits again for a jump that is still in its queue (R323). -/
def State.awaitJump (s : State) : State :=
  if s.onController && s.ctl.queue.waiting.any (fun c => hwBits c.image 0 6 6 = 6) then
    s.onStrand fun f => { f with run := .fragmentWait }
  else s

/-- R86: returns from a trap, once the handler's results are written. It reads the nest state from the trap frame, and with
RQ = 1 the descriptors (R161, R259); an invalid one raises `RECORD_INVALID`. -/
def execEret (s : State) : Answer :=
  let f := s.strand
  if s.drains then s.await
  else
    let area := f.traparea.toNat
    if s.spSize < area + 4096 then s.raise 0x14 f.traparea s.here
    else if s.spBad area 2048 then s.raise 0x30 f.traparea s.here
    else
      let frame := s.spRead area 2048
      let count := natOfBytes ((frame.drop 0x28).take 8)
      let nest := readNest frame f.epc.toNat
      match readDescriptors frame f.replayStore (if f.rq then bitsOf count 0 5 else 0) with
      | none => s.raise 0x15 f.traparea s.here
      | some entries =>
        if bitOf count 8 then
          if s.nestOk nest f.ppl then issue (s.eret entries (some nest)).awaitJump else s.raise 0x15 f.traparea s.here
        else issue (s.eret entries none).awaitJump

end Sys2Proof.Machine
end

