-- ==== Sys2Proof/Machine/Counters.lean ====
section
/-! DEFINITION. Local counters with their ceilings and the visibility of adds (R75, R106 to R108, R309); memory counters,
waiters and continuations (R101 to R105, R290, R353, R354). -/

namespace Sys2Proof.Machine

/-! ## Whole-machine updates -/

def State.onCluster (s : State) (die : Fin 24) (n : Fin 6) (g : Cluster → Cluster) : State :=
  let fix (c : Cluster) : Cluster := if c.die = die && c.number = n then g c else c
  { s with ctl := fix s.ctl, parkedCl := s.parkedCl.map fix }

def State.onCoreAt (s : State) (die : Fin 24) (cl : Fin 6) (n : Fin 8) (g : Core → Core) : State :=
  let fix (k : Core) : Core := if k.die = die && k.cluster = cl && k.number = n then g k else k
  { s with core := fix s.core, parked := s.parked.map fix }

def State.clusterAt (s : State) (die : Fin 24) (n : Fin 6) : Cluster :=
  ((s.ctl :: s.parkedCl).find? fun c => c.die = die && c.number = n).getD s.ctl

/-- The cores of the focus cluster, in ascending number. -/
def State.clusterCore (s : State) (n : Nat) : Core :=
  ((s.core :: s.parked).find? fun k => k.die = s.ctl.die && k.cluster = s.ctl.number && k.number.val = n).getD s.core

def State.onClusterCore (s : State) (n : Nat) (g : Core → Core) : State :=
  let fix (k : Core) : Core := if k.die = s.ctl.die && k.cluster = s.ctl.number && k.number.val = n then g k else k
  { s with core := fix s.core, parked := s.parked.map fix }

def mapNth {α : Type} (n : Nat) (g : α → α) : List α → List α
  | [] => []
  | a :: as => match n with
    | 0 => g a :: as
    | n + 1 => a :: mapNth n g as

/-! ## Local counters -/

/-- An agent that adds to a local counter or waits on one (R107): the core's number with the strand or the queue. -/
def agentOf (s : State) (w : Who) : Nat :=
  match w with
  | .a => 16 * s.core.number.val
  | .x => 16 * s.core.number.val + 1
  | .t _ => 16 * s.core.number.val + 2
  | .c => 0

/-- The agent of an engine queue. -/
def queueAgent (s : State) (q : Fin 8) : Nat := 16 * s.core.number.val + 3 + q.val

/-- Cycles after which an agent's add is visible to another (R75, R309). -/
def visibleAfter (adder reader : Nat) : Nat := if adder = reader then 1 else if adder / 16 = reader / 16 then 2 else 4

/-- The value an agent sees in a cycle: every applied add but those that are not visible to it yet. -/
def Counter.visible (c : Counter) (reader now : Nat) : Nat :=
  c.count.toNat - (c.recent.filter fun r => now < r.2.2 + visibleAfter r.1 reader).foldl (fun acc r => acc + r.2.1) 0

/-- The ceiling link in force for an add applied in a cycle (R106): a `KLINK` governs from its next cycle on. -/
def Counter.linkAt (c : Counter) (now : Nat) : Link :=
  match c.newLink with
  | some (since, l) => if since ≤ now then l else c.link
  | none => c.link

/-- The first core of the co-operative group of the focus core, where counters 48 to 63 are shared (R309). -/
def State.sharedGroup (s : State) : Option Nat :=
  match s.core.task with
  | some t => if 2 ≤ t.width then some (s.core.number.val - t.member) else none
  | none => none

def sharedList (cl : Cluster) (g : Nat) : List Counter :=
  ((cl.shared.find? fun e => e.1 = g).map (·.2)).getD (List.replicate 16 .reset)

/-- A local counter of the focus, seen by the controller or the core. -/
def State.counter (s : State) (ctl : Bool) (n : Fin 64) : Counter :=
  if ctl then s.ctl.k[n]
  else match s.sharedGroup with
    | some g => if 48 ≤ n.val then (sharedList s.ctl g).getD (n.val - 48) .reset else s.core.k[n]
    | none => s.core.k[n]

def State.setCounter (s : State) (ctl : Bool) (n : Fin 64) (c : Counter) : State :=
  if ctl then { s with ctl := { s.ctl with k := s.ctl.k.set n c } }
  else match s.sharedGroup with
    | some g =>
      if 48 ≤ n.val then
        { s with ctl := { s.ctl with
          shared := (g, (sharedList s.ctl g).set (n.val - 48) c) :: s.ctl.shared.filter fun e => e.1 != g } }
      else { s with core := { s.core with k := s.core.k.set n c } }
    | none => { s with core := { s.core with k := s.core.k.set n c } }

/-- C(N): the ceiling of a counter in a cycle (R108). -/
def State.ceiling (s : State) (ctl : Bool) (n : Fin 64) : Nat :=
  let l := (s.counter ctl n).linkAt s.cycle
  if l.linked then min ((s.counter ctl l.target).count.toNat + l.slack.toNat) (2 ^ 64 - 1) else 2 ^ 64 - 1

/-- An add of v by an agent, or none where the ceiling refuses it (R107, R108). -/
def State.addCounter (s : State) (ctl : Bool) (agent : Nat) (n : Fin 64) (v : Nat) : Option State :=
  let c := s.counter ctl n
  if s.ceiling ctl n < c.count.toNat + v then none
  else if v = 0 then some s
  else some (s.setCounter ctl n { c with
    count := BitVec.ofNat 64 (c.count.toNat + v)
    recent := (agent, v, s.cycle) :: c.recent.filter fun r => s.cycle < r.2.2 + 4 })

/-- R106, R107: adds x[a] to k[N]; past the ceiling the group traps `CEILING`. -/
def execKadd (d a : Fin 64) (s : State) : Answer :=
  match s.addCounter s.onController (agentOf s s.who) d (s.xr a).toNat with
  | none => s.raise 0x18 (BitVec.ofNat 64 d.val) (s.xr a)
  | some t => issue t

/-- R106: blocks until k[N] ≥ x[b]. -/
def execKwait (a b : Fin 64) (s : State) : Answer :=
  if (s.xr b).toNat ≤ (s.counter s.onController a).visible (agentOf s s.who) s.cycle then issue s else s.block

/-- R106: reads k[N]. -/
def execKread (d a : Fin 64) (s : State) : Answer :=
  issue (s.emitX d (BitVec.ofNat 64 ((s.counter s.onController a).visible (agentOf s s.who) s.cycle)) 2)

/-- R106, R108, R309: sets the ceiling link of kN to kM with slack x[b]; M = N removes it. A link between a shared and a
private counter raises `RECORD_INVALID`, with the counter's number in tval. -/
def execKlink (d a b : Fin 64) (s : State) : Answer :=
  if !s.onController && s.sharedGroup.isSome && decide (48 ≤ d.val) != decide (48 ≤ a.val) then
    s.raise 0x15 (BitVec.ofNat 64 d.val) s.here
  else
    let c := s.counter s.onController d
    let l : Link := if a = d then ⟨false, 0, 0⟩ else ⟨true, a, s.xr b⟩
    issue (s.setCounter s.onController d { c with link := c.linkAt s.cycle, newLink := some (s.cycle + 1, l) })

/-! ## Waiters (R353, R354) -/

/-- A registered continuation whose counter has reached its target: it becomes resumed work of its cluster once the save area
holds it (R105, R308). -/
def Cluster.releaseCont (c : Cluster) (waiter : Nat) : Cluster :=
  match c.conts.find? fun k => k.waiter = waiter with
  | none => c
  | some k =>
    if k.written then
      { c with
        conts := c.conts.filter fun j => j.waiter != waiter
        resumed := c.resumed ++ [(k.launch, .continuation { k with released := true })] }
    else { c with conts := c.conts.map fun j => if j.waiter = waiter then { j with released := true } else j }

/-- Releases one waiter: its continuation is enqueued, or its controller issues again (R290, R354). -/
def State.release (s : State) (w : Waiting) : State :=
  match w with
  | .continuation die cl n => s.onCluster die cl (·.releaseCont n)
  | .controller die cl => s.onCluster die cl fun c =>
      match c.c.run with
      | .counterWait _ _ _ => { c with c := { c.c with run := .running } }
      | _ => c

/-- Inserts a waiter behind those with an equal or lower target. -/
def insertWaiter (w : Waiter) : List Waiter → List Waiter
  | [] => [w]
  | v :: vs => if w.target.toNat < v.target.toNat then w :: v :: vs else v :: insertWaiter w vs

/-- Stores a new value in a memory counter of a partition and releases the waiters it satisfies: ascending targets, and
registration order among equal ones. -/
def State.setMemCounter (s : State) (n : Fin 16) (pa : Nat) (v : Nat) : State :=
  let hit (w : Waiter) : Bool := w.part = n && w.pa = pa && w.target.toNat ≤ v
  let due := (s.mod.waiters.filter hit).foldl (fun acc w => insertWaiter w acc) []
  let s := { s with mod := { s.mod with
    mem := s.mod.mem.writeNat pa 8 v, waiters := s.mod.waiters.filter fun w => !hit w } }
  due.foldl (fun t w => t.release w.who) s

/-- An add at the base die: `POISON` on a poisoned counter, `COUNTER_OVERFLOW` past 2^64 − 1, else the new state (R101, R354). -/
def State.addMem (s : State) (n : Fin 16) (pa : Nat) (v : Nat) : Except Nat State :=
  if poisonedIn s.mod.poison pa 8 then .error 0x30
  else
    let sum := s.mod.mem.nat pa 8 + v
    if 2 ^ 64 ≤ sum then .error 0x19
    else if v = 0 then .ok s
    else .ok (s.setMemCounter n pa sum)

/-- A whole counter add by the hardware of the focus at a virtual address: the checks of R89, then the add. -/
def State.addMemAt (s : State) (va : Word) (v : Nat) : Except Nat State :=
  match s.part with
  | none => .error 0x10
  | some n =>
    match checkAccess s.mod s.die s.tlbOf n accCounterAdd va 8 with
    | .error c => .error c
    | .ok pl => (s.note va pl false).addMem n pl.pa v

/-! ## Responses that hold the strand -/

/-- The strand's later groups wait for a response that returns after 14 cycles and writes a result. -/
def State.holdFor (s : State) (e : Effect) : State :=
  s.onStrand fun f => { f with hold := some ⟨s.cycle, s.cycle + 14, e, 0, none⟩ }

/-- The response carries a cause: nothing of the group takes effect, and it traps when the response returns (R84, R263). -/
def State.holdTrap (s : State) (code : Nat) (tval orig : Word) : Answer :=
  let h : Hold := ⟨s.cycle, s.cycle + 14, .flagsOnly, 0, some ⟨BitVec.ofNat 8 code, tval, orig, 0, false⟩⟩
  .next ((s.onStrand fun f => { f with hold := some h }).verdict .trapped)

/-! ## Memory-counter instructions -/

/-- R101: adds x[b] to the counter at x[a] as a release; the waiters it satisfies are released. -/
def execCadd (_c : Fin 8) (a b : Fin 64) (s : State) : Answer :=
  let va := s.xr a
  match s.part, s.place accCounterAdd va 8 with
  | some n, .ok pl =>
    match (s.note va pl false).addMem n pl.pa (s.xr b).toNat with
    | .ok t => issue (t.holdFor .flagsOnly)
    | .error 0x30 => s.holdTrap 0x30 va s.here
    | .error c => s.holdTrap c va (s.xr b)
  | _, .error c => s.raise c va s.here
  | none, .ok _ => s.raise 0x10 va s.here

/-- R102: reads the counter at x[a] as an acquire. -/
def execCread (d a : Fin 64) (_c : Fin 8) (s : State) : Answer :=
  let va := s.xr a
  match s.place accCounterRead va 8 with
  | .error c => s.raise c va s.here
  | .ok pl =>
    let bad := poisonedIn s.mod.poison pl.pa 8
    issue ((s.note va pl true).emitFull (.scalar d (BitVec.ofNat 64 (s.mod.mem.nat pl.pa 8))) 0 14 true
      (if bad then some va else none))

/-- The continuation descriptor of a template (R104). -/
structure ContDesc where
  scope : Nat
  cluster : Nat
  vmask : Nat
  smask : Nat

def contDesc (w : Tmpl) : ContDesc :=
  let v := w.toNat
  ⟨bitsOf v 144 3, bitsOf v 128 3, bitsOf v 64 64, bitsOf v 0 64⟩

def bitsSet (v : Nat) (n : Nat) : List Nat := (List.range n).filter (bitOf v)

/-- R104, and R290 on the controller. -/
def contDescOk (ctl : Bool) (w : Tmpl) : Bool :=
  let d := contDesc w
  w.toNat / 2 ^ 160 = 0 && bitsOf w.toNat 147 13 = 0 && bitsOf w.toNat 131 13 = 0 &&
  d.scope ≤ 4 && d.cluster != 6 && !bitOf d.smask 0 && (bitsSet d.smask 64).length ≤ 16 && (bitsSet d.vmask 64).length ≤ 8 &&
  (!ctl || (d.smask = 0 && d.vmask = 0 && d.cluster = 7))

/-- Waiter entries of a partition at one base die (R353). -/
def waitersAt (m : Module) (die stack : Nat) (n : Fin 16) : Nat :=
  (m.waiters.filter fun w => w.die.val = die && w.stack.val = stack && w.part = n).length

/-- The unsatisfied `CWAIT` of a task (R103, R105): the waiter is registered, the A strand ends its part, and the task ends. -/
def State.registerTask (s : State) (n : Fin 16) (pl : Place) (target : Word) (d : ContDesc) : State :=
  let id := s.mod.serial
  let cl : Fin 6 := if d.cluster = 7 then s.core.cluster else Fin.ofNat 6 d.cluster
  let w : Waiter :=
    ⟨Fin.ofNat 24 pl.home, Fin.ofNat 2 (homeStack pl.pa), n, pl.pa, target, .continuation s.core.die cl id⟩
  let k : Continuation := {
    a := .ended, x := .ended, t := .ended, wid := 0, prio := 0, seed := 0
    scalars := (bitsSet d.smask 64).map fun r => (Fin.ofNat 64 r, 0)
    vectors := (bitsSet d.vmask 64).map fun r => (Fin.ofNat 64 r, 0)
    scope := d.scope, cluster := cl.val, launch := (s.core.task.map (·.launch)).getD 0
    header := (s.core.task.map (·.header)).getD default, width := (s.core.task.map (·.width)).getD 1
    member := (s.core.task.map (·.member)).getD 0, set := s.core.task.bind (·.set)
    written := false, released := false, waiter := id }
  let s := { s with mod := { s.mod with waiters := s.mod.waiters ++ [w], serial := id + 1 } }
  let s := s.onCluster s.core.die cl fun c => { c with conts := c.conts ++ [k] }
  let s := { s with core := { s.core with task := s.core.task.map fun (t : Task) => { t with ending := some k } } }
  s.onStrand fun f => { f with run := .ended }

/-- The unsatisfied `CWAIT` of a cluster controller (R290): it registers one waiter and stops issue. -/
def State.registerController (s : State) (n : Fin 16) (pl : Place) (target : Word) (scope : Nat) : State :=
  let w : Waiter :=
    ⟨Fin.ofNat 24 pl.home, Fin.ofNat 2 (homeStack pl.pa), n, pl.pa, target, .controller s.ctl.die s.ctl.number⟩
  let s := { s with mod := { s.mod with waiters := s.mod.waiters ++ [w] } }
  s.onStrand fun f => { f with run := .counterWait pl.pa target scope }

/-- R103: compares the counter at x[a] with the target x[b]; satisfied, the strand continues after the response; otherwise
the waiter is registered and the task ends (R105), or the controller waits (R290). -/
def execCwait (d a b : Fin 64) (s : State) : Answer :=
  let va := s.xr a
  let w := s.unit.w[d]
  match s.part, s.place accCounterRead va 8 with
  | some n, .ok pl =>
    if !contDescOk s.onController w then
      s.raise 0x07 (BitVec.ofNat 64 d.val) (BitVec.ofNat 64 (w.toNat % 2 ^ 64))
    else
      let t := s.note va pl true
      if poisonedIn s.mod.poison pl.pa 8 then s.holdTrap 0x30 va s.here
      else if (s.xr b).toNat ≤ s.mod.mem.nat pl.pa 8 then issue (t.holdFor .flagsOnly)
      else if s.mod.parts[n].quota ≤ waitersAt s.mod pl.home (homeStack pl.pa) n then s.holdTrap 0x1A va (s.xr b)
      else if s.onController then issue (t.registerController n pl (s.xr b) (contDesc w).scope)
      else issue (t.registerTask n pl (s.xr b) (contDesc w))
  | _, .error c => s.raise c va s.here
  | none, .ok _ => s.raise 0x10 va s.here

end Sys2Proof.Machine
end

