-- ==== Sys2Proof/Machine/System.lean ====
section
/-! DEFINITION. System instructions (R118 to R120). -/

namespace Sys2Proof.Machine

/-- R118: nothing. -/
def execNop (s : State) : Answer := issue s

/-- R118: raises `SOFTWARE_TRAP`. -/
def execTrap (c : Fin 64) (s : State) : Answer := s.raise 0x09 (BitVec.ofNat 64 c.val) 0

/-- R118, R275: halts the core in FREEZE mode when the partition's DEBUG flag is 1; otherwise raises `BREAKPOINT`. The cluster
controller, which has no core to halt, stops at its group. -/
def execBrk (s : State) : Answer :=
  if !s.debugOn then s.raise 0x08 0 0
  else if s.onController then
    .next ((State.verdict { s with ctl := { s.ctl with c := Strand.freeze s.cycle s.ctl.c, stopped := true } }) .trapped)
  else .next ((s.haltAt s.cycle none).verdict .trapped)

/-- R118: the cycles since core reset. -/
def execRdcyc (d : Fin 64) (s : State) : Answer := issue (s.emitX d (BitVec.ofNat 64 (s.cycle - (if s.onController then s.ctl.since else s.core.since))) 1)

/-- The work identifier and the declared widths of the task (R297); without a task, zero and none. -/
def State.workId (s : State) : Word × List Nat :=
  if s.onController then (0, [])
  else match s.core.task with
    | some t => (t.wid, t.header.widths)
    | none => (0, [])

/-- A field of a work identifier: field 0 is the most significant (R297). -/
def widField (wid : Word) (widths : List Nat) (f : Nat) : Word :=
  if f < widths.length then
    BitVec.ofNat 64 (bitsOf wid.toNat ((widths.drop (f + 1)).foldl (· + ·) 0) (widths.getD f 0))
  else 0

/-- R119: a field of the work identifier, or with f = 7 the whole. -/
def execRdwid (d : Fin 64) (f : Fin 8) (s : State) : Answer :=
  let (wid, widths) := s.workId
  issue (s.emitX d (if f.val = 7 then wid else widField wid widths f.val) 1)

/-- The value of a system register (R73). -/
def State.sysreg (s : State) (n : Nat) : Word :=
  let f := s.strand
  match n with
  | 0x000 => statusWord s.who f
  | 0x001 => f.flags.zeroExtend 64
  | 0x002 => s.unit.seed
  | 0x003 => BitVec.ofNat 64 (f.vrb.toNat + 2 ^ 8 * f.prb.toNat)
  | 0x004 => s.stratid
  | 0x008 => f.handler
  | 0x009 => f.epc
  | 0x00A => f.cause
  | 0x00B => f.tval
  | 0x00C => f.traparea
  | 0x00D => f.kscr0
  | 0x00E => f.kscr1
  | 0x010 => s.unit.ibase
  | 0x011 => s.unit.ilimit
  | _ => 0

/-- R73, R118: reads a system register. -/
def execRdsr (d : Fin 64) (n : Fin 4096) (s : State) : Answer := issue (s.emitX d (s.sysreg n.val) 2)

/-- R73, R74, R118: writes a system register, effective 2 cycles later. -/
def execWrsr (n : Fin 4096) (a : Fin 64) (s : State) : Answer := issue (s.emit (.sysreg n.val (s.xr a)) 0 2)

/-- The queues that an engine code feeds (R190). -/
def queuesOfEngine (e : Nat) : List (Fin 8) :=
  match e with
  | 0 => [0] | 1 => [1] | 2 => [2, 7] | 3 => [3] | 4 => [4] | 5 => [5] | 6 => [6] | _ => []

/-- R120: blocks until every command that the strand issued to the selected engines has completed its signal phase. -/
def execFenceE (a : Fin 64) (s : State) : Answer :=
  let mask := (s.xr a).toNat
  let pending := !s.onController && (List.range 7).any fun e =>
    bitOf mask e && (queuesOfEngine e).any fun q =>
      (s.core.queue[q].waiting ++ s.core.queue[q].started).any fun c => c.by_ = s.who
  if pending then s.block else issue s

end Sys2Proof.Machine
end

