-- ==== Sys2Proof/Machine/Queues.lean ====
section
/-! DEFINITION. Engine queues: issue, the header's wait and signal, claims of tiles and rings, start, retirement, faults and
cancellation (R54, R55, R178 to R182, R190 to R196, R266, R267). -/

namespace Sys2Proof.Machine

/-! ## Queues -/

/-- The queue an image goes to (R190, R236, R292). -/
def queueOf (img : Image) : Fin 8 :=
  match engineOfImage img with
  | 0 => 0
  | 1 => 1
  | 2 =>
    match hwBits img 0 6 6 with
    | 0 => 2
    | 3 => if hwBits img 0 3 1 = 1 then 2 else 7
    | _ => 7
  | 3 => 3
  | 4 => 4
  | 5 => 5
  | 6 => 6
  | _ => 0

/-- Entries of a queue (R190, R292). -/
def queueDepth (ctl : Bool) (q : Fin 8) : Nat :=
  if ctl then 16
  else match q with
    | 0 => 16 | 1 => 64 | 2 => 8 | 3 => 8 | 4 => 16 | 5 => 16 | 6 => 16 | 7 => 8

def State.queue (s : State) (ctl : Bool) (q : Fin 8) : Queue := if ctl then s.ctl.queue else s.core.queue[q]

def State.putQueue (s : State) (ctl : Bool) (q : Fin 8) (v : Queue) : State :=
  if ctl then { s with ctl := { s.ctl with queue := v } } else { s with core := { s.core with queue := s.core.queue.set q v } }

def Queue.room (q : Queue) (depth : Nat) : Bool := q.waiting.length < depth

/-- The header fields of an image (R54). -/
def opOf (img : Image) : Nat := hwBits img 0 6 6
def flagOf (img : Image) (n : Nat) : Bool := bitOf (hw img 0) n
def waitEn (img : Image) : Bool := hwBits img 1 10 1 = 1
def sigEn (img : Image) : Bool := hwBits img 1 9 1 = 1
def waitK (img : Image) : Fin 64 := Fin.ofNat 64 (hwBits img 1 0 6)
def sigK (img : Image) : Fin 64 := Fin.ofNat 64 (hwBits img 3 10 6)
def sigInc (img : Image) : Nat := hwBits img 3 0 10

/-- The command of an image issued now by the strand that runs (R57, R207, R218, R231, R239). -/
def State.command (s : State) (n : Fin 64) (img : Image) (u : StrandUnit) : Command where
  image := img
  nest := if engineOfImage img = 1 then pairOf u (Fin.ofNat 64 (2 * hwBits img 12 0 5)) else 0
  by_ := s.who
  name := n
  seq := if s.onController then s.ctl.seq else s.core.seq
  number := 0
  seed := u.seed
  wid := (s.workId).1
  handle := if engineOfImage img = 2 then s.core.slots[(Fin.ofNat 8 (hwBits img 4 0 3) : Fin 8)] else none
  maskMode := s.core.maskMode
  maskBase := s.core.maskBase
  pl := s.strand.pl
  readAt := 0
  claims := []
  places := []
  records := []
  cursor := .start
  fault := none
  faultSeq := 0
  reported := false
  passed := none
  claimed := false
  paused := false
  due := 0
  flags := 0
  range := false
  nan := false
  status := 0
  statusAt := 0
  aux := 0

/-- The command enters its queue. -/
def State.enqueue (s : State) (c : Command) : State :=
  let ctl := s.onController
  let q := queueOf c.image
  let v := s.queue ctl q
  let s := s.putQueue ctl q { v with waiting := v.waiting ++ [c] }
  if ctl then
    -- a group that issues FRAG.JUMP ends its fragment (R323)
    let run := if opOf c.image = 6 then .fragmentWait else s.ctl.c.run
    { s with ctl := { s.ctl with seq := s.ctl.seq + 1, c := { s.ctl.c with run := run } } }
  else { s with core := { s.core with seq := s.core.seq + 1 } }

/-- Whether the queue of an image has room. -/
def State.hasRoom (s : State) (img : Image) : Bool :=
  (s.queue s.onController (queueOf img)).room (queueDepth s.onController (queueOf img))

/-- An issue of an image (R57, R114, R192): it waits for its templates, blocks on a full queue, or enters the queue. -/
def State.issueWide (s : State) (n : Fin 64) (img : Image) (andThen : State → State) : Answer :=
  if wideAwaits s n img then s.await
  else if s.hasRoom img then issue (andThen (s.enqueue (s.command n img s.unit)))
  else s.block

/-- R57: issues wN unmodified. -/
def execWgo (d : Fin 64) (s : State) : Answer := s.issueWide d (formImage s.unit d []) id

/-- R57, R192: issues wN if its queue has room, and says in p[K] whether it did. -/
def execWgoNb (d : Fin 64) (p : Fin 16) (s : State) : Answer :=
  let img := formImage s.unit d []
  if wideAwaits s d img then s.await
  else if s.hasRoom img then issue ((s.enqueue (s.command d img s.unit)).emitP p true 1)
  else issue (s.emitP p false 1)

/-- R59: issues wN with quarter q replaced by x[a]. -/
def execWpatch (d a : Fin 64) (q : Fin 8) (s : State) : Answer :=
  s.issueWide d (formImage s.unit d ((List.range 4).map fun j =>
    (4 * q.val + j, BitVec.ofNat 16 ((s.xr a).toNat / 2 ^ (16 * j))))) id

/-- The patches of the group to a template, this one included. -/
def State.patchList (s : State) (t k : Nat) (v : BitVec 16) : List (Nat × BitVec 16) :=
  ((s.grp.patches.filter fun q => q.1.val = t).map fun q => (q.2.1.val, q.2.2.1)) ++ [(k, v)]

/-- Writes the sticky patches into the template (R58). -/
def State.stick (s : State) (t : Fin 64) (ps : List (Nat × BitVec 16)) : State :=
  let u := s.unit
  let lo (w : Tmpl) (p : Nat × BitVec 16) : Tmpl := (setHw (w.zeroExtend 512) p.1 p.2).truncate 256
  let u1 := (ps.filter fun p => p.1 < 16).foldl (fun (u : StrandUnit) p => { u with w := u.w.set t (lo u.w[t] p) }) u
  let t' : Fin 64 := t + 1
  let u2 := (ps.filter fun p => 16 ≤ p.1).foldl
    (fun (u : StrandUnit) p => { u with w := u.w.set t' (lo u.w[t'] (p.1 - 16, p.2)) }) u1
  s.setUnitOf s.who u2

/-- The sticky patches of the group to a template. -/
def State.stickyList (s : State) (t : Fin 64) : List (Nat × BitVec 16) :=
  (s.grp.patches.filter fun q => q.1 = t && q.2.2.2).map fun q => (q.2.1.val, q.2.2.1)

/-- R58: issues wN with the patches of the group. -/
def execPw (t : Fin 64) (k : Fin 32) (v : BitVec 16) (s : State) : Answer :=
  s.issueWide t (formImage s.unit t (s.patchList t.val k.val v)) fun r => r.stick t (s.stickyList t)

/-- R58: as `PW`, and the halfword is also written into the template. -/
def execPwS (t : Fin 64) (k : Fin 32) (v : BitVec 16) (s : State) : Answer :=
  s.issueWide t (formImage s.unit t (s.patchList t.val k.val v)) fun r => r.stick t (s.stickyList t ++ [(k.val, v)])

/-! ## The head of a queue (R55, R191) -/

/-- The wait of R55: ((k[15:0] − target) mod 2^16) < 2^15. -/
def waitOk (count target : Nat) : Bool := (count % 2 ^ 16 + 2 ^ 16 - target) % 2 ^ 16 < 2 ^ 15

/-- Whether the wait phase of an image in a queue is satisfied. -/
def State.waitDone (s : State) (ctl : Bool) (q : Fin 8) (img : Image) : Bool :=
  !waitEn img || waitOk ((s.counter ctl (waitK img)).visible (if ctl then 3 else queueAgent s q) s.cycle) (hw img 2)

/-- A scratchpad operand as a command names it (R197, R209): an address, a tile read, a tile consumed or written, a ring. -/
inductive Operand where
  | at (a : Nat)
  | tile (t : Fin 64) (dest consume : Bool)
  | ring (r : Fin 8) (dest : Bool)
  deriving DecidableEq, Repr, Inhabited

/-- A ring word under a new definition, or undefined with its other fields kept (R222). -/
def redefined (w : Word) : Option Word → Word
  | some v => v
  | none => w &&& ~~~(BitVec.ofNat 64 (2 ^ 31))

/-- The ring with the definitions in force that claims use from a cycle on (R222). -/
def Ring.settled (r : Ring) (now : Nat) : Ring :=
  ⟨((r.changes.filter fun d => d.1 ≤ now).map (·.2)).foldl redefined r.word, r.changes.filter fun d => now < d.1⟩

/-- The ring word that a claim in a cycle uses (R222). -/
def Ring.at (r : Ring) (now : Nat) : Word := (r.settled now).word

/-- The ring word under its newest definition. -/
def Ring.latest (r : Ring) : Word := (r.changes.map (·.2)).foldl redefined r.word

/-- First tile, slot count, head and tail of a ring word (R179). -/
def ringFirst (w : Word) : Nat := bitsOf w.toNat 0 6
def ringCount (w : Word) : Nat := bitsOf w.toNat 8 4 + 1
def ringHead (w : Word) : Nat := bitsOf w.toNat 12 4
def ringTail (w : Word) : Nat := bitsOf w.toNat 16 4
def ringD (w : Word) : Bool := w.getLsbD 31

def setField (w : Word) (lo len v : Nat) : Word :=
  BitVec.ofNat 64 (w.toNat - bitsOf w.toNat lo len * 2 ^ lo + v % 2 ^ len * 2 ^ lo)

/-- The ring after its head or its tail has advanced. -/
def ringNext (w : Word) (dest : Bool) : Word :=
  if dest then setField w 16 4 ((ringTail w + 1) % ringCount w) else setField w 12 4 ((ringHead w + 1) % ringCount w)

/-- The tile an operand names now, or none where its ring is undefined. -/
def State.operandTile (s : State) : Operand → Option (Fin 64)
  | .at _ => none
  | .tile t _ _ => some t
  | .ring r dest =>
    let w := (s.core.ring[r]).at s.cycle
    if ringD w then some (Fin.ofNat 64 (ringFirst w + (if dest then ringTail w else ringHead w))) else none

def Operand.isDest : Operand → Bool
  | .at _ => false
  | .tile _ d _ => d
  | .ring _ d => d

/-- Whether the operand is claimed: a destination, or a source to be consumed. -/
def Operand.claims : Operand → Bool
  | .at _ => false
  | .tile _ d c => d || c
  | .ring _ _ => true

/-- What stands against an operand's claim (R178, R180, R197): nothing, a wait for a tile, or a fault. -/
inductive ClaimState where
  | ready | waits (t : Fin 64) | fault (addr : Nat)
  deriving DecidableEq, Repr, Inhabited

def State.claimState (s : State) (o : Operand) : ClaimState :=
  match o with
  | .at _ => .ready
  | o =>
    match s.operandTile o with
    | none => .fault (match o with
        | .ring r _ => r.val
        | _ => 0)
    | some t =>
      let w := s.core.tile[t]
      if !tileD w then .fault t.val
      else if o.isDest then (if tileF w || tileC w then .waits t else .ready)
      else if o.claims then (if tileF w && !tileC w then .ready else .waits t)
      else if tileF w then .ready
      else .waits t

def setTile (k : Core) (t : Fin 64) (w : Word) : Core := { k with tile := k.tile.set t w }

def tileWith (w : Word) (bit : Nat) (v : Bool) : Word := if v then w ||| BitVec.ofNat 64 (2 ^ bit) else w &&& ~~~(BitVec.ofNat 64 (2 ^ bit))

/-- The ring after a claim in a cycle has moved its head or its tail: the pointers of the definition that claims use (R180, R222). -/
def Ring.claimed (r : Ring) (now : Nat) (dest : Bool) : Ring :=
  let r := r.settled now
  { r with word := ringNext r.word dest }

/-- Makes a claim: the tile's C bit, the ring's pointer, and the command's list of claims; and the operand's place, its first
address and its length (a plain address has the rest of the scratchpad). -/
def State.claim (s : State) (c : Command) (o : Operand) : State × Command :=
  match o with
  | .at a => (s, { c with places := c.places ++ [(a, 2 ^ 22)] })
  | o =>
    match s.operandTile o with
    | none => (s, c)
    | some t =>
      let w := s.core.tile[t]
      let c := { c with places := c.places ++ [(tileBase w, tileBytes w)] }
      if o.claims then
        let k := setTile s.core t (tileWith w 61 true)
        let k := match o with
          | .ring r dest => { k with ring := k.ring.set r ((k.ring[r]).claimed s.cycle dest) }
          | _ => k
        ({ s with core := k }, { c with claims := c.claims ++ [⟨t, o.isDest, false⟩] })
      else (s, c)

/-- Makes the claims of a command in order, or says what stands against one of them; then none is made. -/
def State.claimAll (s : State) (c : Command) : List Operand → Except ClaimState (State × Command)
  | [] => .ok (s, c)
  | o :: os =>
    match s.claimState o with
    | .ready => let p := State.claim s c o; State.claimAll p.1 p.2 os
    | w => .error w

/-- Releases claims: at retirement destinations become full and consumed sources empty; a cancelled command's tiles keep F
(R178). -/
def Core.releaseClaims (k : Core) (cs : List Claim) (retire : Bool) : Core :=
  cs.foldl (fun k c =>
    let w := tileWith k.tile[c.tile] 61 false
    setTile k c.tile (if retire then tileWith w 63 c.dest else w)) k

/-! ## Faults (R195, R266, R267) -/

/-- The resume cursor of a record (R266). -/
def cursorBits (img : Image) (c : Cursor) : Nat :=
  if c.signal then 2 ^ 127
  else match engineOfImage img with
    | 0 => if opOf img = 0 then c.block % 2 ^ 16 + c.k % 2 ^ 16 * 2 ^ 16 else c.block % 64
    | 1 => ((c.c.take 6).zipIdx).foldl (fun acc p => acc + p.1 % 2 ^ 20 * 2 ^ (20 * p.2)) 0
    | 2 => c.entry % 2 ^ 32
    | 5 | 7 => c.entry % 2 ^ 127
    | _ => 0

/-- The engine fault record (R266). -/
def faultRecord (q : Fin 8) (c : Command) (f : EngineFault) : BitVec 512 :=
  BitVec.ofNat 512 (
    (f.code.toNat + q.val * 2 ^ 8 + engineOfImage c.image * 2 ^ 12 + opOf c.image * 2 ^ 16 + c.number % 512 * 2 ^ 22) +
    cursorBits c.image c.cursor * 2 ^ 64 + f.addr.toNat * 2 ^ 192 + f.extra.toNat * 2 ^ 256 + f.extra2.toNat * 2 ^ 320 +
    (c.image.toNat % 2 ^ 64) * 2 ^ 384)

/-- Drops every command of a queue, started ones included (R229). -/
def Queue.dropAll (q : Queue) : Queue :=
  { q with
    waiting := [], started := [], frozen := false
    last := if q.waiting.isEmpty && q.started.isEmpty then q.last else 0x0C }

/-- A queue of the core is cancelled as by `ECANCEL.ALL`. -/
def Core.cancelQueue (k : Core) (q : Fin 8) : Core :=
  let v := k.queue[q]
  let k := Core.releaseClaims k ((v.waiting ++ v.started).flatMap (·.claims)) false
  { k with queue := k.queue.set q v.dropAll }

/-- Whether the A strand of the core's task has ended by an unsatisfied `CWAIT`. -/
def Core.endsByCwait (k : Core) : Bool := k.task.any fun t => t.ending.isSome

/-- A command among the started ones, in their order of issue, which is that of their starts (R107, R191). -/
def insertStarted (c : Command) : List Command → List Command
  | [] => [c]
  | d :: ds => if c.seq < d.seq then c :: d :: ds else d :: insertStarted c ds

/-- A fault of a command of a queue: `c` is the command with its cursor set; the caller has taken it out of the queue, and it
returns to the started ones (`begun`) or to the head. The queue freezes and the issuing strand receives a report; after an
ending `CWAIT` the queue is cancelled instead, and the task's record says so (R267). -/
def State.faultCommand (s : State) (ctl : Bool) (q : Fin 8) (c : Command) (f : EngineFault) (begun : Bool) : State :=
  let n := if ctl then s.ctl.faults else s.core.faults
  let c := { c with fault := some f, faultSeq := n, due := 0, paused := false }
  let v := s.queue ctl q
  let v := if begun then { v with started := insertStarted c v.started, frozen := true } else { v with waiting := c :: v.waiting, frozen := true }
  let s := s.putQueue ctl q v
  let s := if ctl then { s with ctl := { s.ctl with faults := n + 1 } } else { s with core := { s.core with faults := n + 1 } }
  if !ctl && s.core.endsByCwait then
    let k := s.core.cancelQueue q
    { s with core := { k with task := k.task.map fun (t : Task) => { t with status := 0x0C } } }
  else s.setStrandOf c.by_ (let g := s.strandOf c.by_; { g with reports := g.reports ++ [(q.val, faultRecord q c f)] })

def mkFault (code : Nat) (addr : Nat) : EngineFault := ⟨BitVec.ofNat 8 code, BitVec.ofNat 64 addr, 0, 0⟩

/-! ## Start and retirement -/

/-- What an engine does with a command that starts or resumes: it performs accesses until the end, after which it signals
`dur` cycles later, until a fault, or until it must wait. -/
inductive Progress where
  | done (dur : Nat)
  | fault (f : EngineFault)
  /-- it waits at its cursor and is taken up again -/
  | pause
  deriving DecidableEq, Repr

/-- The command an engine takes up next on a queue: a started one that goes on at its cursor, also in a frozen queue, or else the head. The
boolean says it was started (R195). -/
def Queue.next (q : Queue) : Option (Command × Bool) :=
  match q.started.find? fun c => c.due = 0 && c.fault.isNone with
  | some c => some (c, true)
  | none => if q.frozen then none else q.waiting.head?.map fun c => (c, false)

/-- The queue without a command (commands have distinct issue numbers). -/
def Queue.remove (q : Queue) (seq : Nat) : Queue :=
  { q with waiting := q.waiting.filter fun c => c.seq != seq, started := q.started.filter fun c => c.seq != seq }

/-- A command that has performed its accesses waits for its retirement. -/
def State.begun (s : State) (ctl : Bool) (q : Fin 8) (c : Command) (dur : Nat) : State :=
  let v := s.queue ctl q
  s.putQueue ctl q { v with started := insertStarted { c with due := s.cycle + max 1 dur, paused := false } v.started }

/-- Applies a command's signal, or none where a ceiling refuses it. -/
def State.signal (s : State) (ctl : Bool) (q : Fin 8) (img : Image) : Option State :=
  if sigEn img then s.addCounter ctl (if ctl then 3 else queueAgent s q) (sigK img) (sigInc img) else some s

/-- The order of the queues within a cycle (R107): ascending engine code, queue 2 before queue 7. -/
def queueOrder : List (Fin 8) := [0, 1, 2, 7, 3, 4, 5, 6]

/-- The first started command of a queue whose retirement is due; a copy that starts a context waits for room (R182). -/
def State.dueCommand (s : State) (q : Fin 8) : Option Command :=
  s.core.queue[q].started.find? fun c =>
    c.fault.isNone && c.due != 0 && c.due ≤ s.cycle &&
    !(q = 1 && c.aux = 1 && !c.cursor.signal && 16 ≤ s.core.starts.length)

def State.retiring (s : State) : Option (Fin 8 × Command) :=
  queueOrder.findSome? fun q => (s.dueCommand q).map fun c => (q, c)

/-- The context start that a copy with HEN requests: handler, first address, span, tag (R216). -/
def startOf (c : Command) : StartRequest :=
  match c.places with
  | [_, (a, n)] => ⟨4 * hw c.image 15, BitVec.ofNat 64 a, BitVec.ofNat 64 n, BitVec.ofNat 64 (hw c.image 14)⟩
  | _ => ⟨4 * hw c.image 15, 0, 0, BitVec.ofNat 64 (hw c.image 14)⟩

/-- A registration takes effect when its command retires (R399). -/
def State.registerPool (s : State) (q : Fin 8) (c : Command) : State :=
  if q = 5 && opOf c.image = 0 && flagOf c.image 0 then
    let n := s.part.getD 0
    { s with mod := { s.mod with parts := s.mod.parts.set n { s.mod.parts[n] with
      pool := some { (default : Pool) with va := hwBits c.image 8 0 64, record := c.records.headD [] } } } }
  else s

/-- The command of the controller whose refused signal is to be retried (R108, R327). -/
def State.ctlRetiring (s : State) : Option Command :=
  s.ctl.queue.started.find? fun c => c.fault.isNone && c.due != 0 && c.due ≤ s.cycle

/-- A command's signal at its retirement: applied, it ends the command; refused, it freezes the queue at the signal phase
(R108). -/
def State.finishSignal (s : State) (ctl : Bool) (q : Fin 8) (c : Command) (andThen : State → State) : State :=
  match s.signal ctl q c.image with
  | none =>
    let c := { c with cursor := { c.cursor with signal := true }, claims := [] }
    s.faultCommand ctl q c ⟨0x18, BitVec.ofNat 64 (sigK c.image).val, BitVec.ofNat 64 (sigInc c.image), 0⟩ true
  | some s => andThen s

/-- R191: retires the command that is due: its operands are released, its flags join the queue's, and its signal is applied;
a refused signal freezes the queue at the signal phase (R108). -/
def execCommandRetire (s : State) : Answer :=
  match (if s.onController then none else s.retiring) with
  | none =>
    match s.ctlRetiring with
    | none => .fault .notEnabled
    | some c => .next ((s.putQueue true 0 (s.ctl.queue.remove c.seq)).finishSignal true 0 c id)
  | some (q, c) =>
    let v := (s.core.queue[q]).remove c.seq
    let s := { s with core := { s.core with queue := s.core.queue.set q v } }
    let s := if c.cursor.signal then s
      else
        let k := Core.releaseClaims s.core c.claims true
        { s with core := if q = 1 && c.aux = 1 then { k with starts := k.starts ++ [startOf c] } else k }
    .next (s.finishSignal false q c fun s =>
      let s := s.registerPool q c
      let v := s.core.queue[q]
      let v := { v with last := c.status, lastAt := c.statusAt, flags := v.flags ||| c.flags, range := v.range || c.range, nan := v.nan || c.nan, free := s.cycle + 1 }
      { s with core := { s.core with queue := s.core.queue.set q v } })

/-- A strand that has ended its part stands at its ending group again, which counts as not issued; of the A strand's `OVSWAP` nothing
remains (R267). -/
def State.reopened (s : State) : State :=
  let f := s.strand
  if f.run = .ended then
    let s := s.setStrand { f with pc := f.endGroup }
    if s.who = .a then { s with core := { s.core with task := s.core.task.map fun (t : Task) => { t with swap := none } } } else s
  else s

/-- R264, R267: the strand takes the report of the lowest queue, in fault order; a strand that has ended its part is
restarted at its ending group. A poison arrival that the entry finds replaces it, and the report stays. -/
def execEngineFaultReport (s : State) : Answer :=
  let f := s.strand
  let pick := f.reports.foldl (fun (acc : Option (Nat × BitVec 512)) r => match acc with
    | none => some r
    | some b => if r.1 < b.1 then some r else acc) none
  match pick with
  | none => .fault .notEnabled
  | some (q, rec) =>
    let t := State.reopened (if s.arriving.isEmpty then s.setStrand { f with reports := f.reports.erase (q, rec) } else s)
    .next (t.trapAt s.cycle t.strand.pc ⟨0x0C, BitVec.ofNat 64 q, 0, rec, true⟩)

/-! ## Cancellation and status (R196, R228, R229) -/

/-- The oldest faulted command of a queue. -/
def Queue.oldestFault (q : Queue) : Option Command :=
  (q.started ++ q.waiting).foldl (fun (acc : Option Command) c => match c.fault, acc with
    | none, a => a
    | some _, none => some c
    | some _, some a => if c.faultSeq < a.faultSeq then some c else some a) none

/-- The status word of a queue (R196). -/
def Queue.status (q : Queue) : Word :=
  let b (v : Bool) (n : Nat) : Nat := if v then 2 ^ n else 0
  let cause := match q.oldestFault with
    | some c => (c.fault.map (·.code.toNat)).getD 0
    | none => 0
  BitVec.ofNat 64 (b q.frozen 63 + (if q.frozen then cause * 2 ^ 48 else 0) + q.started.length % 512 * 2 ^ 32 +
    q.waiting.length % 128 * 2 ^ 16 + q.last.toNat * 2 ^ 8 + b q.range 7 + b q.nan 6 + q.flags.toNat)

/-- R228: reads a queue's status word. -/
def execEqstat (d : Fin 64) (q : Fin 8) (s : State) : Answer := issue (s.emitX d (s.core.queue[q]).status 2)

/-- R228: reads it and clears the flags, RANGE and NAN. -/
def execEqstatC (d : Fin 64) (q : Fin 8) (s : State) : Answer :=
  let v := s.core.queue[q]
  issue ((s.putQueue false q { v with flags := 0, range := false, nan := false }).emitX d v.status 2)

/-- A resumed command: its fault is gone, and a refused signal is retried in the same cycle (R281). -/
def Command.resumed (c : Command) (now : Nat) : Command :=
  if c.fault.isSome then { c with fault := none, due := if c.cursor.signal then max 1 now else 0 } else c

/-- R229: resumes a frozen queue. -/
def execEcancelRes (q : Fin 8) (s : State) : Answer :=
  let v := s.queue s.onController q
  if v.frozen then
    issue (s.putQueue s.onController q { v with
      frozen := false, waiting := v.waiting.map (·.resumed s.cycle), started := v.started.map (·.resumed s.cycle) })
  else issue s

/-- Releases the claims of a dropped command; the controller's commands have none. -/
def State.dropClaims (s : State) (cs : List Claim) : State :=
  if s.onController then s else { s with core := Core.releaseClaims s.core cs false }

/-- R229, R267: drops the oldest faulted command; the queue stays frozen while others are faulted. -/
def execEcancelOne (q : Fin 8) (s : State) : Answer :=
  let v := s.queue s.onController q
  match v.oldestFault with
  | some c =>
    if v.frozen then
      let v := v.remove c.seq
      let v := { v with frozen := (v.waiting ++ v.started).any fun d => d.fault.isSome, last := 0x0C }
      issue ((s.dropClaims c.claims).putQueue s.onController q v)
    else issue s
  | none => issue s

/-- R229: drops every command of the queue. The spec does not say what becomes of a token that runs on the T strand for a dropped
`TSTART`: the model lets it run on to its `TASKEND`, which no command then awaits (DESIGN CHOICE, log entry 115). -/
def execEcancelAll (q : Fin 8) (s : State) : Answer :=
  let v := s.queue s.onController q
  issue ((s.dropClaims ((v.waiting ++ v.started).flatMap (·.claims))).putQueue s.onController q v.dropAll)

end Sys2Proof.Machine
end

