-- ==== Sys2Proof/Machine/Images.lean ====
section
/-! DEFINITION. The images of matrix, copy, transform and attention commands: the checks of R194 that their entries list, and
the scratchpad operands they claim (R197 to R216, R219, R235 to R238). -/

namespace Sys2Proof.Machine

/-- Whether halfwords lo to hi of an image are zero. -/
def hwZero (img : Image) (lo hi : Nat) : Bool := (List.range (hi + 1 - lo)).all fun j => hw img (lo + j) = 0

/-- Whether the core's task has a co-operative width of 2, 4 or 8. -/
def Core.cooperative (k : Core) : Bool := k.task.any fun t => 2 ≤ t.width

/-- A 32-bit field over two halfwords. -/
def hw32 (img : Image) (h : Nat) : Nat := hwBits img h 0 32

/-- Bits [63:57] of an address quarter are zero (R208, R293). -/
def addrOk (v : Nat) : Bool := v < 2 ^ 57

/-- An address quarter of a command whose checks ask for a canonical address (R293, R347, R419, R433): bits [63:57] are zero, and so is then
bit 56 (R89). -/
def headAddrOk (v align : Nat) : Bool := v < 2 ^ 56 && v % align = 0

/-! ## Locators (R197) -/

def locOk (mode loc : Nat) : Bool :=
  match mode with
  | 0 => loc < 2 ^ 15
  | 1 | 2 => loc < 64
  | 3 => loc < 8
  | _ => false

def srcOperand (mode loc : Nat) : Operand :=
  match mode with
  | 0 => .at (128 * loc)
  | 1 => .tile (Fin.ofNat 64 loc) false false
  | 2 => .tile (Fin.ofNat 64 loc) false true
  | _ => .ring (Fin.ofNat 8 loc) false

def dstOperand (mode loc : Nat) : Operand :=
  match mode with
  | 0 => .at (128 * loc)
  | 1 => .tile (Fin.ofNat 64 loc) true false
  | _ => .ring (Fin.ofNat 8 loc) true

/-! ## Matrix -/

def tilePlane (img : Image) : Nat := hwBits img 7 6 5
def tileRb (img : Image) : Nat := hwBits img 7 3 3
def tileCb (img : Image) : Nat := hwBits img 7 0 3
def tileBlocks (img : Image) : Nat := (tileRb img + 1) * (tileCb img + 1)
/-- Columns of the tile. -/
def tileCols (img : Image) : Nat := 128 * (tileCb img + 1)

/-- Signed 10-bit anchor of halfword 9. -/
def anchorOf (img : Image) : Int := signedOf 10 (hwBits img 9 0 10)

/-- The destination formats of a drain, in code order (R202): an element type or an MX format. -/
inductive DrainFmt where
  | elem (t : ElemType)
  | mx (f : MxFormat)
  deriving DecidableEq, Repr, Inhabited

def drainFmt : Nat → Option DrainFmt
  | 0 => some (.elem .f32)
  | 1 => some (.elem .bf16)
  | 2 => some (.elem .f16)
  | 3 => some (.elem .e4m3)
  | 4 => some (.elem .e5m2)
  | 5 => some (.mx .e4m3)
  | 6 => some (.mx .e5m2)
  | 7 => some (.mx .e3m2)
  | 8 => some (.mx .e2m3)
  | 9 => some (.mx .e2m1)
  | 10 => some (.mx .int8)
  | _ => none

/-- Bytes of an MX slot class code (R202). -/
def slotBytes : Nat → Nat
  | 0 => 18 | 1 => 26 | _ => 34

/-- First block and block count of a drain, zero or load (R201). -/
def rangeUb (img : Image) : Nat := hwBits img 6 0 6
def rangeNb (img : Image) : Nat := hwBits img 6 6 6 + 1

/-- The pitch rule of R201 for elements of s bytes. -/
def pitchOk (img : Image) (s : Nat) : Bool := tileCols img * s ≤ hw img 8 && hw img 8 % s = 0

def mmaOk (coop : Bool) (img : Image) : Bool :=
  let am := hwBits img 6 12 4
  let bm := hwBits img 6 8 4
  let af := hwBits img 6 4 4
  let bf := hwBits img 6 0 4
  hwZero img 10 15 && hwBits img 9 10 6 = 0 && hwBits img 7 11 5 = 0 &&
  locOk am (hw img 4) && locOk bm (hw img 5) && af ≤ 4 && bf ≤ 4 && (min af 2 = min bf 2) &&
  (flagOf img 0 || hwBits img 9 0 10 = 0) && (!flagOf img 0 || tilePlane img % 4 = 0) && (!flagOf img 2 || coop)

/-- The shared checks of R201. That the first plane of an ACCX tile is a multiple of 4 is a check of `MMA` alone (R199): these
operations run on other planes too (DEDUCED, log entry 119). -/
def rangeOk (coop : Bool) (img : Image) : Bool :=
  hwBits img 7 11 5 = 0 && hwBits img 6 12 4 = 0 && rangeUb img + rangeNb img ≤ tileBlocks img && (!flagOf img 1 || coop)

def mdrainOk (coop : Bool) (img : Image) : Bool :=
  let dm := hwBits img 5 12 4
  let slot := hwBits img 5 0 2
  rangeOk coop img && dm != 2 && locOk dm (hw img 4) && hwBits img 5 5 3 ≤ 5 && hwBits img 5 2 2 = 0 && hw img 11 = 0 &&
  hwBits img 9 10 6 = 0 && addrOk (quarter img 3) &&
  (match drainFmt (hwBits img 5 8 4) with
    | none => false
    | some (.elem t) => slot = 0 && pitchOk img (t.width / 8)
    | some (.mx f) => slot != 3 && f.fits (slotBytes slot) && tileCols img / 32 * slotBytes slot ≤ hw img 8 && hw img 8 % 2 = 0)

def mzeroOk (coop : Bool) (img : Image) : Bool := rangeOk coop img && hwZero img 4 5 && hwZero img 8 15

/-- Bytes of a source element of a load (R204). -/
def loadBytes : Nat → Nat
  | 0 => 4 | 1 => 2 | 2 => 2 | _ => 16

def mloadOk (coop : Bool) (img : Image) : Bool :=
  let f := hwBits img 5 8 4
  rangeOk coop img && locOk (hwBits img 5 12 4) (hw img 4) && f ≤ 3 && hwBits img 5 0 8 = 0 && (f != 3 || flagOf img 0) &&
  hwBits img 9 10 6 = 0 && hwZero img 10 15 && pitchOk img (loadBytes f)

/-! ## Copy (R207 to R216, R235) -/

def cnestBound (n : Image) (d : Nat) : Nat := n.toNat / 2 ^ (20 * d) % 2 ^ 20
def cnestDim (n : Image) : Nat := n.toNat / 2 ^ 120 % 8
/-- The raw stride fields. -/
def cnestSraw (n : Image) (d : Nat) : Nat := n.toNat / 2 ^ (128 + 32 * d) % 2 ^ 32
def cnestDraw (n : Image) (d : Nat) : Nat := n.toNat / 2 ^ (320 + 24 * d) % 2 ^ 24
def cnestS (n : Image) (d : Nat) : Int := signedOf 32 (cnestSraw n d)
def cnestD (n : Image) (d : Nat) : Int := signedOf 24 (cnestDraw n d)

def copySmode (img : Image) : Nat := hwBits img 12 12 4
def copyDmode (img : Image) : Nat := hwBits img 12 8 4
def copySfmt (img : Image) : ElemType := ElemType.ofCode (hwBits img 13 12 4)
def copyDfmt (img : Image) : ElemType := ElemType.ofCode (hwBits img 13 8 4)
def copySrc (img : Image) : Nat := quarter img 1
def copyDst (img : Image) : Nat := quarter img 2
def copyTable (img : Image) : Nat := hwBits img 16 0 22
def copyIdim (img : Image) : Nat := hwBits img 17 6 3
/-- lo and sext of dimension d of a pad (R208). -/
def padLo (img : Image) (d : Nat) : Nat := hw32 img (20 + 2 * d) / 2 ^ 20
def padExt (img : Image) (d : Nat) : Nat := hw32 img (20 + 2 * d) % 2 ^ 20

/-- The base of a side under its mode (R209). -/
def baseOk (mode base : Nat) (dest : Bool) : Bool :=
  match mode with
  | 0 => addrOk base
  | 1 => addrOk base && base % 128 = 0
  | 2 => base < 2 ^ 22
  | 3 => base < 64
  | 4 => !dest && base < 64
  | 5 => base < 8
  | _ => false

/-- The nest's checks (R207, R209): unused dimensions are zero, and on a tensor side the stride fields hold start coordinates. -/
def cnestOk (n : Image) (smode dmode : Nat) : Bool :=
  n.toNat / 2 ^ 464 = 0 && n.toNat / 2 ^ 123 % 32 = 0 && cnestDim n ≤ 5 &&
  ((List.range 6).all fun d =>
    (d ≤ cnestDim n || (cnestBound n d = 0 && cnestSraw n d = 0 && cnestDraw n d = 0)) &&
    (smode != 1 || cnestSraw n d < 2 ^ 20) && (dmode != 1 || cnestDraw n d < 2 ^ 20))

/-- The rounding code of a copy (R210). -/
def copyRmOk (img : Image) : Bool :=
  let s := copySfmt img
  let d := copyDfmt img
  match Rm.ofCode (hwBits img 13 5 3) with
  | none => false
  | some .sr => d.isFloat && d != s && d.width ≤ s.width
  | some _ => true

def copyOk (c : Command) : Bool :=
  let img := c.image
  let n := c.nest
  let op := opOf img
  let sm := copySmode img
  let dm := copyDmode img
  hwBits img 13 0 4 = 0 && hwBits img 12 5 3 = 0 && hwBits img 17 9 7 = 0 &&
  cnestOk n sm dm && baseOk sm (copySrc img) false && baseOk dm (copyDst img) true && copyRmOk img &&
  (if op = 3 then true else hwZero img 18 31) &&
  (if op = 2 || op = 4 then copyTable img % 4 = 0 && copyIdim img ≤ cnestDim n else hw img 16 = 0 && hw img 17 = 0) &&
  (if op = 1 then 1 ≤ cnestDim n else true) &&
  (if op = 2 then sm ≤ 1 else true) &&
  (if op = 4 then sm = 0 && (copySfmt img).width != 4 && (dm = 2 || dm = 3 || dm = 5) && hwBits img 13 4 8 = 0 &&
      !flagOf img 0 && !flagOf img 2 else true) &&
  (if flagOf img 2 then
      let g := (copyDfmt img).width / (copySfmt img).width
      (copyDfmt img).width % (copySfmt img).width = 0 && (g = 2 || g = 4) && cnestD n 0 = 1 &&
      cnestBound n 0 % (copySfmt img).count = 0
    else true) &&
  (if flagOf img 0 then copySfmt img = copyDfmt img else true) &&
  (if flagOf img 1 then dm = 2 || dm = 3 || dm = 5 else true)

/-- The source and destination of a copy; memory sides claim nothing. -/
def copyOperands (img : Image) : List Operand :=
  (match copySmode img with
    | 3 => .tile (Fin.ofNat 64 (copySrc img)) false false
    | 4 => .tile (Fin.ofNat 64 (copySrc img)) false true
    | 5 => .ring (Fin.ofNat 8 (copySrc img)) false
    | _ => .at (copySrc img)) ::
  [match copyDmode img with
    | 3 => .tile (Fin.ofNat 64 (copyDst img)) true false
    | 5 => .ring (Fin.ofNat 8 (copyDst img)) true
    | _ => .at (copyDst img)]

/-! ## Transform (R219) -/

def tstartOk (img : Image) : Bool := hwZero img 5 7

/-! ## Tile cache (R347) -/

def tcArg (img : Image) : Nat := hw32 img 14

def tcOk (img : Image) : Bool :=
  let op := opOf img
  let arg := tcArg img
  hwBits img 0 1 5 = 0 && headAddrOk (quarter img 1) 128 &&
  (if op = 3 || op = 4 || op = 5 then hwZero img 8 13 && arg = 0 else true) &&
  (if op = 4 || op = 5 then true else !flagOf img 0) &&
  (match op with
    | 0 => arg < 2 ^ 22 && arg % 8 = 0
    | 1 => arg < 2 ^ 26
    | 2 => arg < 2 ^ 30 && arg % 128 = 0 && arg / 2 ^ 22 != 0
    | _ => true)

/-! ## Attention (R237, R238) -/

/-- Whether an attention command runs on the OPA. -/
def attOpa (img : Image) : Bool := opOf img = 0 || (opOf img = 3 && flagOf img 3)
def attStart (img : Image) : Nat := hwBits img 0 0 2
def attFin (img : Image) : Bool := flagOf img 2
def attQmode (img : Image) : Nat := hwBits img 8 12 4
def attOmode (img : Image) : Nat := hwBits img 8 8 4
def attNq (img : Image) : Nat := hwBits img 10 8 4

/-- A positive finite binary32 (R237). -/
def scaleOk (v : Nat) : Bool := 0 < v && v < 0x7F800000

def isNanF32 (v : Nat) : Bool := (decodeElem .f32 v).isNan

def attOk (coop : Bool) (img : Image) : Bool :=
  let op := opOf img
  let opa := attOpa img
  let ssel := op = 2
  let range := op != 3
  -- reserved fields and codes
  hwZero img 29 31 && hw img 11 = 0 && hwBits img 10 12 3 = 0 && hwBits img 9 10 6 = 0 && hwBits img 8 0 3 = 0 &&
  hwBits img 4 6 2 = 0 && attStart img ≤ 2 &&
  hw32 img 24 < 2 ^ 22 && hw32 img 24 % 32 = 0 && hw32 img 22 < 2 ^ 22 && hw32 img 22 % 4 = 0 &&
  hw32 img 20 < 2 ^ 22 && hw32 img 20 % 8 = 0 &&
  attQmode img ≤ 2 && locOk (attQmode img) (hw img 6) &&
  (ssel || ((attOmode img = 0 || attOmode img = 1 || attOmode img = 3) && locOk (attOmode img) (hw img 7))) &&
  hwBits img 8 6 2 ≤ 2 && (match hwBits img 8 3 3 with | 4 | 6 | 7 => false | _ => true) &&
  scaleOk (hw32 img 14) && hwBits img 10 0 5 % 4 = 0 &&
  -- fields the op does not use
  (ssel || (hw img 28 = 0 && hw32 img 26 = 0 && !flagOf img 4)) &&
  (opa || hw32 img 24 = 0) && (ssel || op = 3 || hw32 img 22 = 0) && (range || (hw32 img 16 = 0 && hw32 img 18 = 0)) &&
  (opa || (hwBits img 10 5 3 = 0 && hwBits img 10 0 5 = 0)) && (!opa || (hwBits img 10 8 4 = 0 && hwBits img 10 15 1 = 0)) &&
  (!ssel || (hwBits img 4 3 3 = 0 && hw img 7 = 0 && hwBits img 8 3 9 = 0 && hw img 9 = 0 && hwBits img 10 15 1 = 0 &&
    attStart img = 0 && !attFin img)) &&
  (op != 1 || !flagOf img 3) && (op != 0 || !flagOf img 3 || coop) &&
  -- SSEL
  (!ssel || (hw img 28 != 0 && (if flagOf img 4 then !isNanF32 (hw32 img 26) else hw32 img 26 < 2 ^ 16)))

/-- The query and, when outputs are written, the output of an attention command: one with FIN = 0 writes none, and R178 does not say
whether it claims their tile, or ring slot, which the model leaves unclaimed (DESIGN CHOICE, log entry 141). -/
def attOperands (img : Image) : List Operand :=
  srcOperand (attQmode img) (hw img 6) ::
  (if opOf img != 2 && attFin img then [dstOperand (attOmode img) (hw img 7)] else [])

end Sys2Proof.Machine
end

