-- ==== Sys2Proof/Machine/Tensor.lean ====
section
/-! DEFINITION. Tensor records and the record cache (R217, R218, R226, R227), the tagged L2 (R342 to R345), and the accesses
that engines make to memory and to the scratchpad (R89, R168, R171, R175). -/

namespace Sys2Proof.Machine

/-- A tensor record's fields (R217). -/
structure TensorRec where
  base : Nat
  id : Nat
  fmt : ElemType
  ndim : Nat
  v : Bool
  home : Nat
  die : Nat
  cluster : Nat
  ext : List Nat
  stride : List Int
  tile : List Nat
  reserved : Bool
  deriving DecidableEq, Repr, Inhabited

def parseRec (bs : List Byte) : TensorRec :=
  let word (o n : Nat) : Nat := natOfBytes ((bs.drop o).take n)
  let a := word 8 4
  let h := word 12 4
  { base := word 0 8, id := bitsOf a 0 20, fmt := ElemType.ofCode (bitsOf a 24 4), ndim := bitsOf a 28 3, v := bitOf a 31
    home := bitsOf h 0 3, die := bitsOf h 3 5, cluster := bitsOf h 8 3
    ext := (List.range 6).map fun d => word (16 + 4 * d) 4
    stride := (List.range 6).map fun d => signedOf 64 (word (40 + 8 * d) 8)
    tile := (List.range 6).map fun d => word (88 + 2 * d) 2
    reserved := bitsOf a 20 4 != 0 || bitsOf h 11 21 != 0 || word 100 28 != 0 }

def isPow2 (n : Nat) : Bool := n != 0 && 2 ^ Nat.log2 n = n

/-- The checks of R217 on a record by itself. -/
def TensorRec.ok (r : TensorRec) : Bool :=
  r.v && !r.reserved && r.base < 2 ^ 57 && r.id != 0 && r.ndim ≤ 5 && r.home ≤ 3 &&
  ((List.range 6).all fun d =>
    if d ≤ r.ndim then isPow2 (r.tile.getD d 0) && r.tile.getD d 0 ≤ 32768
    else r.ext.getD d 0 = 0 && r.stride.getD d 0 = 0 && r.tile.getD d 0 = 0) &&
  (r.fmt.width != 4 || r.stride.getD 0 0 = 0)

/-- Whether a coordinate is in extent (R217). -/
def TensorRec.inside (r : TensorRec) (x : List Int) : Bool :=
  (List.range x.length).all fun d => if d ≤ r.ndim then 0 ≤ x.getD d 0 && x.getD d 0 < r.ext.getD d 0 else x.getD d 0 = 0

/-- The byte address of a coordinate, and for a 4-bit format whether it is the high nibble (R217). -/
def TensorRec.address (r : TensorRec) (x : List Int) : Nat × Bool :=
  if r.fmt.width = 4 then
    let off := (List.range r.ndim).foldl (fun (acc : Int) d => acc + x.getD (d + 1) 0 * r.stride.getD (d + 1) 0) 0
    let c0 := (x.getD 0 0).toNat
    ((((r.base : Int) + off) % (2 ^ 64 : Nat)).toNat + c0 / 2, c0 % 2 = 1)
  else
    let off := (List.range (r.ndim + 1)).foldl (fun (acc : Int) d => acc + x.getD d 0 * r.stride.getD d 0) 0
    ((((r.base : Int) + off) % (2 ^ 64 : Nat)).toNat, false)

/-- nt_d of R343. -/
def TensorRec.nt (r : TensorRec) (d : Nat) : Nat := (r.ext.getD d 0 + r.tile.getD d 1 - 1) / max 1 (r.tile.getD d 1)

/-- The tile coordinates of an element, and its linear tile index T (R343). -/
def TensorRec.tileOf (r : TensorRec) (x : List Int) : List Nat :=
  (List.range (r.ndim + 1)).map fun d => (x.getD d 0).toNat / max 1 (r.tile.getD d 1)

def TensorRec.linear (r : TensorRec) (t : List Nat) : Nat :=
  ((List.range (r.ndim + 1)).foldl (fun (acc : Nat × Nat) d => (acc.1 + t.getD d 0 * acc.2, acc.2 * r.nt d)) (0, 1)).1

def TensorRec.origin (r : TensorRec) (t : List Nat) : Nat :=
  (r.address ((List.range (r.ndim + 1)).map fun d => ((t.getD d 0 * r.tile.getD d 1 : Nat) : Int))).1

/-- The conditions of R343 that do not depend on an element. -/
def TensorRec.tagOk (r : TensorRec) : Bool :=
  r.base % 128 = 0 && (if r.fmt.width = 4 then true else r.stride.getD 0 0 = r.fmt.width / 8) &&
  r.tile.getD 0 0 * r.fmt.width % 1024 = 0 &&
  ((List.range r.ndim).all fun d => r.stride.getD (d + 1) 0 % 128 = 0) &&
  (List.range (r.ndim + 1)).foldl (fun acc d => acc * r.nt d) 1 ≤ 2 ^ 20

/-- The home die of a tile under the record's map, or none where the record breaks R344. -/
def TensorRec.homeOf (r : TensorRec) (p : Partition) (t : List Nat) : Option Nat :=
  if 23 < r.die then none
  else match r.home with
    | 0 => some r.die
    | 1 => if 1 ≤ r.ndim then some ((r.die + t.getD 1 0) % 24) else none
    | 2 => some ((r.die + t.getD 0 0) % 24)
    | _ => if r.cluster ≤ 5 && p.hasCluster (6 * r.die + r.cluster) then some r.die else none

/-- The tag of an element's line: T × 2^20 + L, or none where R343 or R344 is broken. -/
def TensorRec.tag (r : TensorRec) (p : Partition) (x : List Int) (home : Nat) : Option Nat :=
  let t := r.tileOf x
  let l : Int := ((r.address x).1 / 128 : Nat) - (r.origin t / 128 : Nat)
  if r.tagOk && r.homeOf p t = some home && 0 ≤ l && l < 2 ^ 20 then some (r.linear t * 2 ^ 20 + l.toNat) else none

/-! ## The tagged L2 -/

def lineOf (m : Module) (n : Fin 16) (id coord : Nat) : Option L2Line := m.l2.find? (·.tagged n id coord)

/-- Whether an L2 line is a copy of a line under an id: a record whose elements share bytes gives one line several coords, and their copies
agree (R343, R362). -/
def L2Line.copies (l : L2Line) (n : Fin 16) (id line : Nat) : Bool := l.part = n && l.id = id && l.line = line

/-- The L2's copy of a line under an id, where it holds one. -/
def copyOf (m : Module) (n : Fin 16) (id line : Nat) : Option L2Line := m.l2.find? (·.copies n id line)

/-- A read of a tensor-mode access to a TENSOR page: the L2's copy of the line where it holds one, else the memory. -/
def tagRead (m : Module) (n : Fin 16) (id pa len : Nat) : List Byte × Bool :=
  match copyOf m n id (pa / 128) with
  | some l => ((l.data.drop (pa % 128)).take len, l.poison)
  | none => (m.mem.read pa len, poisonedIn m.poison pa len)

/-- The line under a tag as the L2 holds it, or as it comes: from another copy under its id, else from memory. -/
def tagLine (m : Module) (n : Fin 16) (id coord line home : Nat) : L2Line :=
  (lineOf m n id coord).getD <| match copyOf m n id line with
    | some l => ⟨n, id, coord, line, home, l.data, l.dirty, false, l.poison⟩
    | none => ⟨n, id, coord, line, home, m.mem.read (128 * line) 128, false, false, m.poison.contains line⟩

/-- A write: the line in the L2 takes it and is dirty, as does every copy of it under its id. -/
def tagWrite (m : Module) (n : Fin 16) (id coord pa home : Nat) (bs : List Byte) : Module :=
  let old := tagLine m n id coord (pa / 128) home
  let data := old.data.take (pa % 128) ++ bs ++ old.data.drop (pa % 128 + bs.length)
  let put (l : L2Line) : L2Line := { l with data := data, dirty := true, poison := old.poison && bs.length < 128 }
  setLine { m with l2 := m.l2.map fun l => if l.copies n id (pa / 128) then put l else l } (put old)

/-! ## Engine accesses -/

/-- Bytes of the core's scratchpad (R168, R175). -/
def State.engRead (s : State) (a n : Nat) : Except EngineFault (List Byte) :=
  if n = 0 then .ok []
  else if 262144 * s.core.ways < a + n then .error (mkFault 0x14 a)
  else if poisonedIn s.core.scratchPoison a n then .error (mkFault 0x30 a)
  else .ok (s.core.scratch.read a n)

/-- Writes bytes of the core's scratchpad; every strand and engine sees the primary bank (R112). A write of a whole line clears
its poison (R175). A copy writes element by element, each one access of its own (R209), so elements that cover a line together
are no full write of it (DEDUCED, log entry 117). -/
def State.engWrite (s : State) (a : Nat) (bs : List Byte) : Except EngineFault State :=
  if bs.isEmpty then .ok s
  else if 262144 * s.core.ways < a + bs.length then .error (mkFault 0x14 a)
  else .ok { s with core := { s.core with
    scratch := s.core.scratch.write a bs, scratchPoison := clearPoison s.core.scratchPoison a bs.length } }

/-- The partition of the focus core, or partition 0 where it has none; then nothing translates. -/
def State.partNo (s : State) : Fin 16 := s.part.getD 0

/-- The checks of R89 on an engine's access. -/
def State.engPlace (s : State) (a : Access) (va size : Nat) : Except EngineFault Place :=
  match s.place a (BitVec.ofNat 64 va) size with
  | .error c => .error (mkFault c va)
  | .ok pl => .ok pl

/-- A flat read of an engine; `raw` allows a TENSOR page (R214, R345). -/
def State.engLoad (s : State) (va size : Nat) (raw : Bool) : Except EngineFault (List Byte × State) :=
  match s.engPlace { accRead with tensor := raw } va size with
  | .error f => .error f
  | .ok pl =>
    let (bs, bad) := s.load pl size
    if bad then .error (mkFault 0x30 va) else .ok (bs, s.note (BitVec.ofNat 64 va) pl true)

/-- A write at a place that flat mode reached: raw mode writes the bytes of a TENSOR page at the base die, outside the L2 (R345). -/
def State.storeAt (s : State) (pl : Place) (bs : List Byte) : State :=
  if pl.typ = 1 then { s with mod := physWrite s.mod pl.pa bs } else s.store pl.pa bs

/-- A flat write of an engine; of a TENSOR page, in raw mode, at the base die beside the L2 (R345). -/
def State.engStore (s : State) (va : Nat) (bs : List Byte) (raw : Bool) : Except EngineFault State :=
  match s.engPlace { accWrite with tensor := raw } va bs.length with
  | .error f => .error f
  | .ok pl => .ok ((s.note (BitVec.ofNat 64 va) pl false).storeAt pl bs)

/-- Where a tensor-mode element lies: its page, and under a TENSOR page its tag (R342 to R344). -/
def State.tensorPlace (s : State) (a : Access) (r : TensorRec) (x : List Int) (size : Nat) :
    Except EngineFault (Place × Option Nat) :=
  let va := (r.address x).1
  match s.engPlace { a with tensor := true } va size with
  | .error f => .error f
  | .ok pl =>
    if pl.typ = 1 then
      match r.tag s.mod.parts[s.partNo] x pl.home with
      | some c => .ok (pl, some c)
      | none => .error (mkFault 0x15 va)
    else .ok (pl, none)

/-- Notes a tensor-mode access in the caches, under its tag (R342). -/
def State.noteElem (s : State) (r : TensorRec) (va : Nat) (pl : Place) (tag : Option Nat) (read : Bool) : State :=
  match tag with
  | some c => s.noteTag (BitVec.ofNat 64 va) pl r.id c read
  | none => s.note (BitVec.ofNat 64 va) pl read

/-- A tensor-mode read of `size` bytes at an element. -/
def State.tensorLoad (s : State) (r : TensorRec) (x : List Int) (size : Nat) : Except EngineFault (List Byte × State) :=
  let va := (r.address x).1
  match s.tensorPlace accRead r x size with
  | .error f => .error f
  | .ok (pl, tag) =>
    let (bs, bad) := match tag with
      | some _ => tagRead s.mod s.partNo r.id pl.pa size
      | none => s.load pl size
    if bad then .error (mkFault 0x30 va) else .ok (bs, s.noteElem r va pl tag true)

/-- A tensor-mode write of `size` bytes at an element, one access: what it writes may keep a part of what stands there, as the other nibble
of a 4-bit element's byte (R209). -/
def State.tensorPut (s : State) (r : TensorRec) (x : List Int) (size : Nat) (f : List Byte → List Byte) : Except EngineFault State :=
  match s.tensorPlace accWrite r x size with
  | .error f => .error f
  | .ok (pl, tag) =>
    let t := s.noteElem r (r.address x).1 pl tag false
    match tag with
    | some c => .ok { t with mod := tagWrite t.mod s.partNo r.id c pl.pa pl.home (f (tagRead s.mod s.partNo r.id pl.pa size).1) }
    | none => .ok (t.store pl.pa (f (physRead s.mod pl.pa size)))

/-- A tensor-mode write at an element. -/
def State.tensorStore (s : State) (r : TensorRec) (x : List Int) (bs : List Byte) : Except EngineFault State :=
  s.tensorPut r x bs.length fun _ => bs

/-! ## The record cache (R218) -/

/-- Puts a record in front of the cluster's 64 entries. -/
def State.installRecord (s : State) (va : Nat) (bs : List Byte) : State :=
  { s with ctl := { s.ctl with records := ((va, bs) :: s.ctl.records.filter fun e => e.1 != va).take 64 } }

/-- Reads a record through the cache. -/
def State.readRecord (s : State) (va : Nat) : Except EngineFault (List Byte × State) :=
  match s.ctl.records.find? fun e => e.1 = va with
  | some e => .ok (e.2, s.installRecord va e.2)
  | none =>
    match s.engLoad va 128 false with
    | .error f => .error f
    | .ok (bs, s) => .ok (bs, s.installRecord va bs)

/-- A command's records: each is read once, and kept with the command, also where the read of a later one faults (R218). -/
def State.needRecords (s : State) (c : Command) (vas : List Nat) : State × Command × Option EngineFault :=
  (vas.drop c.records.length).foldl (fun (acc : State × Command × Option EngineFault) va =>
    match acc with
    | (s, c, some f) => (s, c, some f)
    | (s, c, none) =>
      match s.readRecord va with
      | .error f => (s, c, some f)
      | .ok (bs, s) => (s, { c with records := c.records ++ [bs] }, none)) (s, c, none)

/-- R226: the earlier stores of the strand are performed; removes the record's entry, or every one. -/
def execRcfence (a : Fin 64) (s : State) : Answer :=
  let va := s.xr a
  if va.toNat % 128 != 0 then s.raise 0x12 va s.here
  else if !s.strand.posted.isEmpty then s.block
  else issue { s with ctl := { s.ctl with
    records := if va = 0 then [] else s.ctl.records.filter fun e => e.1 != va.toNat } }

/-- R227: reads, checks and installs the record at x[a]; x[d] receives its bytes 8 to 15 with the response. -/
def execRecld (d a : Fin 64) (s : State) : Answer :=
  let va := s.xr a
  match s.place accRead va 128 with
  | .error c => s.raise c va s.here
  | .ok pl =>
    let (bs, bad) := s.load pl 128
    if bad then s.holdTrap 0x30 va s.here
    else if !(parseRec bs).ok then s.holdTrap 0x15 va s.here
    else issue (((s.note va pl true).installRecord va.toNat bs).holdFor
      (.scalar d (BitVec.ofNat 64 (natOfBytes ((bs.drop 8).take 8)))))

end Sys2Proof.Machine
end

