-- ==== Sys2Proof/Machine/Hash.lean ====
section
/-! DEFINITION. SHA3-512, the hash of export buffers, groups and measurements, and the key derivation of R387 (R387, R388, R416, R417,
R439). The spec names the hash and leaves its steps to its standard (log entry 126): they are written here from the rules that
generate the standard's tables. -/

namespace Sys2Proof.Machine

/-! ## The sponge's state: 5 by 5 words, word (x, y) at place x + 5y -/

/-- The word at a place whose coordinates count modulo 5. -/
def spongeWord (a : List Word) (x y : Nat) : Word := a.getD (x % 5 + 5 * (y % 5)) 0

/-- A state by its words, row after row. -/
def spongeOf (f : Nat → Nat → Word) : List Word := (List.range 5).flatMap fun y => (List.range 5).map fun x => f x y

/-- Every word takes in the parities of the column before it and, turned by one, of the column after it. -/
def mixColumns (a : List Word) : List Word :=
  let parity := (List.range 5).map fun x => (List.range 5).foldl (fun v y => v ^^^ spongeWord a x y) 0#64
  let take (x : Nat) : Word := parity.getD ((x + 4) % 5) 0 ^^^ (parity.getD ((x + 1) % 5) 0).rotateLeft 1
  let added := (List.range 5).map take
  spongeOf fun x y => spongeWord a x y ^^^ added.getD x 0

/-- The words other than (0, 0) follow one another on a closed path from (1, 0): after (x, y) comes (y, 2x + 3y). On its t-th step a
word moves on by one place of the path, turned by the t-th triangular number. -/
def movePath (a : List Word) : List Word :=
  let step (s : List Word × Nat × Nat) (t : Nat) : List Word × Nat × Nat :=
    let (b, x, y) := s
    let (u, v) := (y, (2 * x + 3 * y) % 5)
    (b.set (u + 5 * v) ((spongeWord a x y).rotateLeft ((t + 1) * (t + 2) / 2 % 64)), u, v)
  ((List.range 24).foldl step (a, 1, 0)).1

/-- In each row every word is changed where the next one has a zero and the one after it a one. -/
def mixRows (a : List Word) : List Word :=
  spongeOf fun x y => spongeWord a x y ^^^ ((spongeWord a (x + 1) y ^^^ BitVec.allOnes 64) &&& spongeWord a (x + 2) y)

/-- The register of 8 bits that generates the rounds' constants: doubled modulo x^8 + x^6 + x^5 + x^4 + 1. -/
def nextTap (r : Nat) : Nat := if r < 128 then 2 * r else (2 * r) ^^^ 0x171

/-- The constant of a round and the register after it: its seven low bits in turn stand at the bits 2^j − 1. -/
def roundTaps (r : Nat) : Nat × Nat :=
  (List.range 7).foldl (fun s j => (s.1 + s.2 % 2 * 2 ^ (2 ^ j - 1), nextTap s.2)) (0, r)

/-- The 24 rounds of the permutation. -/
def permute (a : List Word) : List Word :=
  let round (s : List Word × Nat) (_ : Nat) : List Word × Nat :=
    let b := mixRows (movePath (mixColumns s.1))
    let (k, r) := roundTaps s.2
    (b.set 0 (spongeWord b 0 0 ^^^ BitVec.ofNat 64 k), r)
  ((List.range 24).foldl round (a, 1)).1

/-! ## The hash -/

/-- Bytes of a block: 200 less twice the 64 bytes of the digest. -/
def blockBytes : Nat := 72

/-- The message with its suffix and padding as one number: the bits 01, a one, zeros, and a last one at the end of a block. -/
def paddedMessage (m : List Byte) : List Byte :=
  let blocks := m.length / blockBytes + 1
  bytesOfNat (blockBytes * blocks) (natOfBytes m + 6 * 256 ^ m.length + 128 * 256 ^ (blockBytes * blocks - 1))

/-- The state after whole blocks have been taken in, by their number. -/
def takeBlocks : Nat → List Byte → List Word → List Word
  | 0, _, a => a
  | k + 1, m, a =>
    takeBlocks k (m.drop blockBytes) (permute (a.zipIdx.map fun w => w.1 ^^^
      (if w.2 < blockBytes / 8 then BitVec.ofNat 64 (natOfBytes ((m.drop (8 * w.2)).take 8)) else 0#64)))

/-- SHA3-512 of a message, 64 bytes. -/
def sha3 (m : List Byte) : List Byte :=
  let p := paddedMessage m
  ((takeBlocks (p.length / blockBytes) p (List.replicate 25 0#64)).flatMap fun v => bytesOfNat 8 v.toNat).take 64

/-! ## Keys (R387, R388) -/

/-- KDF of R387. -/
def kdf (k label ctx : List Byte) : List Byte := (sha3 (k ++ label ++ ctx)).take 32

/-- "hkg-link" and "hkg-ratchet" in ASCII. -/
def linkLabel : List Byte := [0x68, 0x6B, 0x67, 0x2D, 0x6C, 0x69, 0x6E, 0x6B]
/-- "hkg-reduce" (R447). -/
def reduceLabel : List Byte := [0x68, 0x6B, 0x67, 0x2D, 0x72, 0x65, 0x64, 0x75, 0x63, 0x65]
def ratchetLabel : List Byte := [0x68, 0x6B, 0x67, 0x2D, 0x72, 0x61, 0x74, 0x63, 0x68, 0x65, 0x74]

/-- The link key of the epoch after n (R388). -/
def ratchetKey (key : List Byte) (n : Nat) : List Byte := kdf key ratchetLabel (bytesOfNat 8 n)

end Sys2Proof.Machine
end

