-- ==== Sys2Proof/Machine/Torus.lean ====
section
/-! DEFINITION. Jobs, torus addressing, lane groups and link keys (R387, R388, R428 to R431). -/

namespace Sys2Proof.Machine

/-! ## The job record (R428) -/

def Partition.jobField (p : Partition) (o n : Nat) : Nat := natOfBytes ((p.job.drop o).take n)
def Partition.jobId (p : Partition) : Nat := p.jobField 0 8
/-- Extent in x, y and z. -/
def Partition.jobExt (p : Partition) : List Nat := (List.range 3).map fun d => bitsOf (p.jobField 8 4) (4 * d) 4 + 1
/-- This module's identifier. -/
def Partition.jobSelf (p : Partition) : Nat := p.jobField 12 4 % 2 ^ 12
def Partition.roots (p : Partition) : List (List Byte) := (List.range 4).map fun j => (p.job.drop (128 + 64 * j)).take 64
def Partition.accepted (p : Partition) : List (List Byte) := (List.range 16).map fun j => (p.job.drop (384 + 64 * j)).take 64

/-- Coordinate of a module in a dimension, and the module of coordinates. -/
def coordOf (m d : Nat) : Nat := bitsOf m (4 * d) 4
def moduleOf (c : List Nat) : Nat := c.getD 0 0 + 16 * c.getD 1 0 + 256 * c.getD 2 0

/-- Whether a module is a member of the partition's job. -/
def Partition.isMember (p : Partition) (m : Nat) : Bool :=
  p.jobId != 0 && m < 2 ^ 12 && (List.range 3).all fun d => coordOf m d < p.jobExt.getD d 1

/-- The module beyond a port of this module: port 2d goes in the − direction of dimension d, port 2d + 1 in the +. -/
def Partition.neighbour (p : Partition) (port : Fin 6) : Nat :=
  let d := port.val / 2
  let e := p.jobExt.getD d 1
  let c := (List.range 3).map (coordOf p.jobSelf)
  moduleOf (c.set d ((c.getD d 0 + (if port.val % 2 = 1 then 1 else e - 1)) % e))

/-- The first hop's port towards a module (R429): x, then y, then z, the direction with fewer hops, + on a tie. -/
def Partition.firstHop (p : Partition) (m : Nat) : Option (Fin 6) :=
  (List.range 3).findSome? fun d =>
    let e := p.jobExt.getD d 1
    let up := (coordOf m d + e - coordOf p.jobSelf d) % e
    if up = 0 then none else some (Fin.ofNat 6 (if 2 * up ≤ e then 2 * d + 1 else 2 * d))

/-! ## Lane groups (R430, R431) -/

def LaneRef.index (l : LaneRef) : Fin 24 := Fin.ofNat 24 (4 * l.port.val + l.group.val)

/-- The lane groups of a port that a partition owns and that are up. -/
def lanesUp (m : Module) (p : Partition) (port : Fin 6) : List (Fin 24) :=
  ((List.range 4).map fun g => (Fin.ofNat 24 (4 * port.val + g) : Fin 24)).filter fun n => p.hasLane n.val && m.lanes[n].up

/-- The live partition that owns a lane group (R381). -/
def laneOwner (m : Module) (n : Fin 24) : Option (Fin 16) :=
  (List.finRange 16).find? fun p => m.parts[p].state = .live && m.parts[p].hasLane n.val

/-- The module beyond a port; none where the job has a single module in that dimension (R414). -/
def Partition.beyond (p : Partition) (port : Fin 6) : Option Nat :=
  if p.jobExt.getD (port.val / 2) 1 ≤ 1 then none else some (p.neighbour port)

/-- The end of a port's link: this end's module is the lower one of the two or not; and the port's number at the lower end. -/
def Partition.linkEnd (p : Partition) (port : Fin 6) : Bool × Nat :=
  if p.jobSelf ≤ p.neighbour port then (true, port.val) else (false, if port.val % 2 = 0 then port.val + 1 else port.val - 1)

/-- K(0) of a lane group (R387). The spec gives the context's parts no widths, and does not say whose port is meant: 16 bits for an
end, 8 for the port at the lower end and for the lane group (DESIGN CHOICE, log entry 127). -/
def Partition.linkKey (p : Partition) (l : Fin 24) : List Byte :=
  let port : Fin 6 := Fin.ofNat 6 (l.val / 4)
  let other := p.neighbour port
  match p.jobKey with
  | none => []
  | some k => kdf k linkLabel (bytesOfNat 2 (min p.jobSelf other) ++ bytesOfNat 2 (max p.jobSelf other) ++
      bytesOfNat 1 (p.linkEnd port).2 ++ bytesOfNat 1 (l.val % 4))

/-- The nonce of a packet (R388): lane group and direction, the epoch, the packet's number. Bit 64 is 0 for a packet of the lower end
(DESIGN CHOICE, log entry 127). -/
def Partition.nonceOf (p : Partition) (l : Fin 24) (epoch number : Nat) : Nat :=
  let e := p.linkEnd (Fin.ofNat 6 (l.val / 4))
  number % 2 ^ 32 + epoch % 2 ^ 32 * 2 ^ 32 + ((if e.1 then 0 else 1) + 2 * (4 * e.2 + l.val % 4)) * 2 ^ 64

/-- The epoch of a lane group is over: packet 2^32 − 1 has gone one way or the other (R388). -/
def Lane.ended (x : Lane) : Bool := 2 ^ 32 ≤ x.sent || 2 ^ 32 ≤ x.received

/-- The next epoch of a lane group: its key is ratcheted, and the packets of both directions count from 0 (R388). R388 does not say in
which direction the packet goes: one of either ends the epoch (DESIGN CHOICE, log entry 127). -/
def Lane.ratchet (x : Lane) : Lane :=
  { x with key := if x.key.isEmpty then [] else ratchetKey x.key x.epoch, epoch := x.epoch + 1, sent := 0, received := 0 }

/-- A lane group as its next packet finds it: one whose epoch is over goes on to the next before it. -/
def Lane.ready (x : Lane) : Lane := if x.ended then x.ratchet else x

/-- A packet of a partition leaves on a lane group, which numbers it within the epoch (R430). -/
def Module.onWire (m : Module) (n : Fin 16) (l : Fin 24) (p : Packet) : Module :=
  let lane := m.lanes[l].ready
  { m with
    sent := m.sent ++ [{ p with number := lane.sent }]
    lanes := m.lanes.set l { lane with sent := lane.sent + 1, nonce := m.parts[n].nonceOf l lane.epoch lane.sent } }

/-- The lane group that takes a packet to a module on its next hop: the first of the port's that is up. -/
def Module.laneTo (m : Module) (n : Fin 16) (dst : Nat) : Option (Fin 24) :=
  (m.parts[n].firstHop dst).bind fun port => (lanesUp m m.parts[n] port).head?

/-- Passes a packet on towards its module; without a lane group it is lost (R429). -/
def forwardOn (m : Module) (n : Fin 16) (p : Packet) : Module :=
  match m.laneTo n p.dst with
  | none => m
  | some l => m.onWire n l p

/-- Sends a packet of this module. -/
def sendOn (m : Module) (n : Fin 16) (p : Packet) : Module := forwardOn m n { p with src := m.parts[n].jobSelf }

/-- Sends a packet of this module over a port of its own choice (R450). -/
def sendVia (m : Module) (n : Fin 16) (port : Fin 6) (p : Packet) : Module :=
  match (lanesUp m m.parts[n] port).head? with
  | none => m
  | some l => m.onWire n l { p with src := m.parts[n].jobSelf }

end Sys2Proof.Machine
end

