-- ==== Sys2Proof/Machine/Kv.lean ====
section
/-! DEFINITION. The Madder store: pool, sequences, page records, frames, formats, allocation, eviction, copy-on-write and
settlement (R256, R356 to R359, R397 to R413). -/

namespace Sys2Proof.Machine

/-! ## Steps of the store -/

/-- Who acts on the store: the die whose translations it uses, the partition, the cycle, the earliest cycle in which an attention
command of the partition that is not retired read its descriptor (R409), the records that the step or a running promotion keeps in
place (R412), and whether a core acts, whose local store then takes the lines that it reads (R169). -/
structure KvCtx where
  die : Fin 24
  part : Fin 16
  now : Nat
  oldest : Option Nat
  keep : List Nat
  core : Bool
  deriving DecidableEq, Repr

/-- Whether a walker that read its descriptor in or before a cycle is not retired. -/
def KvCtx.walking (c : KvCtx) (t : Nat) : Bool := c.oldest.any (· ≤ t)

/-- A step on the module: it succeeds, or fails with a cause and with what it leaves behind, if anything (R411). -/
abbrev KvM (α : Type) := StateT Module (Except (EngineFault × Option Module)) α

def kvFail {α : Type} (f : EngineFault) : KvM α := fun _ => .error (f, none)

/-- A step that finds no frame or record: what it has evicted stays evicted (R411). -/
def kvFull {α : Type} (f : EngineFault) : KvM α := fun m => .error (f, some m)

/-- The same step on a base die: its reads come into no core's local store (R356). -/
def KvCtx.onBase (c : KvCtx) : KvCtx := { c with core := false }

/-- Notes a read of a line in the caches, and for the local store of the core that acts (R169). -/
def kvNoteRead (c : KvCtx) (va : Nat) (pl : Place) (m : Module) : Module :=
  let m := noteAccess m c.die none c.part (BitVec.ofNat 64 va) pl true c.now
  if c.core && pl.typ < 2 then { m with fetched := m.fetched ++ [pl.pa / 128] } else m

/-- Reads n bytes at a virtual address in a page that is not a counter page, line by line. -/
def kvRead (c : KvCtx) (va n : Nat) : KvM (List Byte) :=
  (lineParts va n).foldlM (fun acc p => do
    let m ← get
    match checkAccess m c.die none c.part accRead (BitVec.ofNat 64 p.2.1) 1 with
    | .error k => kvFail (mkFault k p.2.1)
    | .ok pl =>
      if poisonedIn m.poison pl.pa p.2.2 then kvFail (mkFault 0x30 p.2.1)
      else
        set (kvNoteRead c p.2.1 pl m)
        return acc ++ physRead m pl.pa p.2.2) []

/-- Writes bytes at a virtual address; a write of part of a poisoned line fails (R420). -/
def kvWrite (c : KvCtx) (va : Nat) (bs : List Byte) : KvM Unit :=
  (lineParts va bs.length).forM fun p => do
    let m ← get
    match checkAccess m c.die none c.part accWrite (BitVec.ofNat 64 p.2.1) 1 with
    | .error k => kvFail (mkFault k p.2.1)
    | .ok pl =>
      if poisonedIn (clearPoison m.poison pl.pa p.2.2) pl.pa p.2.2 then kvFail (mkFault 0x30 p.2.1)
      else set (l2Write (noteAccess m c.die none c.part (BitVec.ofNat 64 p.2.1) pl false c.now) c.part pl.pa
        ((bs.drop (p.2.1 - va)).take p.2.2))

def kvNat (c : KvCtx) (va n : Nat) : KvM Nat := do return natOfBytes (← kvRead c va n)

/-- Reads n bytes at a virtual address, poisoned or not, and says which of their 128-byte lines are poisoned (R359). -/
def kvReadLines (c : KvCtx) (va n : Nat) : KvM (List Byte × List Nat) :=
  (lineParts va n).foldlM (fun acc p => do
    let m ← get
    match checkAccess m c.die none c.part accRead (BitVec.ofNat 64 p.2.1) 1 with
    | .error k => kvFail (mkFault k p.2.1)
    | .ok pl =>
      set (kvNoteRead c p.2.1 pl m)
      return (acc.1 ++ physRead m pl.pa p.2.2,
        if poisonedIn m.poison pl.pa p.2.2 then acc.2 ++ [(p.2.1 - va) / 128] else acc.2)) ([], [])

/-- Writes bytes at a line's virtual address, and poisons the lines listed, which carry their poison on (R357, R359). -/
def kvWriteLines (c : KvCtx) (va : Nat) (bs : List Byte) (bad : List Nat) : KvM Unit :=
  (lineParts va bs.length).forM fun p => do
    let m ← get
    match checkAccess m c.die none c.part accWrite (BitVec.ofNat 64 p.2.1) 1 with
    | .error k => kvFail (mkFault k p.2.1)
    | .ok pl =>
      let m := l2Write (noteAccess m c.die none c.part (BitVec.ofNat 64 p.2.1) pl false c.now) c.part pl.pa
        ((bs.drop (p.2.1 - va)).take p.2.2)
      set (if bad.contains ((p.2.1 - va) / 128) then { m with poison := insertNat (pl.pa / 128) m.poison } else m)

/-- The first page of a range that fails a check: the cause and the address (R435). -/
def rangeRefused (m : Module) (c : KvCtx) (a : Access) (va n : Nat) : Option (Nat × Nat) :=
  if n = 0 then none
  else ((List.range ((va + n - 1) / 65536 - va / 65536 + 1)).map fun j => max va ((va / 65536 + j) * 65536)).findSome? fun at_ =>
    match checkAccess m c.die none c.part a (BitVec.ofNat 64 at_) 1 with
    | .error k => some (k, at_)
    | .ok _ => none

/-- A step, or another in its place where it fails. -/
def kvOr {α : Type} (x y : KvM α) : KvM α := fun m => match x.run m with
  | .ok r => .ok r
  | .error _ => y.run m

/-! ## Pool (R397, R398) -/

def bytesAt (bs : List Byte) (o n : Nat) : Nat := natOfBytes ((bs.drop o).take n)

def Pool.seqbase (p : Pool) : Nat := bytesAt p.record 0 8
def Pool.nseq (p : Pool) : Nat := bytesAt p.record 8 4
def Pool.recbase (p : Pool) : Nat := bytesAt p.record 16 8
def Pool.nrec (p : Pool) : Nat := bytesAt p.record 24 4
def Pool.hbase (p : Pool) : Nat := bytesAt p.record 32 8
def Pool.nhbm (p : Pool) : Nat := bytesAt p.record 40 4
def Pool.ncxl (p : Pool) : Nat := bytesAt p.record 44 4
def Pool.cbase (p : Pool) : Nat := bytesAt p.record 48 8
def Pool.rkpool (p : Pool) : Nat := bytesAt p.record 56 8
def Pool.path (p : Pool) (cls : Nat) : Nat := bitsOf (bytesAt p.record 64 8) (3 * cls) 3
def Pool.borrow (p : Pool) : Nat := bytesAt p.record 72 4

/-- The checks of R397 on a pool record. -/
def poolRecordOk (bs : List Byte) : Bool :=
  let p : Pool := { (default : Pool) with record := bs }
  (bs.drop 76).all (· = 0) && p.borrow ≤ 2 ^ 24 && bitsOf (bytesAt bs 64 8) 0 3 = 0 && bitsOf (bytesAt bs 64 8) 24 40 = 0 &&
  ((List.range 7).all fun c => p.path (c + 1) ≤ 3) && p.rkpool < 2 ^ 57 && p.rkpool % 8 = 0 &&
  p.cbase < 2 ^ 57 && p.cbase % 512 = 0 && 1 ≤ p.nhbm && p.hbase < 2 ^ 57 && p.hbase % 512 = 0 &&
  2 ≤ p.nrec && bytesAt bs 28 4 = 0 && p.recbase < 2 ^ 57 && p.recbase % 1024 = 0 &&
  1 ≤ p.nseq && p.nseq ≤ 2 ^ 28 && bytesAt bs 12 4 = 0 && p.seqbase < 2 ^ 57 && p.seqbase % 256 = 0

def Pool.recAt (p : Pool) (r : Nat) : Nat := p.recbase + 1024 * r

/-- Virtual address of a frame in HBM or CXL. -/
def Pool.frameAt (p : Pool) (f : Nat) : Nat := if f < p.nhbm then p.hbase + 18432 * f else p.cbase + 18432 * (f - p.nhbm)

/-- The partition's pool. -/
def kvPool (c : KvCtx) : KvM Pool := do
  match (← get).parts[c.part].pool with
  | some p => return p
  | none => kvFail (mkFault 0x20 0)

def kvOnPool (c : KvCtx) (g : Pool → Pool) : KvM Unit :=
  modify fun m => { m with parts := m.parts.set c.part { m.parts[c.part] with pool := m.parts[c.part].pool.map g } }

/-! ## Sequences (R400, R401) -/

structure Seq where
  btbase : Nat
  len : Nat
  tent : Nat
  pages : Nat
  layers : Nat
  heads : Nat
  dsel : Nat
  cls : Nat
  w : Nat
  slide : Nat
  live : Bool
  deriving DecidableEq, Repr, Inhabited

def parseSeq (bs : List Byte) : Seq where
  btbase := bytesAt bs 0 8
  len := bytesAt bs 8 8
  tent := bytesAt bs 16 4
  pages := bytesAt bs 20 4
  layers := bytesAt bs 24 2
  heads := bytesAt bs 26 1 + 1
  dsel := bitsOf (bytesAt bs 28 1) 0 2
  cls := bitsOf (bytesAt bs 29 1) 0 3
  w := bytesAt bs 30 2
  slide := bytesAt bs 32 4
  live := bitOf (bytesAt bs 36 4) 0

def seqBytes (q : Seq) : List Byte :=
  padTo 256 (bytesOfNat 8 q.btbase ++ bytesOfNat 8 q.len ++ bytesOfNat 4 q.tent ++ bytesOfNat 4 q.pages ++ bytesOfNat 2 q.layers ++
    bytesOfNat 2 (q.heads - 1) ++ bytesOfNat 1 q.dsel ++ bytesOfNat 1 q.cls ++ bytesOfNat 2 q.w ++ bytesOfNat 4 q.slide ++
    bytesOfNat 4 (if q.live then 1 else 0))

/-- The checks of R401 on an image, len and tent ignored. -/
def seqImageOk (bs : List Byte) : Bool :=
  let q := parseSeq bs
  (bs.drop 40).all (· = 0) && bytesAt bs 36 4 = 0 && 64 ≤ q.w && q.w ≤ 4096 && q.w % 64 = 0 &&
  bytesAt bs 29 1 < 8 && bytesAt bs 28 1 ≤ 2 && bytesAt bs 27 1 = 0 && 1 ≤ q.layers && 1 ≤ q.pages && q.pages ≤ 2 ^ 24 &&
  q.btbase < 2 ^ 57 && q.btbase % 8 = 0

/-- Channels of a head, of a page, and pages of a K or V entry. -/
def Seq.d (q : Seq) : Nat := 64 * 2 ^ q.dsel
def Seq.dh (q : Seq) : Nat := min q.d 128
def Seq.halves (q : Seq) : Nat := if q.dsel = 2 then 2 else 1
def Seq.end_ (q : Seq) : Nat := q.len + q.tent

/-- The state of the checks of R400 on a handle: the descriptor, or the cause. -/
def kvSeq (c : KvCtx) (handle : Nat) : KvM Seq := do
  let m ← get
  let pool := handle / 2 ^ 28
  let index := handle % 2 ^ 28
  if pool ≠ c.part.val then
    kvFail (mkFault (if m.parts[(Fin.ofNat 16 pool : Fin 16)].state = .live then 0x23 else 0x20) handle)
  else if m.parts[c.part].state ≠ .live then kvFail (mkFault 0x20 handle)
  else match m.parts[c.part].pool with
    | none => kvFail (mkFault 0x20 handle)
    | some p =>
      if p.nseq ≤ index then kvFail (mkFault 0x20 handle)
      else
        let q := parseSeq (← kvRead c (p.seqbase + 256 * index) 256)
        if q.live then return q else kvFail (mkFault 0x20 handle)

def kvPutSeq (c : KvCtx) (handle : Nat) (q : Seq) : KvM Unit := do
  let p ← kvPool c
  kvWrite c (p.seqbase + 256 * (handle % 2 ^ 28)) (seqBytes q)

/-- The block-table entry of (L, H, i): its address (R402). -/
def Seq.entryAt (q : Seq) (l h i : Nat) : Nat := q.btbase + 8 * ((l * q.heads + h) * q.pages + i)

/-- The record ids of an entry, K halves first. -/
def Seq.idsOf (q : Seq) (e : Nat) : List Nat :=
  if e = 0 then []
  else (List.range q.halves).map (e % 2 ^ 32 + ·) ++ (List.range q.halves).map (e / 2 ^ 32 + ·)

/-- Every (layer, head). -/
def Seq.lanes (q : Seq) : List (Nat × Nat) :=
  (List.range q.layers).flatMap fun l => (List.range q.heads).map fun h => (l, h)

/-! ## Page records (R403 to R405) -/

structure Page where
  valid : Nat
  ready : Nat
  target : Nat
  age : Nat
  frame : Nat
  slot : Nat
  format : Nat
  state : Nat
  v : Bool
  half : Bool
  loose : Bool
  tier : Nat
  cls : Nat
  refcount : Nat
  lmod : Nat
  scales : List Byte
  swatch : List Byte
  deriving DecidableEq, Repr, Inhabited

def parsePage (bs : List Byte) : Page :=
  let a := bytesAt bs 40 8
  let loc := bytesAt bs 32 8
  { valid := bytesAt bs 0 8, ready := bytesAt bs 8 8, target := bytesAt bs 16 8, age := bytesAt bs 24 8
    frame := bitsOf loc 0 32, slot := bitsOf loc 32 2, format := bitsOf a 0 4, state := bitsOf a 4 3, v := bitOf a 7
    half := bitOf a 8, loose := bitOf a 9, tier := bitsOf a 10 2, cls := bitsOf a 12 3, refcount := bitsOf a 16 16
    lmod := bitsOf a 36 12, scales := (bs.drop 64).take 256, swatch := (bs.drop 320).take 512 }

def pageBytes (p : Page) : List Byte :=
  let b (v : Bool) (n : Nat) : Nat := if v then 2 ^ n else 0
  bytesOfNat 8 p.valid ++ bytesOfNat 8 p.ready ++ bytesOfNat 8 p.target ++ bytesOfNat 8 p.age ++
  bytesOfNat 8 (p.frame + p.slot * 2 ^ 32) ++
  bytesOfNat 8 (p.format + p.state * 2 ^ 4 + b p.v 7 + b p.half 8 + b p.loose 9 + p.tier * 2 ^ 10 + p.cls * 2 ^ 12 +
    p.refcount * 2 ^ 16 + p.lmod * 2 ^ 36) ++
  List.replicate 16 (0 : Byte) ++ padTo 256 p.scales ++ padTo 512 p.swatch ++ List.replicate 192 (0 : Byte)

def kvPage (c : KvCtx) (r : Nat) : KvM Page := do return parsePage (← kvRead c ((← kvPool c).recAt r) 1024)
def kvPutPage (c : KvCtx) (r : Nat) (p : Page) : KvM Unit := do kvWrite c ((← kvPool c).recAt r) (pageBytes p)

/-- Slots of a page of dh channels in a format (R403). -/
def slotsOf (format dh : Nat) : Nat := if dh = 128 then (if format = 0 then 4 else if format ≤ 2 then 2 else 1)
  else (if format = 0 then 2 else 1)

/-- Bytes of the page's data in its format. -/
def dataBytes (format dh : Nat) : Nat :=
  match format with
  | 0 => 128 * dh
  | 1 => 64 * dh
  | 2 => 64 * (dh / 32) * 34
  | _ => 64 * (dh / 32) * 18

/-- The empty swatch of dh channels. -/
def emptySwatch (dh : Nat) : List Byte :=
  padTo 512 ((List.range dh).flatMap fun _ => bytesOfNat 2 0x7F80 ++ bytesOfNat 2 0xFF80)

def swatchMin (p : Page) (ch : Nat) : Nat := bytesAt p.swatch (4 * ch) 2
def swatchMax (p : Page) (ch : Nat) : Nat := bytesAt p.swatch (4 * ch + 2) 2

/-- Merges values of a channel into a swatch: a NaN counts as both infinities, an inexact bound is rounded outward (R255, R257). -/
def mergeBound (lo hi : Nat) (vs : List Val) : Nat × Nat :=
  vs.foldl (fun b v =>
    if v.isNan then (0xFF80, 0x7F80)
    else ((fpPick .bf16 false b.1 (roundTo .bf16 .rdn false 0 v).1).1, (fpPick .bf16 true b.2 (roundTo .bf16 .rup false 0 v).1).1))
    (lo, hi)

/-- A swatch after values have been merged: `vs ch` gives those of channel ch. -/
def mergeSwatch (p : Page) (dh : Nat) (vs : Nat → List Val) : List Byte :=
  padTo 512 ((List.range dh).flatMap fun ch =>
    let b := mergeBound (swatchMin p ch) (swatchMax p ch) (vs ch)
    bytesOfNat 2 b.1 ++ bytesOfNat 2 b.2)

/-! ## Page data -/

/-- The exact value of element (t, ch) of a page's data (R403). -/
def pageValue (p : Page) (dh : Nat) (data : List Byte) (t ch : Nat) : Val :=
  match p.format with
  | 0 => decodeElem .bf16 (bytesAt data (2 * (t * dh + ch)) 2)
  | 1 =>
    let sc := (p.scales.getD (if p.v then t else ch) 0).toNat
    if sc = 0xFF then .nan false else (decodeElem .e4m3 (bytesAt data (t * dh + ch) 1)).scale ((sc : Int) - 127)
  | f =>
    let slot := if f = 2 then 34 else 18
    ((mxDecode slot ((data.drop ((t * (dh / 32) + ch / 32) * slot)).take slot)).getD []).getD (ch % 32) (.nan false)

/-- Slot bytes of a page's MX blocks; none where its format has no blocks (R403). -/
def Page.mxSlot (p : Page) : Option Nat := if p.format = 2 then some 34 else if p.format = 3 then some 18 else none

/-- The first MX block of a page's valid positions whose format byte is not in R13's table or too wide for its slot (R14). -/
def badBlock (p : Page) (dh : Nat) (data : List Byte) : Option Nat :=
  p.mxSlot.bind fun slot => (List.range (64 * (dh / 32))).find? fun n =>
    bitOf p.valid (n / (dh / 32)) && (mxDecode slot ((data.drop (n * slot)).take slot)).isNone

/-- The values of a channel at the valid positions. -/
def validValues (p : Page) (dh : Nat) (data : List Byte) (ch : Nat) : List Val :=
  ((List.range 64).filter (bitOf p.valid)).map fun t => pageValue p dh data t ch

/-- The address of a page's data. -/
def Pool.dataAt (q : Pool) (p : Page) : Nat := q.frameAt p.frame + 4608 * p.slot

/-- Bytes of a page's slots in a format. -/
def slotRoom (format dh : Nat) : Nat := 4608 * slotsOf format dh

/-- Lines of a slot of a frame. -/
def slotLines : Nat := 36

/-- The poisoned lines of a borrowed frame that lie in n bytes from a slot on. -/
def Loan.badLines (l : Loan) (slot n : Nat) : List Nat :=
  (List.range ((n + 127) / 128)).filter fun j => l.poison.contains (slotLines * slot + j)

/-- The loan with data placed from a slot on, and their poisoned lines. -/
def Loan.place (l : Loan) (slot : Nat) (data : List Byte) (bad : List Nat) : Loan :=
  { l with
    data := l.data.write (4608 * slot) data
    poison := (l.poison.filter fun j => !(slotLines * slot ≤ j && j < slotLines * slot + (data.length + 127) / 128)) ++
      bad.map (slotLines * slot + ·) }

/-- What a page's data are in its tier, with their poisoned lines: those of a compressed CXL frame expanded on the base die (R356, R357),
those of a borrowed frame as they were sent there (log entry 13). -/
def kvFetch (c : KvCtx) (p : Page) (dh : Nat) : KvM Expansion := do
  let q ← kvPool c
  let n := dataBytes p.format dh
  if p.tier = 2 then
    return match q.borrowed.find? fun l => l.module = p.lmod && l.frame = p.frame with
      | some l => ⟨l.data.read (4608 * p.slot) n, l.badLines p.slot n, none⟩
      | none => ⟨List.replicate n 0, [], none⟩
  else if p.tier = 1 && q.packed.contains (p.frame, p.slot) then
    let (stream, bad) ← kvReadLines c.onBase (q.dataAt p) (slotRoom p.format dh)
    return expandStream stream (fun o k => poisonedIn bad o k) n
  else
    let (bs, bad) ← kvReadLines c (q.dataAt p) n
    return ⟨bs, bad, none⟩

/-- A page's data for a consumer: a poisoned line is `POISON`, and so is one that a malformed stream leaves poisoned in the consumer's
own buffer (R357). Its address is the line's; a lender's frame has none here, and 0 stands for it (log entry 134). -/
def kvData (c : KvCtx) (p : Page) (dh : Nat) : KvM (List Byte) := do
  let x ← kvFetch c p dh
  match x.bad with
  | [] => return x.bytes
  | l :: _ =>
    let q ← kvPool c
    kvFail (mkFault 0x30 (if p.tier = 2 then 0 else q.dataAt p + 128 * l))

/-- The `MX_HEADER` of a page whose valid positions hold a bad block, with its index (R14, R266); 0 is the address in a lender's frame
(log entry 135). -/
def Pool.mxFault (q : Pool) (p : Page) (dh : Nat) (data : List Byte) : Option EngineFault :=
  (badBlock p dh data).map fun n =>
    { mkFault 0x28 (if p.tier = 2 then 0 else q.dataAt p + (p.mxSlot.getD 0) * n) with extra2 := BitVec.ofNat 64 n }

/-- A page's data for a command that decodes its valid positions. -/
def kvDecoded (c : KvCtx) (p : Page) (dh : Nat) : KvM (List Byte) := do
  let data ← kvData c p dh
  match (← kvPool c).mxFault p dh data with
  | some f => kvFail f
  | none => return data

def finite (v : Val) : Bool := match v with
  | .num .. => true
  | _ => false

/-- One group quantised to E4M3 with an E8M0 scale (R256): the scale byte, the element bytes, the flags. -/
def quantGroup (vs : List Val) : Byte × List Byte × Flags :=
  if vs.all finite then
    let x := (mxScaleExp 8 vs).getD (-127)
    let els := vs.map fun v => roundTo .e4m3 .rne true 0 (v.scale (-x))
    (BitVec.ofNat 8 (x + 127).toNat, els.map fun e => BitVec.ofNat 8 e.1, els.foldl (fun f e => f ||| e.2) 0)
  else (0xFF, vs.map fun _ => 0, flagIV)

/-- The data of a page quantised to FP8: K by channel, V by token (R256); and the page with its scales. -/
def quantFp8 (p : Page) (dh : Nat) (data : List Byte) : Page × List Byte × Flags :=
  if p.v then
    let rows := (List.range 64).map fun t => quantGroup ((List.range dh).map fun ch => pageValue p dh data t ch)
    ({ p with format := 1, scales := padTo 256 (rows.map (·.1)) }, rows.flatMap (·.2.1), rows.foldl (fun f r => f ||| r.2.2) 0)
  else
    let cols := (List.range dh).map fun ch => quantGroup ((List.range 64).map fun t => pageValue p dh data t ch)
    ({ p with format := 1, scales := padTo 256 (cols.map (·.1)) },
      (List.range 64).flatMap (fun t => cols.map fun r => r.2.1.getD t 0), cols.foldl (fun f r => f ||| r.2.2) 0)

/-- The data of a page requantised to an MX format along the channels (R412, R424). -/
def quantMx (p : Page) (dh : Nat) (data : List Byte) (format : Nat) : Page × List Byte × Flags :=
  let f : MxFormat := if format = 2 then .e4m3 else .e2m1
  let slot := if format = 2 then 34 else 18
  let blocks := (List.range (64 * (dh / 32))).map fun b =>
    mxEncode f slot .rne (fun _ => 0) ((List.range 32).map fun j => pageValue p dh data (b / (dh / 32)) (b % (dh / 32) * 32 + j))
  ({ p with format := format, scales := List.replicate 256 0 }, blocks.flatMap (·.1), blocks.foldl (fun acc b => acc ||| b.2) 0)

/-- A page in another format, its swatch the union of its old bound and the new values' range, marked LOOSE (R256, R412). A group
that held a NaN or an infinity counts as NaN. -/
def requantise (p : Page) (dh : Nat) (data : List Byte) (format : Nat) : Page × List Byte × Flags :=
  if p.format = format then (p, data, 0)
  else
    let (q, bs, fl) := if format = 1 then quantFp8 p dh data else quantMx p dh data format
    ({ q with swatch := mergeSwatch p dh (fun ch => validValues q dh bs ch), loose := true }, bs, fl)

/-! ## Access count (R413) -/

/-- The next access stamp. -/
def kvStamp (c : KvCtx) : KvM Nat := do
  kvOnPool c fun p => { p with accesses := p.accesses + 1 }
  return ((← get).parts[c.part].pool.map (·.accesses)).getD 0

/-- A walker's read of a record counts. -/
def kvTouch (c : KvCtx) (r : Nat) : KvM Unit := do
  let n ← kvStamp c
  kvPutPage c r { ← kvPage c r with age := n }

/-! ## Free slots and records -/

/-- All records, id 0 left out; an unreadable one counts as none. -/
def kvRecords (c : KvCtx) : KvM (List (Nat × Page)) := do
  let p ← kvPool c
  let m ← get
  let one (r : Nat) : Option (Nat × Page) := match (kvPage c r).run m with
    | .ok (g, _) => some (r, g)
    | .error _ => none
  return (List.range (p.nrec - 1)).filterMap fun j => one (j + 1)

/-- Channels of a record's page. -/
def Pool.dh (p : Pool) (r : Nat) : Nat := if p.narrow.contains r then 64 else 128

/-- The slots a record holds: frame, first slot, count. A lent frame is held whole; a page being moved inward holds both its
places, the outer one by its move (R406, R414). -/
def Page.held (g : Page) (dh : Nat) : Option (Nat × Nat × Nat) :=
  match g.state with
  | 1 | 2 | 3 => some (g.frame, g.slot, slotsOf g.format dh)
  | 4 => some (g.frame, 0, 4)
  | _ => none

abbrev Slots := Nat × Nat × Nat

def overlaps (a b : Slots) : Bool := a.1 = b.1 && a.2.1 < b.2.1 + b.2.2 && b.2.1 < a.2.1 + a.2.2

/-- The lowest frame of a range with k free aligned slots, and the lowest such slot (R411), by fuel on the frames. -/
def firstFit (used : List Slots) (k : Nat) : Nat → Nat → Option (Nat × Nat)
  | 0, _ => none
  | fuel + 1, f =>
    match (List.range (4 / k)).find? fun j => !used.any (overlaps (f, j * k, k)) with
    | some j => some (f, j * k)
    | none => firstFit used k fuel (f + 1)

/-- The slots in use: those of records, of moves under way, and those taken by the step so far. -/
def kvUsed (c : KvCtx) (taken : List Slots) : KvM (List Slots) := do
  let rs ← kvRecords c
  let p ← kvPool c
  let outer := (p.moves.filter fun m => m.tier = 1).filterMap fun m =>
    (rs.find? fun r => r.1 = m.record).map fun r => (m.frame, m.slot, slotsOf r.2.format (p.dh r.1))
  return (rs.filterMap fun r => r.2.held (p.dh r.1)) ++ outer ++ taken

def kvFitHbm (c : KvCtx) (taken : List Slots) (k : Nat) : KvM (Option (Nat × Nat)) := do
  return firstFit (← kvUsed c taken) k (← kvPool c).nhbm 0

def kvFitCxl (c : KvCtx) (taken : List Slots) (k : Nat) : KvM (Option (Nat × Nat)) := do
  let p ← kvPool c
  return firstFit (← kvUsed c taken) k p.ncxl p.nhbm

/-- Records that no step may take or evict: those awaiting the pending rule (R409). -/
def Pool.isPending (p : Pool) (r : Nat) : Bool := p.pending.any fun q => q.1 = r

/-- The record of the highest class and smallest age, then the lowest id. -/
def victimOf (rs : List (Nat × Page)) : Option (Nat × Page) :=
  rs.foldl (fun acc r => match acc with
    | none => some r
    | some a => if a.2.cls < r.2.cls || (a.2.cls = r.2.cls && r.2.age < a.2.age) then some r else acc) none

/-! ## Eviction (R412) -/

def Page.drop (p : Page) : Page := { p with state := 6, tier := 3, frame := 0, slot := 0, ready := 0, target := 0 }

/-- Finds CXL slots, making CXL records ABSENT one by one, by fuel on the records. Those that the step keeps are not eligible, as for an
eviction from HBM (DEDUCED from R412, log entry 136). -/
def kvCxlSlots (c : KvCtx) (taken : List Slots) (k : Nat) : Nat → KvM (Option (Nat × Nat))
  | 0 => return none
  | fuel + 1 => do
    match ← kvFitCxl c taken k with
    | some f => return some f
    | none =>
      let p ← kvPool c
      match victimOf ((← kvRecords c).filter fun r => r.2.state = 3 && 1 ≤ r.2.cls && !c.keep.contains r.1 && !p.isPending r.1) with
      | none => return none
      | some (r, g) =>
        kvPutPage c r g.drop
        kvCxlSlots c taken k fuel

/-- Writes a page's data to its slots of a CXL frame: as a compressed stream, or, where the stream is longer than the slots or a line is
poisoned, as they are (R356, R359, log entry 43). -/
def kvPlaceCxl (c : KvCtx) (f s room : Nat) (bs : List Byte) (bad : List Nat) : KvM Unit := do
  let stream := compressStream bs
  let packs : Bool := bad.isEmpty && stream.length ≤ room
  kvWriteLines c ((← kvPool c).frameAt f + 4608 * s) (if packs then stream else bs) bad
  kvOnPool c fun p => { p with packed := (if packs then [(f, s)] else []) ++ p.packed.filter (· != (f, s)) }

/-- A page's data in another format; where a line of them is poisoned, every line of the new data is (R359, log entry 43). -/
def requantised (g : Page) (dh : Nat) (x : Expansion) (format : Nat) : Page × List Byte × List Nat :=
  if g.format = format then (g, x.bytes, x.bad)
  else
    let (h, bs, _) := requantise g dh x.bytes format
    (h, bs, if x.bad.isEmpty then [] else List.range ((bs.length + 127) / 128))

/-- Moves a page to CXL in a format, or says that no CXL frame can be had. -/
def kvToCxl (c : KvCtx) (r : Nat) (g : Page) (format : Nat) : KvM Bool := do
  let p ← kvPool c
  let dh := p.dh r
  let (h, bs, bad) := requantised g dh (← kvFetch c.onBase g dh) format
  match ← kvCxlSlots c [] (slotsOf format dh) (p.nrec + 1) with
  | none => return false
  | some (f, s) =>
    kvPlaceCxl c f s (slotRoom format dh) bs bad
    kvPutPage c r { h with state := 3, tier := 1, frame := f, slot := s }
    return true

/-- A free borrowed frame with room for k slots. -/
def kvBorrowed (c : KvCtx) (k : Nat) : KvM (Option (Loan × Nat)) := do
  let p ← kvPool c
  let rs ← kvRecords c
  return p.borrowed.findSome? fun (l : Loan) =>
    if l.recalled.isSome then none
    else
      let used := (rs.filter fun r => r.2.state = 5 && r.2.lmod = l.module && r.2.frame = l.frame).map fun r =>
        (r.2.frame, r.2.slot, slotsOf r.2.format (p.dh r.1))
      ((List.range (4 / k)).find? fun j => !used.any (overlaps (l.frame, j * k, k))).map fun j => (l, j * k)

/-- Lending data packets (R450); the spec gives the operation fields no layout: bytes 0 to 3 the frame, byte 4 the slot, byte 5 what it
is (0 a read, 1 data to place, 2 data read), bytes 8 to 11 the offset and 12 to 15 the length of the whole, bytes 16 to 23 which of the
packet's 128-byte lines are poisoned, as R359 carries poison on (log entry 12). A packet carries at most 8,192 bytes (R430). -/
def lendingData (dst what frame slot : Nat) (payload : List Byte) (bad : List Nat) : List Packet :=
  (List.range (max 1 ((payload.length + 8191) / 8192))).map fun j =>
    let poisoned := ((List.range 64).filter fun i => bad.contains (64 * j + i)).foldl (fun m i => m + 2 ^ i) 0
    ⟨dst, 0, 9, 0, 0, 0,
      padTo 48 (bytesOfNat 4 frame ++ bytesOfNat 1 slot ++ bytesOfNat 3 what ++ bytesOfNat 4 (8192 * j) ++ bytesOfNat 4 payload.length ++
        bytesOfNat 8 poisoned),
      (payload.drop (8192 * j)).take 8192⟩

/-- Sends a lending packet over the port of its loan (R450). -/
def kvSend (c : KvCtx) (port : Nat) (p : Packet) : KvM Unit := modify fun m => sendVia m c.part (Fin.ofNat 6 port) p

/-- The port over which a module's frame is borrowed. -/
def Pool.portOf (p : Pool) (module frame : Nat) : Nat :=
  ((p.borrowed.find? fun l => l.module = module && l.frame = frame).map (·.port)).getD 0

/-- Evicts one RESIDENT record by its class's path. -/
def kvEvict (c : KvCtx) (r : Nat) (g : Page) : KvM Unit := do
  let p ← kvPool c
  let path := p.path g.cls
  let format := if path = 1 && g.format = 0 then 1 else if path = 2 then 3 else g.format
  if path = 3 then kvPutPage c r g.drop
  else
    let borrowed ← if path = 0 then kvBorrowed c (slotsOf g.format (p.dh r)) else pure none
    match borrowed with
    | some (l, s) =>
      let x ← kvFetch c.onBase g (p.dh r)
      (lendingData l.module 1 l.frame s x.bytes x.bad).forM (kvSend c l.port)
      kvOnPool c fun p => { p with borrowed := p.borrowed.map fun b =>
        if b.module = l.module && b.frame = l.frame then b.place s x.bytes x.bad else b }
      kvPutPage c r { g with state := 5, tier := 2, frame := l.frame, slot := s, lmod := l.module }
    | none =>
      if ← kvToCxl c r g format then return () else kvPutPage c r g.drop

/-- Finds k slots of an HBM frame, evicting pages one at a time (R411), by fuel on the records. `keep` lists the records that are not
eligible. When nothing fits, what has been evicted stays evicted. -/
def kvSlots (c : KvCtx) (keep : List Nat) (taken : List Slots) (k : Nat) : Nat → KvM (Nat × Nat)
  | 0 => kvFull (mkFault 0x25 0)
  | fuel + 1 => do
    match ← kvFitHbm c taken k with
    | some f => return f
    | none =>
      let p ← kvPool c
      let c := { c with keep := keep ++ c.keep }
      match victimOf ((← kvRecords c).filter fun r =>
          r.2.state = 1 && 1 ≤ r.2.cls && !c.keep.contains r.1 && !p.isPending r.1) with
      | none => kvFull (mkFault 0x25 0)
      | some (r, g) =>
        kvEvict c r g
        kvSlots c [] taken k fuel

/-- What a step allocates: new pages' records and frames, or frames for records brought back. -/
structure Taken where
  slots : List Slots
  ids : List Nat
  deriving DecidableEq, Repr, Inhabited

def Taken.none : Taken := ⟨[], []⟩

/-- One frame of k slots. -/
def kvTakeFrame (c : KvCtx) (keep : List Nat) (t : Taken) (k : Nat) : KvM (Nat × Nat × Taken) := do
  let p ← kvPool c
  let (f, s) ← kvSlots c keep t.slots k (p.nrec + 1)
  return (f, s, { t with slots := (f, s, k) :: t.slots })

/-- The lowest FREE record id, or the lowest id with its successor FREE for a page of two halves (R411). -/
def kvTakeIds (c : KvCtx) (t : Taken) (halves : Nat) : KvM (Nat × Taken) := do
  let p ← kvPool c
  let m ← get
  let free (r : Nat) : Bool := r < p.nrec && !t.ids.contains r && (match (kvPage c r).run m with
    | .ok (g, _) => g.state = 0
    | .error _ => false)
  match (List.range (p.nrec - 1)).find? fun j => (List.range halves).all fun h => free (j + 1 + h) with
  | some j => return (j + 1, { t with ids := (List.range halves).map (j + 1 + ·) ++ t.ids })
  | none => kvFull (mkFault 0x25 0)

/-! ## Release and settlement (R409) -/

/-- Whether the data of a record are being moved inward: the end of the move is all that ends its state (R406). -/
def Pool.inward (p : Pool) (r : Nat) : Bool := p.moves.any fun m => m.record = r && !m.own

/-- A record whose last reference is gone becomes FREE, at once or when the pending rule is met; one in transit once its move has
ended (R406). -/
def kvFreeLater (c : KvCtx) (r : Nat) : KvM Unit := do
  if c.walking c.now || (← kvPool c).inward r then kvOnPool c fun p => { p with pending := p.pending ++ [(r, c.now)] }
  else kvWrite c ((← kvPool c).recAt r) (List.replicate 1024 0)

def kvRelease (c : KvCtx) (ids : List Nat) : KvM Unit :=
  ids.forM fun r => do
    let g ← kvPage c r
    kvPutPage c r { g with refcount := g.refcount - 1 }
    if g.refcount ≤ 1 then kvFreeLater c r else return ()

/-- Releases the entries of a sequence that satisfy a test on the page index. -/
def kvReleaseWhere (c : KvCtx) (q : Seq) (out : Nat → Bool) : KvM Unit :=
  q.lanes.forM fun lh => ((List.range q.pages).filter out).forM fun i => do
    let e ← kvNat c (q.entryAt lh.1 lh.2 i) 8
    if e = 0 then return ()
    else
      kvRelease c (q.idsOf e)
      kvWrite c (q.entryAt lh.1 lh.2 i) (bytesOfNat 8 0)

def kvSettle (c : KvCtx) (q : Seq) : KvM Unit :=
  let ws := if q.slide = 0 then 0 else q.len - q.slide
  kvReleaseWhere c q fun i => q.end_ ≤ 64 * i || 64 * i + 63 < ws

end Sys2Proof.Machine
end

