-- ==== Sys2Proof/Machine/KvWrite.lean ====
section
/-! DEFINITION. `KVAPPEND`, `KVPUT` and `KVINV`, and the quantisation behind an append (R254 to R258, R407). -/

namespace Sys2Proof.Machine

/-- The cores of the clusters of a partition. -/
def State.coresOf (s : State) (n : Fin 16) : List Core :=
  (s.core :: s.parked).filter fun k => s.partOfCluster (6 * k.die.val + k.cluster.val) = some n

/-- The cores in the images of a partition's stopped tasks: their commands are not retired (R269). -/
def State.stoppedCores (s : State) (n : Fin 16) : List Core :=
  (s.ctl :: s.parkedCl).flatMap fun c => c.resumed.flatMap fun r => match r.2 with
    | .image i _ => if i.part = n then i.cores else []
    | _ => []

/-- The earliest cycle in which an attention command of a partition that is not retired read its descriptor (R409). -/
def State.oldestWalk (s : State) (n : Fin 16) : Option Nat :=
  ((s.coresOf n ++ s.stoppedCores n).flatMap fun k => ([2, 7] : List (Fin 8)).flatMap fun q =>
    (k.queue[q].started ++ k.queue[q].waiting).filter fun c => !c.records.isEmpty).foldl (fun acc c => match acc with
      | none => some c.readAt
      | some t => some (min t c.readAt)) none

/-- The records in the ranges of the running promotions of a partition (R412): a promotion lists them as its places. -/
def State.promoting (s : State) (n : Fin 16) : List Nat :=
  (s.coresOf n).flatMap fun k => (k.queue[(5 : Fin 8)].started.filter fun c => opOf c.image = 6 && c.fault.isNone).flatMap fun c =>
    c.places.map (·.1)

/-- The step context of a partition, on a die. -/
def State.kvCtxAt (s : State) (die : Fin 24) (n : Fin 16) : KvCtx := ⟨die, n, s.cycle, s.oldestWalk n, s.promoting n, false⟩

/-- The step context of the focus: a strand or an engine of its core acts. -/
def State.kvCtx (s : State) : KvCtx := { s.kvCtxAt s.die s.partNo with core := true }

/-- The state with a module in which the local store of the focus takes over the lines that the step has read (R169). -/
def State.withModule (s : State) (m : Module) : State :=
  { s with core := m.fetched.foldl Core.cacheLine s.core, mod := { m with fetched := [] } }

/-- Runs a step of the store on the focus; a failure leaves the state, with what the step leaves behind. -/
def State.runKv {α : Type} (s : State) (x : KvM α) : Except (EngineFault × State) (α × State) :=
  match x.run { s.mod with fetched := [] } with
  | .ok (v, m) => .ok (v, s.withModule m)
  | .error (f, some m) => .error (f, s.withModule m)
  | .error (f, none) => .error (f, s)

/-- The cause of a record that cannot be written or read (R233, R254). -/
def stateFault (g : Page) (l h i : Nat) : Option EngineFault :=
  let at_ := BitVec.ofNat 64 (i + l * 2 ^ 32 + h * 2 ^ 48)
  match g.state with
  | 0 => some (mkFault 0x15 0)
  | 2 => some ⟨0x21, BitVec.ofNat 64 g.ready, BitVec.ofNat 64 g.target, BitVec.ofNat 64 i⟩
  | 4 => some ⟨0x23, 0, 0, at_⟩
  | 6 => some ⟨0x22, 0, 0, at_⟩
  | 7 => some (mkFault 0x15 0)
  | _ => none

/-- What becomes of one record of a page index that is to be written: its id, header, the data to place in its frame, and the
record it was copied from. -/
structure PlanRec where
  id : Nat
  page : Page
  data : List Byte
  from_ : Option Nat

/-- A page index made ready for writing. -/
structure Plan where
  at_ : Nat
  recs : List PlanRec

def Plan.ids (p : Plan) : List Nat := p.recs.map (·.id)

/-- A fresh page of a sequence (R254, R405). -/
def freshPage (q : Seq) (v half : Bool) (f s : Nat) : Page where
  valid := 0
  ready := 0
  target := 0
  age := 0
  frame := f
  slot := s
  format := 0
  state := 1
  v := v
  half := half
  loose := false
  tier := 0
  cls := q.cls
  refcount := 1
  lmod := 0
  scales := List.replicate 256 0
  swatch := emptySwatch q.dh

/-- Allocates the records of a page index: `make j f s` gives the header and data of its j-th record (K halves, then V). -/
def kvPlanNew (c : KvCtx) (q : Seq) (keep : List Nat) (t : Taken) (at_ : Nat) (slots : Nat → Nat)
    (make : Nat → Nat → Nat → Page × List Byte × Option Nat) : KvM (Plan × Taken) := do
  let (k, t) ← kvTakeIds c t q.halves
  let (v, t) ← kvTakeIds c t q.halves
  let ids := (List.range q.halves).map (k + ·) ++ (List.range q.halves).map (v + ·)
  let step (acc : List PlanRec × Taken) (j : Nat × Nat) : KvM (List PlanRec × Taken) := do
    let (f, s, t) ← kvTakeFrame c keep acc.2 (slots j.2)
    let (p, bs, old) := make j.2 f s
    return (acc.1 ++ [⟨j.1, p, bs, old⟩], t)
  let (rs, t) ← ids.zipIdx.foldlM step ([], t)
  return (⟨at_, rs⟩, t)

/-- Copies the records of K or of V of a page index for the sequence alone (R254, R407); an ABSENT one is copied as ABSENT. -/
def kvCopyGroup (c : KvCtx) (q : Seq) (keep : List Nat) (t : Taken) (gs : List (Nat × Page)) : KvM (List PlanRec × Taken) := do
  let (k, t) ← kvTakeIds c t q.halves
  let step (acc : List PlanRec × Taken) (x : (Nat × Page) × Nat) : KvM (List PlanRec × Taken) := do
    let (r, g) := x.1
    let new : Page := { g with refcount := 1, cls := q.cls }
    if g.state = 6 then return (acc.1 ++ [⟨k + x.2, new, [], some r⟩], acc.2)
    else
      let bs ← kvData c g q.dh
      let (f, s, t) ← kvTakeFrame c keep acc.2 (slotsOf g.format q.dh)
      return (acc.1 ++ [⟨k + x.2, { new with state := 1, tier := 0, frame := f, slot := s, lmod := 0 }, bs, some r⟩], t)
  gs.zipIdx.foldlM step ([], t)

/-- Brings the records of K or of V of a page index back from CXL or a lender (R254). -/
def kvFetchGroup (c : KvCtx) (q : Seq) (keep : List Nat) (t : Taken) (gs : List (Nat × Page)) : KvM (List PlanRec × Taken) :=
  gs.foldlM (fun (acc : List PlanRec × Taken) g => do
    if g.2.state = 1 then return (acc.1 ++ [⟨g.1, g.2, [], none⟩], acc.2)
    else
      let bs ← kvData c g.2 q.dh
      let (f, s, t) ← kvTakeFrame c keep acc.2 (slotsOf g.2.format q.dh)
      return (acc.1 ++ [⟨g.1, { g.2 with state := 1, tier := 0, frame := f, slot := s, lmod := 0 }, bs, none⟩], t)) ([], t)

/-- The records of K, or of V, of an entry. -/
def kvGroup (c : KvCtx) (q : Seq) (e : Nat) (v : Bool) : KvM (List (Nat × Page)) := do
  let ids := q.idsOf e
  (if v then ids.drop q.halves else ids.take q.halves).mapM fun r => do return (r, ← kvPage c r)

/-- The first page among page indices that cannot be written, of whichever index (R254). -/
def kvStates (c : KvCtx) (q : Seq) (l h : Nat) (is : List Nat) : KvM Unit :=
  is.forM fun i => do
    let gs ← (q.idsOf (← kvNat c (q.entryAt l h i) 8)).mapM (kvPage c)
    match gs.findSome? fun g => stateFault g l h i with
    | some f => kvFail f
    | none => return ()

/-- Makes a page index ready for writing (R254, R407): an absent entry is allocated, a shared page is copied, and a page of CXL or of
a lender is brought back. -/
def kvPlan (c : KvCtx) (q : Seq) (keep : List Nat) (t : Taken) (l h i : Nat) : KvM (Plan × Taken) := do
  let at_ := q.entryAt l h i
  let e ← kvNat c at_ 8
  if e = 0 then
    kvPlanNew c q keep t at_ (fun _ => slotsOf 0 q.dh) fun j f s =>
      (freshPage q (q.halves ≤ j) (j % q.halves = 1) f s, [], none)
  else
    kvStates c q l h [i]
    let group (t : Taken) (gs : List (Nat × Page)) : KvM (List PlanRec × Taken) :=
      if gs.any fun g => 1 < g.2.refcount then kvCopyGroup c q keep t gs else kvFetchGroup c q keep t gs
    let (ks, t) ← group t (← kvGroup c q e false)
    let (vs, t) ← group t (← kvGroup c q e true)
    return (⟨at_, ks ++ vs⟩, t)

/-- The records of a group that are to be quantised (R256). -/
def toQuantise (gs : List (Nat × Page)) : Bool := gs.any fun g => g.2.state = 1 && g.2.format = 0

/-- Makes a page index ready for the quantisation of its RESIDENT BF16 pages: those that are shared are copied (R256). A group one of
whose halves is in transit cannot be copied. -/
def kvPlanBehind (c : KvCtx) (q : Seq) (keep : List Nat) (t : Taken) (l h i : Nat) : KvM (Plan × Taken) := do
  let at_ := q.entryAt l h i
  let e ← kvNat c at_ 8
  let group (t : Taken) (gs : List (Nat × Page)) : KvM (List PlanRec × Taken) :=
    if toQuantise gs && (gs.any fun g => 1 < g.2.refcount) && gs.all fun g => g.2.state != 2 && g.2.state != 4 then
      kvCopyGroup c q keep t gs
    else return (gs.map fun g => ⟨g.1, g.2, [], none⟩, t)
  let (ks, t) ← group t (← kvGroup c q e false)
  let (vs, t) ← group t (← kvGroup c q e true)
  return (⟨at_, ks ++ vs⟩, t)

/-- Carries out a plan: data, records, the sharers' counts, the entry. -/
def kvApply (c : KvCtx) (q : Seq) (p : Plan) : KvM Unit := do
  p.recs.forM fun r => do
    if !r.data.isEmpty then kvWrite c ((← kvPool c).dataAt r.page) r.data
    -- a copy counts as an access once its frame is obtained (R411, R413)
    if r.from_.isSome then kvPutPage c r.id { r.page with age := ← kvStamp c } else kvPutPage c r.id r.page
    kvOnPool c fun pl => { pl with narrow := (if q.dh = 64 then [r.id] else []) ++ pl.narrow.filter (· != r.id) }
    match r.from_ with
    | none => return ()
    | some o =>
      let g ← kvPage c o
      kvPutPage c o { g with refcount := g.refcount - 1 }
  let k := (p.recs.headD ⟨0, default, [], none⟩).id
  let v := (p.recs.getD q.halves ⟨0, default, [], none⟩).id
  kvWrite c p.at_ (bytesOfNat 8 (k + v * 2 ^ 32))

/-- One row of a page written in the page's format (R255, R257): the data and the flags. -/
def writeRow (g : Page) (dh : Nat) (data : List Byte) (t : Nat) (row : List Byte) : List Byte × Flags :=
  let v (ch : Nat) : Val := decodeElem .bf16 (bytesAt row (2 * ch) 2)
  let (o, bs, fl) : Nat × List Byte × Flags := match g.format with
    | 0 => (2 * t * dh, row, 0)
    | 1 =>
      let els := (List.range dh).map fun ch =>
        let sc := (g.scales.getD (if g.v then t else ch) 0).toNat
        roundTo .e4m3 .rne true 0 (if sc = 0xFF then .nan false else (v ch).scale (127 - (sc : Int)))
      (t * dh, els.map fun e => BitVec.ofNat 8 e.1, els.foldl (fun f e => f ||| e.2) 0)
    | f =>
      let slot := if f = 2 then 34 else 18
      let bl := (List.range (dh / 32)).map fun b =>
        mxEncode (if f = 2 then .e4m3 else .e2m1) slot .rne (fun _ => 0) ((List.range 32).map fun j => v (32 * b + j))
      (t * (dh / 32) * slot, bl.flatMap (·.1), bl.foldl (fun f e => f ||| e.2) 0)
  (data.take o ++ bs ++ data.drop (o + bs.length), fl)

/-- Writes rows of a page: `rows` lists position in the page and the bytes of the page's channels. Valid bits and swatch follow
(R255, R257, R358), and the write counts as an access (R413). Over a value that was valid the merged swatch need not be exact, and is
marked LOOSE (DEDUCED from R405, log entry 124). -/
def kvWriteRows (c : KvCtx) (q : Seq) (r : Nat) (rows : List (Nat × List Byte)) : KvM Flags := do
  let g ← kvPage c r
  let data ← kvData c g q.dh
  let (data, fl) := rows.foldl (fun (acc : List Byte × Flags) x =>
    let (d, f) := writeRow g q.dh acc.1 x.1 x.2
    (d, acc.2 ||| f)) (data, 0)
  let valid := rows.foldl (fun v x => if bitOf v x.1 then v else v + 2 ^ x.1) g.valid
  let swatch := mergeSwatch g q.dh fun ch => rows.map fun x => pageValue g q.dh data x.1 ch
  let age ← kvStamp c
  kvWrite c ((← kvPool c).dataAt g) data
  let again := rows.any fun x => bitOf g.valid x.1
  kvPutPage c r { g with valid := valid, swatch := swatch, loose := g.loose || g.format != 0 || again, age := age }
  return fl

/-- The bytes of one record's channels in a source row: row i of K or of V, half h (R254). -/
def sourceRow (q : Seq) (n : Nat) (src : List Byte) (v : Bool) (i half : Nat) : List Byte :=
  (src.drop (((if v then n else 0) + i) * 2 * q.d + 2 * 128 * half)).take (2 * q.dh)

/-- Writes n rows at positions from p0 on of (l, h), whose page indices the plans have made ready. -/
def kvWriteAll (c : KvCtx) (q : Seq) (plans : List (Nat × Plan)) (p0 n : Nat) (src : List Byte) : KvM Flags :=
  plans.foldlM (fun fl ip => do
    let inPage := (List.range n).filter fun i => (p0 + i) / 64 = ip.1
    ip.2.ids.zipIdx.foldlM (fun fl r => do
      let rows := inPage.map fun i => ((p0 + i) % 64, sourceRow q n src (q.halves ≤ r.2) i (r.2 % q.halves))
      return fl ||| (← kvWriteRows c q r.1 rows)) fl) 0

/-- Quantises a RESIDENT BF16 record in place to FP8 (R256). -/
def kvQuantise (c : KvCtx) (q : Seq) (r : Nat) : KvM Flags := do
  let g ← kvPage c r
  if g.state = 1 && g.format = 0 && g.refcount ≤ 1 then
    let data ← kvData c g q.dh
    let (h, bs, fl) := requantise g q.dh data 1
    kvWrite c ((← kvPool c).dataAt h) bs
    kvPutPage c r h
    return fl
  else return 0

/-- Page indices whose 64 positions all lie below e − W, with a RESIDENT BF16 record (R256). -/
def kvBehind (c : KvCtx) (q : Seq) (l h e : Nat) : KvM (List (Nat × Nat)) :=
  (List.range (min q.pages ((e - q.w) / 64))).foldlM (fun acc i => do
    let en ← kvNat c (q.entryAt l h i) 8
    let gs ← (q.idsOf en).mapM (kvPage c)
    return if gs.any fun g => g.state = 1 && g.format = 0 then acc ++ [(i, en)] else acc) []

/-- Plans for page indices of (l, h), each made by `plan`. -/
def kvPlanRange (plan : Taken → Nat → KvM (Plan × Taken)) (is : List Nat) (t : Taken) : KvM (List (Nat × Plan) × Taken) :=
  is.foldlM (fun acc i => do
    let (p, t) ← plan acc.2 i
    return (acc.1 ++ [(i, p)], t)) ([], t)

/-- The page indices of positions p0 to p0 + n − 1. -/
def pagesOf (p0 n : Nat) : List Nat := (List.range ((p0 + n - 1) / 64 - p0 / 64 + 1)).map (p0 / 64 + ·)

/-- The records that entries name. -/
def kvNamed (c : KvCtx) (q : Seq) (l h : Nat) (is : List Nat) : KvM (List Nat) :=
  is.foldlM (fun acc i => do return acc ++ q.idsOf (← kvNat c (q.entryAt l h i) 8)) []

/-- Fields of the control word (R254). -/
def ctlN (a : Word) : Nat := bitsOf a.toNat 56 6 + 1
def ctlHead (a : Word) : Nat := bitsOf a.toNat 48 8
def ctlLayer (a : Word) : Nat := bitsOf a.toNat 32 16
def ctlHandle (a : Word) : Nat := bitsOf a.toNat 0 32

/-- R255: `KVAPPEND` on a checked sequence. -/
def kvAppendStep (c : KvCtx) (a : Word) (q : Seq) (src : List Byte) : KvM (Nat × Flags) := do
  let l := ctlLayer a
  let h := ctlHead a
  let n := ctlN a
  let p0 := q.end_
  let touched := pagesOf p0 n
  kvStates c q l h touched
  let behind ← kvBehind c q l h (p0 + n)
  let shared ← behind.filterM fun x => do return ((← (q.idsOf x.2).mapM (kvPage c)).any fun g => 1 < g.refcount)
  let keep := (← kvNamed c q l h touched) ++ behind.flatMap fun x => q.idsOf x.2
  let (plans, t) ← kvPlanRange (fun t i => kvPlan c q keep t l h i) touched Taken.none
  let (copies, _) ← kvPlanRange (fun t i => kvPlanBehind c q keep t l h i) (shared.map (·.1)) t
  (plans ++ copies).forM fun p => kvApply c q p.2
  let fl ← kvWriteAll c q plans p0 n src
  let fl ← behind.foldlM (fun fl x => do
    let e ← kvNat c (q.entryAt l h x.1) 8
    (q.idsOf e).foldlM (fun fl r => do return fl ||| (← kvQuantise c q r)) fl) fl
  if a.getLsbD 63 then
    let q' := if a.getLsbD 62 then { q with tent := q.tent + n } else { q with len := q.len + n }
    kvPutSeq c (ctlHandle a) q'
    kvSettle c q'
  return (p0, fl)

/-- R257: `KVPUT` on a checked sequence. -/
def kvPutStep (c : KvCtx) (a : Word) (p0 : Nat) (q : Seq) (src : List Byte) : KvM (Nat × Flags) := do
  let l := ctlLayer a
  let h := ctlHead a
  let n := ctlN a
  let touched := pagesOf p0 n
  kvStates c q l h touched
  let keep ← kvNamed c q l h touched
  let (plans, _) ← kvPlanRange (fun t i => kvPlan c q keep t l h i) touched Taken.none
  plans.forM fun p => kvApply c q p.2
  return (p0, ← kvWriteAll c q plans p0 n src)

/-- R258: `KVINV` on a checked sequence: the bits of a mask at positions p0 to p0 + 63, those below the end. -/
def kvInvStep (c : KvCtx) (q : Seq) (p0 bits : Nat) : KvM Unit := do
  let i := p0 / 64
  let m := bits % 2 ^ min 64 (q.end_ - p0)
  if q.pages ≤ i then return ()
  else
    let hit ← q.lanes.filterM fun lh => do
      let gs ← (q.idsOf (← kvNat c (q.entryAt lh.1 lh.2 i) 8)).mapM (kvPage c)
      return gs.any fun g => g.valid &&& m != 0
    hit.forM fun lh => kvStates c q lh.1 lh.2 [i]
    let keep ← hit.foldlM (fun acc lh => do return acc ++ (← kvNamed c q lh.1 lh.2 [i])) []
    let (plans, _) ← hit.foldlM (fun (acc : List Plan × Taken) lh => do
      let (p, t) ← kvPlan c q keep acc.2 lh.1 lh.2 i
      return (acc.1 ++ [p], t)) ([], Taken.none)
    plans.forM fun p => kvApply c q p
    plans.forM fun p => p.ids.forM fun r => do
      let g ← kvPage c r
      if g.valid &&& m != 0 then kvPutPage c r { g with valid := g.valid - (g.valid &&& m), loose := true } else return ()

/-- A cause of a store instruction, with its tval and orig (R254, R268): `ctl` is x[a]. -/
def State.kvTrap (s : State) (ctl : Word) (f : EngineFault) : Answer :=
  let handle := BitVec.ofNat 64 (ctlHandle ctl)
  match f.code.toNat with
  | 0x20 | 0x23 | 0x25 => s.holdTrap f.code.toNat handle ctl
  | 0x21 => s.holdTrap 0x21 f.addr f.extra
  | 0x22 => s.holdTrap 0x22 handle (BitVec.ofNat 64 (f.extra2.toNat % 2 ^ 32))
  | 0x15 => s.holdTrap 0x15 ctl s.here
  | c => s.holdTrap c f.addr s.here

/-- The response of a store instruction: it writes x[d] and raises the flags (R254). -/
def State.kvHold (s : State) (e : Effect) (fl : Flags) : State :=
  s.onStrand fun f => { f with hold := some ⟨s.cycle, s.cycle + 14, e, fl, none⟩ }

/-- The checks of R254 from the handle on, for a form with a source: counts, the form's position rule, the source. -/
def State.kvChecked (s : State) (a : Word) (src : Nat) (rule : Seq → Bool) (step : KvCtx → Seq → List Byte → KvM (Nat × Flags)) :
    Except (EngineFault × State) ((Nat × Flags) × State) :=
  match s.runKv (kvSeq s.kvCtx (ctlHandle a)) with
  | .error e => .error e
  | .ok (q, t) =>
    let len := 2 * ctlN a * q.d * 2
    if q.layers ≤ ctlLayer a || q.heads ≤ ctlHead a || !rule q then .error (mkFault 0x15 0, t)
    else if s.spSize < src + len then .error (mkFault 0x14 src, t)
    else if s.spBad src len then .error (mkFault 0x30 src, t)
    else match t.runKv (step s.kvCtx q (s.spRead src len)) with
      | .error e => .error e
      | .ok r => .ok r

/-- R254, R255: appends rows to a sequence. -/
def execKvappend (d a b : Fin 64) (s : State) : Answer :=
  let ctl := s.xr a
  let xb := s.xr b
  if bitsOf xb.toNat 22 42 != 0 then s.raise 0x15 ctl s.here
  else if xb.toNat % 64 != 0 then s.raise 0x12 xb s.here
  else
    let rule (q : Seq) : Bool :=
      q.end_ + ctlN ctl ≤ 64 * q.pages && (!ctl.getLsbD 63 || (if ctl.getLsbD 62 then q.tent + ctlN ctl ≤ q.w else q.tent = 0))
    match s.kvChecked ctl xb.toNat rule fun c q src => kvAppendStep c ctl q src with
    | .error (f, t) => t.kvTrap ctl f
    | .ok ((p, fl), t) => issue (t.kvHold (.scalar d (BitVec.ofNat 64 p)) fl)

/-- R254, R257: writes rows of a sequence in place. -/
def execKvput (d a b : Fin 64) (s : State) : Answer :=
  let ctl := s.xr a
  let xb := s.xr b
  let p0 := bitsOf xb.toNat 32 32
  if bitsOf xb.toNat 22 10 != 0 || ctl.getLsbD 63 || ctl.getLsbD 62 then s.raise 0x15 ctl s.here
  else if xb.toNat % 64 != 0 then s.raise 0x12 (BitVec.ofNat 64 (bitsOf xb.toNat 0 22)) s.here
  else
    match s.kvChecked ctl (bitsOf xb.toNat 0 22) (fun q => p0 + ctlN ctl ≤ q.end_) fun c q src => kvPutStep c ctl p0 q src with
    | .error (f, t) => t.kvTrap ctl f
    | .ok ((p, fl), t) => issue (t.kvHold (.scalar d (BitVec.ofNat 64 p)) fl)

/-- R254, R258: clears valid bits. -/
def execKvinv (a b : Fin 64) (s : State) : Answer :=
  let ctl := s.xr a
  let p0 := bitsOf ctl.toNat 32 32
  match s.runKv (kvSeq s.kvCtx (ctlHandle ctl)) with
  | .error (f, t) => t.kvTrap ctl f
  | .ok (q, s) =>
    if p0 % 64 != 0 then s.kvTrap ctl (mkFault 0x15 0)
    else match s.runKv (kvInvStep s.kvCtx q p0 (s.xr b).toNat) with
      | .error (f, t) => t.kvTrap ctl f
      | .ok (_, t) => issue (t.kvHold .flagsOnly 0)

end Sys2Proof.Machine
end

