-- ==== Sys2Proof/Machine/FabricImages.lean ====
section
/-! DEFINITION. The images of fabric commands: the checks of R433, and of R446 for a read. -/

namespace Sys2Proof.Machine

/-- The result fields of hw14 and hw15. -/
def fabResOk (img : Image) (align : Nat) : Bool :=
  let v := hw32 img 14
  bitsOf v 22 9 = 0 && bitsOf v 0 22 % align = 0 && (bitOf v 31 || v = 0)

/-- The local side of a put or a get: a scratchpad address with LSP. -/
def fabLocalOk (img : Image) (v : Nat) : Bool := if flagOf img 0 then v < 2 ^ 22 && v % 8 = 0 else headAddrOk v 8

/-- The remote side with RSP: scratchpad address, core, cluster, die, handler. -/
def fabRemoteOk (v : Nat) : Bool := v % 8 = 0 && bitsOf v 33 15 = 0 && bitsOf v 28 5 ≤ 23 && bitsOf v 25 3 ≤ 5

def fabLenOk (v : Nat) : Bool := v % 8 = 0 && 8 ≤ v

def fabricOk (img : Image) : Bool :=
  let flags := hwBits img 0 0 6
  let q1 := hwBits img 4 0 64
  let q2 := hwBits img 8 0 64
  let module := hw img 12
  let tag := hwBits img 13 4 12
  let last := hw32 img 14
  hwZero img 16 31 && hwBits img 13 0 4 < 12 &&
  match opOf img with
  | 0 | 1 => flags = 0 && headAddrOk q1 64 && q2 < 2 ^ 32 && module = 0 && tag = 0 && fabResOk img 8
  | 2 =>
    flags < 8 && (!flagOf img 2 || flagOf img 1) && fabLocalOk img q1 && (if flagOf img 1 then fabRemoteOk q2 else headAddrOk q2 8) &&
    module < 2 ^ 12 && fabLenOk last
  | 3 => flags < 2 && headAddrOk q1 8 && fabLocalOk img q2 && module < 2 ^ 12 && tag = 0 && fabLenOk last
  | 4 => flags = 0 && headAddrOk q1 8 && module < 2 ^ 12 && tag = 0 && last = 0
  | 5 =>
    flags < 3 && (if flags = 1 then headAddrOk q1 64 else q1 = 0) && q2 < 64 && module = 0 && tag = 0 && fabResOk img 64 &&
    (flags != 0 || bitOf last 31)
  | _ => true

/-- A plain scratchpad side names no tile. -/
def fabricOperands (_img : Image) : List Operand := []

end Sys2Proof.Machine
end

