-- ==== Sys2Proof/Machine/MadderImages.lean ====
section
/-! DEFINITION. The images of Madder commands: the checks of R419. -/

namespace Sys2Proof.Machine

/-- An address quarter, aligned (R419). -/
def madAddrOk (img : Image) (align : Nat) : Bool := headAddrOk (hwBits img 8 0 64) align

/-- Result fields: zero without RES; aligned and in 22 bits with it. -/
def madResOk (img : Image) (align : Nat) : Bool :=
  let v := hw32 img 12
  if bitOf v 31 then bitsOf v 22 9 = 0 && bitsOf v 0 22 % align = 0 else v = 0

/-- Whether an image passes the checks of R419, the level apart: flags, unused fields, alignment, ranges. -/
def madFieldsOk (img : Image) : Bool :=
  let flags := hwBits img 0 0 6
  let handle := hw32 img 4
  let arg0 := hw32 img 6
  let addr := hwBits img 8 0 64
  let arg1 := hw32 img 14
  let plain : Bool := flags = 0 && arg1 = 0 && madResOk img 8
  hwZero img 16 31 &&
  match opOf img with
  | 0x00 => flags ≤ 1 && handle = 0 && arg0 = 0 && arg1 = 0 && madAddrOk img 256 && madResOk img 8
  | 0x01 => plain && madAddrOk img 8
  | 0x02 | 0x03 => plain && arg0 = 0 && addr = 0
  | 0x04 => plain && addr = 0
  | 0x05 => plain && addr = 0 && arg0 < 8
  | 0x06 => flags = 0 && madAddrOk img 8 && madResOk img 8
  | 0x07 => flags < 7 && addr = 0 && madResOk img 8
  | 0x08 => flags = 0 && madAddrOk img 64 && madResOk img 8
  | 0x09 => flags = 0 && handle = 0 && headAddrOk (arg0 + arg1 * 2 ^ 32) 64 && madAddrOk img 256 && madResOk img 8
  | 0x0A => flags ≤ 1 && arg0 < 6 && addr = 0 && madResOk img 8 && (flags = 1 || handle = 0)
  | 0x0B => flags = 0 && arg0 = 0 && arg1 = 0 && addr = 0 && bitOf (hw32 img 12) 31 && madResOk img 64
  | 0x0C => flags = 0 && addr = 0 && madResOk img 8
  | _ => true

/-- The check of R419 that an image fails: the registration of a pool also needs the privileged level. -/
def madderCheck (img : Image) (pl : Bool) : Option EngineFault :=
  if !madFieldsOk img then some (mkFault 0x07 0)
  else if opOf img = 0 && flagOf img 0 && !pl then some (mkFault 0x05 0)
  else none

end Sys2Proof.Machine
end

