-- ==== Sys2Proof/Machine/Engines.lean ====
section
/-! DEFINITION. Taking up a command: the head's checks, wait, claims and start, and the resumption of a cut command (R187, R191,
R194, R195). -/

namespace Sys2Proof.Machine

/-- The first check of R194 that a command fails. -/
def checkCommand (s : State) (c : Command) : Option EngineFault :=
  let img := c.image
  let coop := s.core.cooperative
  let bad := some (mkFault 0x07 0)
  match engineOfImage img, opOf img with
  | 0, 0 => if mmaOk coop img then none else bad
  | 0, 1 => if mdrainOk coop img then none else bad
  | 0, 2 => if mzeroOk coop img then none else bad
  | 0, _ => if mloadOk coop img then none else bad
  | 1, _ => if copyOk c then none else bad
  | 2, _ => if attOk coop img then none else bad
  -- R219: a TSTART of a task that names entry.t
  | 3, _ => if !tstartOk img then bad else if s.core.task.isSome && !s.core.tokenMode then some (mkFault 0x04 0) else none
  | 4, _ => if tcOk img then none else bad
  | 5, _ => madderCheck img c.pl
  | 6, _ => if fabricOk img then none else bad
  | _, _ => none

/-- The scratchpad operands a command claims. -/
def operandsOf (img : Image) : List Operand :=
  match engineOfImage img, opOf img with
  | 0, 0 => [srcOperand (hwBits img 6 12 4) (hw img 4), srcOperand (hwBits img 6 8 4) (hw img 5)]
  | 0, 1 => [dstOperand (hwBits img 5 12 4) (hw img 4)]
  | 0, 2 => []
  | 0, _ => [srcOperand (hwBits img 5 12 4) (hw img 4)]
  | 1, _ => copyOperands img
  | 2, _ => attOperands img
  | 6, _ => fabricOperands img
  | _, _ => []

/-- Whether a command of a queue other than `c` occupies its engine: one that performs its accesses, or that waits at its cursor
in the middle of them. -/
def Queue.busy (q : Queue) (c : Command) : Bool :=
  q.started.any fun d => d.seq != c.seq && d.fault.isNone && (d.due != 0 || d.paused)

/-- Whether the engine of a queue can take a command of it now: queue 1 runs 256 copies, the OPA one command of queue 0 or 2, T
one token when it waits for one, and every other engine one command; the next one starts in the cycle after a retirement
(R187, R190, R191, R220, R281). -/
def State.engineFree (s : State) (q : Fin 8) (c : Command) : Bool :=
  let idle (p : Fin 8) : Bool := !(s.core.queue[p]).busy c && (s.core.queue[p]).free ≤ s.cycle
  match q with
  | 1 => s.core.queue[q].started.length < 256
  | 0 | 2 => idle 0 && idle 2
  | 3 => idle q && s.core.t.run = .waiting
  | q => idle q

/-- The slot of the page ring that a command's engine is consuming (R232). -/
def Command.pageSlot (c : Command) : Option (Fin 64) := (c.claims.find? (·.page)).map (·.tile)

/-- Releases the slot of a page that has been consumed: F ← 0 and C ← 0 (R178). -/
def Core.releaseSlot (k : Core) (held : Option (Fin 64)) : Core :=
  match held with
  | none => k
  | some t => Core.releaseClaims k [⟨t, false, true⟩] true

/-- The page ring of an attention command: the tile of its tail slot can be claimed once the engine has released the slot that it
consumes, or the claim faults (R232). -/
def State.pageSlotFree (s : State) (img : Image) (held : Option (Fin 64)) : Bool :=
  opOf img = 2 ||
    (match State.claimState { s with core := s.core.releaseSlot held } (.ring (Fin.ofNat 8 (hwBits img 4 3 3)) true) with
    | .waits _ => false
    | _ => true)

/-- Whether a command waits for the data of a lender's frame (R233, R450). -/
def State.remoteWaiting (s : State) (c : Command) : Bool :=
  s.mod.ops.any fun o =>
    o.die = s.core.die && o.cluster = s.core.cluster && o.core = s.core.number && o.seq = c.seq && !o.network && !o.met

/-- Whether a Madder command waits for moves or loans of its own (R413 to R415): the records of a promotion that are moving, the
frames of a loan not answered, or of a recall not returned. -/
def State.madWaiting (s : State) (c : Command) : Bool :=
  engineOfImage c.image = 5 && (match s.mod.parts[s.partNo].pool with
    | none => false
    | some p =>
      if opOf c.image = 6 then c.places.any fun r => p.moves.any fun m => m.record = r.1 && !m.own
      else if opOf c.image = 0x0A then
        c.places.any fun r => p.lent.any fun l => l.frame = r.1 && (flagOf c.image 0 || !l.answered)
      else false)

/-- Blocks B of a share, and the member's number (R186). -/
def Core.share (k : Core) (blocks : Nat) : Nat × Nat :=
  match k.task with
  | some t => ((blocks + t.width - 1) / max 1 t.width, t.member)
  | none => (blocks, 0)

/-- The first block that a command of the matrix queue takes: that of the core's share for `MMA`, else that of its range (R186, R201). -/
def State.firstBlock (s : State) (img : Image) : Nat :=
  if opOf img = 0 then
    if flagOf img 2 then min (tileBlocks img) ((s.core.share (tileBlocks img)).2 * (s.core.share (tileBlocks img)).1) else 0
  else rangeUb img

/-- The command at its next block: a fault before its first one leaves the cursor there (R195). -/
def State.atFirstBlock (s : State) (c : Command) : Command :=
  if engineOfImage c.image = 0 then { c with cursor := { c.cursor with block := max (s.firstBlock c.image) c.cursor.block } } else c

/-- What the head of a queue does now. -/
inductive HeadState where
  /-- nothing can proceed -/
  | idle
  /-- a started command continues at its cursor -/
  | resumes (c : Command)
  /-- the head fails a check, or its claim does -/
  | fails (c : Command) (f : EngineFault)
  /-- the head starts -/
  | starts (c : Command)
  /-- the head waits for a counter, or for the claim of a tile (R192) -/
  | waitsCounter (c : Command)
  | waitsClaim (c : Command) (t : Fin 64)
  deriving DecidableEq, Repr

/-- The head of a queue that may proceed towards its start: none in a frozen queue, or behind a started command that goes on. -/
def Queue.head (q : Queue) : Option Command :=
  match q.next with
  | some (c, false) => some c
  | _ => none

/-- The rings that a command's operands name, with their direction. -/
def ringsOf (img : Image) : List (Fin 8 × Bool) :=
  (operandsOf img).filterMap fun o => match o with
    | .ring r d => some (r, d)
    | _ => none

/-- Whether a head that reached its claims earlier still waits for a slot at the same end of a ring (R180). -/
def State.barred (s : State) (q : Fin 8) (c : Command) : Bool :=
  let rank (p : Fin 8) : Nat := queueOrder.findIdx (· = p)
  queueOrder.any fun p => p != q && ((s.core.queue[p]).head).any fun d => !d.claimed && (match d.passed with
    | none => false
    | some t =>
      let mine := c.passed.getD s.cycle
      (t < mine || (t = mine && rank p < rank q)) && (ringsOf d.image).any fun r => (ringsOf c.image).contains r)

/-- The state with a head's claims made, and the head; or what stands against them. -/
def State.headClaims (s : State) (q : Fin 8) (c : Command) : Except ClaimState (State × Command) :=
  if c.claimed then .ok (s, c)
  else if s.barred q c then .error (.waits (((operandsOf c.image).findSome? s.operandTile).getD 0))
  else match s.claimAll c (operandsOf c.image) with
    | .ok (t, d) => .ok (t, { d with claimed := true })
    | .error e => .error e

def State.headState (s : State) (q : Fin 8) : HeadState :=
  match (s.core.queue[q]).next with
  | none => .idle
  | some (c, true) =>
    let busy : Bool := match q with
      | 1 => false
      | q => !s.engineFree q c
    -- an attention command waits for a slot only where it has stopped for one (R232)
    let walks := engineOfImage c.image = 2 && ((c.paused && !s.pageSlotFree c.image c.pageSlot) || s.remoteWaiting c)
    if busy || walks || s.madWaiting c then .idle else .resumes c
  | some (c, false) =>
    match checkCommand s c with
    | some f => .fails c f
    | none =>
      if c.passed.isNone && !s.waitDone false q c.image then .waitsCounter c
      else match s.headClaims q c with
        | .error (.waits t) => .waitsClaim c t
        | .error (.fault a) => .fails (s.atFirstBlock c) (mkFault 0x15 a)
        | .error .ready => .idle
        | .ok _ => if s.engineFree q c then .starts c else .idle

/-! ## The phases of the heads (R180, R191) -/

/-- Replaces the head of a queue. -/
def State.setHead (s : State) (q : Fin 8) (c : Command) : State :=
  let v := s.core.queue[q]
  s.putQueue false q { v with waiting := c :: v.waiting.tail }

/-- A head whose wait is satisfied has passed its wait and acquire phases, and stands at its claims. -/
def State.passHead (s : State) (q : Fin 8) : State :=
  match (s.core.queue[q]).head with
  | none => s
  | some c =>
    if c.passed.isNone && (checkCommand s c).isNone && s.waitDone false q c.image then
      s.setHead q { c with passed := some s.cycle }
    else s

/-- A head that stands at its claims makes them, if it can. -/
def State.claimHead (s : State) (q : Fin 8) : State :=
  match (s.core.queue[q]).head with
  | none => s
  | some c =>
    if c.passed.isSome && !c.claimed then
      match s.headClaims q c with
      | .ok (t, d) => t.setHead q d
      | .error _ => s
    else s

/-- Whether the core's engines take up queued commands: not while it is halted in FREEZE mode (R275), or while a forced
pre-emption stops it (R269). -/
def Core.enginesRun (k : Core) : Bool :=
  k.halt.all (·.drain) && k.task.all fun t => !t.forced || t.ending.isSome

/-- The heads of the core's queues proceed: waits that are satisfied are passed, and claims are made in the order in which the
heads reached them. -/
def State.settleHeads (s : State) : State :=
  if s.core.enginesRun && s.core.queue.toList.any fun q => !q.waiting.isEmpty then
    let t := queueOrder.foldl State.passHead s
    let at_ (q : Fin 8) : Nat := (((t.core.queue[q]).head).bind (·.passed)).getD 0
    let order := queueOrder.foldl (fun (acc : List (Fin 8)) q =>
      acc.takeWhile (fun p => at_ p ≤ at_ q) ++ q :: acc.dropWhile (fun p => at_ p ≤ at_ q)) []
    order.foldl State.claimHead t
  else s

/-- The command a queue takes up in its next step. -/
def HeadState.command : HeadState → Option Command
  | .resumes c => some c
  | .fails c _ => some c
  | .starts c => some c
  | _ => none

/-- The work of an engine on a command that it has taken up. -/
abbrev Work := State → Command → State × Command × Progress

/-- Runs a command that has its claims: its accesses to the end, to a fault, or to a wait. -/
def State.work (s : State) (q : Fin 8) (c : Command) (f : Work) : State :=
  let (s, c, p) := f s c
  let v := s.core.queue[q]
  match p with
  | .done dur => s.begun false q c dur
  | .fault e => s.faultCommand false q c e true
  | .pause => s.putQueue false q { v with started := insertStarted { c with due := 0, paused := true } v.started }

/-- A step of the engine of queue q on a command of the given engine and op code, if one can be taken up. -/
def State.engineStep (s : State) (q : Fin 8) (e op : Nat) (f : Work) : Answer :=
  let mine (c : Command) : Bool := engineOfImage c.image = e && opOf c.image = op
  let drop (c : Command) : State := s.putQueue false q ((s.core.queue[q]).remove c.seq)
  match s.headState q with
  | .resumes c => if mine c then .next ((drop c).work q c f) else .fault .notEnabled
  | .fails c e => if mine c then .next ((drop c).faultCommand false q c e false) else .fault .notEnabled
  | .starts c =>
    if mine c then
      match (drop c).headClaims q c with
      | .ok (t, c) =>
        let t := { t with core := { t.core with
          copies := if q = 1 then t.core.copies + 1 else t.core.copies
          opaLast := if q = 0 || q = 2 then some q.val else t.core.opaLast } }
        .next (t.work q { c with number := if q = 1 then t.core.copies % 512 else 0 } f)
      | .error _ => .fault .notEnabled
    else .fault .notEnabled
  | _ => .fault .notEnabled

end Sys2Proof.Machine
end

