-- ==== Sys2Proof/Machine/Copy.lean ====
section
/-! DEFINITION. The copy engine (R207 to R218, R235). -/

namespace Sys2Proof.Machine

/-- Bounds of the used dimensions of a copy nest. -/
def nestBounds (n : Image) : List Nat := (List.range (cnestDim n + 1)).map (cnestBound n)

def product (l : List Nat) : Nat := l.foldl (· * ·) 1

/-- The nest index of linear index i, dimension 0 innermost; six entries. -/
def nestIndex (bounds : List Nat) (i : Nat) : List Nat :=
  (List.range 6).map fun d => if d < bounds.length then i / product (bounds.take d) % max 1 (bounds.getD d 1) else 0

/-- The linear index of a nest index. -/
def nestLinear (bounds : List Nat) (c : List Nat) : Nat :=
  (List.range bounds.length).foldl (fun acc d => acc + c.getD d 0 * product (bounds.take d)) 0

/-- What a copy needs at every element: its image, nest, records and places. -/
structure CopyJob where
  cmd : Command
  src : Option TensorRec
  dst : Option TensorRec
  deriving Repr

def CopyJob.img (j : CopyJob) : Image := j.cmd.image
def CopyJob.op (j : CopyJob) : Nat := opOf j.img
def CopyJob.bounds (j : CopyJob) : List Nat := nestBounds j.cmd.nest

/-- Element offset Σ c[d] × stride[d]. -/
def elemOffset (c : List Int) (stride : Nat → Int) : Int :=
  (List.range c.length).foldl (fun acc d => acc + c.getD d 0 * stride d) 0

/-- The byte address at an element offset, w bits an element, and whether it is a high nibble (R8, R209). -/
def elemAt (base : Int) (off : Int) (w : Nat) : Int × Bool :=
  if w = 4 then (base + off / 2, off % 2 = 1) else (base + off * (w / 8 : Nat), false)

/-- A virtual address from an integer. -/
def wrapVa (a : Int) : Nat := (a % (2 ^ 64 : Nat)).toNat

/-- The fault of n bytes at an address of an operand's place: an operand at an address may lie anywhere in the scratchpad, which
begins at 0 (R168, R209), and one in a tile lies in the tile (R197). -/
def placeFault (pl : Nat × Nat) (a : Int) (n : Nat) : Option EngineFault :=
  if pl.2 = 2 ^ 22 then (if a < 0 then some (mkFault 0x14 (wrapVa a)) else none)
  else if a < pl.1 || (pl.1 + pl.2 : Nat) < a + n then some (mkFault 0x15 (wrapVa a))
  else none

/-- Reads n bytes of the scratchpad at an operand's place. -/
def State.placeRead (s : State) (pl : Nat × Nat) (a : Int) (n : Nat) : Except EngineFault (List Byte) :=
  match placeFault pl a n with
  | some f => .error f
  | none => s.engRead a.toNat n

def State.placeWrite (s : State) (pl : Nat × Nat) (a : Int) (bs : List Byte) : Except EngineFault State :=
  match placeFault pl a bs.length with
  | some f => .error f
  | none => s.engWrite a.toNat bs

/-- The nibble of a byte, or the whole value. -/
def pickNibble (w : Nat) (high : Bool) (v : Nat) : Nat := if w = 4 then (if high then v / 16 % 16 else v % 16) else v

/-- The bytes to write for an element: a 4-bit one keeps the other nibble of the old byte. -/
def mergeNibble (w : Nat) (high : Bool) (old v : Nat) : List Byte :=
  if w = 4 then bytesOfNat 1 (if high then old % 16 + v % 16 * 16 else old / 16 % 16 * 16 + v % 16) else bytesOfNat (w / 8) v

/-- The place of a scratchpad side: mode 2 is the base address, the tile modes the tile. -/
def CopyJob.place (j : CopyJob) (dest : Bool) : Nat × Nat := j.cmd.places.getD (if dest then 1 else 0) (0, 0)

/-- The coordinates of a tensor side (R217): start + x in each dimension of the nest. -/
def tensorCoord (start : Nat → Nat) (x : List Int) : List Int := (x.zipIdx).map fun p => (start p.2 : Int) + p.1

/-- Reads the source element at x: its bits, or none when it is skipped (R209, R214, R217). -/
def CopyJob.read (j : CopyJob) (s : State) (x : List Int) : Except EngineFault (Option Nat × State) :=
  let t := copySfmt j.img
  let size := max 1 (t.width / 8)
  match copySmode j.img, j.src with
  | 1, some r =>
    let co := tensorCoord (cnestSraw j.cmd.nest) x
    if !r.inside co then .ok (none, s)
    else match s.tensorLoad r co size with
      | .error f => .error f
      | .ok (bs, s) => .ok (some (pickNibble t.width (r.address co).2 (natOfBytes bs)), s)
  | 0, _ =>
    let (a, high) := elemAt (copySrc j.img : Nat) (elemOffset x (cnestS j.cmd.nest)) t.width
    match s.engLoad (wrapVa a) size (flagOf j.img 0) with
    | .error f => .error f
    | .ok (bs, s) => .ok (some (pickNibble t.width high (natOfBytes bs)), s)
  | _, _ =>
    let pl := j.place false
    let (a, high) := elemAt (pl.1 : Nat) (elemOffset x (cnestS j.cmd.nest)) t.width
    match s.placeRead pl a size with
    | .error f => .error f
    | .ok bs => .ok (some (pickNibble t.width high (natOfBytes bs)), s)

/-- Where WIDEN puts element c0 of dimension 0: the first element of its run of N, and its place within the run (R213). -/
def CopyJob.runPlace (j : CopyJob) (c0 : Nat) : Nat × Nat :=
  if flagOf j.img 2 then
    let n := (copySfmt j.img).count
    let g := (copyDfmt j.img).width / (copySfmt j.img).width
    (c0 / n * n, c0 % n % g * (n / g) + c0 % n / g)
  else (c0, 0)

/-- The destination index of nest index c: `CPY.T` exchanges dimensions 0 and 1 (R211), and WIDEN interleaves the elements of a
run from the run's destination on, along the destination's dimension 0 of stride 1 (R213). -/
def CopyJob.destIndex (j : CopyJob) (c : List Nat) : List Int :=
  let (run, place) := j.runPlace (c.getD 0 0)
  let d := if j.op = 1 then (c.set 0 (c.getD 1 0 + place)).set 1 run else c.set 0 (run + place)
  d.map fun (v : Nat) => (v : Int)

/-- The byte address of the destination element, for a flat or scratchpad side. -/
def CopyJob.destAddr (j : CopyJob) (base w : Nat) (c : List Nat) : Int × Bool :=
  elemAt (base : Nat) (elemOffset (j.destIndex c) (cnestD j.cmd.nest)) w

/-- Writes the destination element at c (R209, R211, R213, R217). -/
def CopyJob.write (j : CopyJob) (s : State) (c : List Nat) (v : Nat) : Except EngineFault State :=
  let t := copyDfmt j.img
  let w := t.width
  match copyDmode j.img, j.dst with
  | 1, some r =>
    let co := tensorCoord (cnestDraw j.cmd.nest) (j.destIndex c)
    if !r.inside co then .ok s
    else if w = 4 then s.tensorPut r co 1 fun old => mergeNibble 4 (r.address co).2 (natOfBytes old) v
    else s.tensorStore r co (bytesOfNat (w / 8) v)
  | 0, _ =>
    let (a, high) := j.destAddr (copyDst j.img) w c
    if w = 4 then
      match s.engPlace { accWrite with tensor := flagOf j.img 0 } (wrapVa a) 1 with
      | .error f => .error f
      | .ok pl => .ok ((s.note (BitVec.ofNat 64 (wrapVa a)) pl false).storeAt pl
          (mergeNibble 4 high (natOfBytes (physRead s.mod pl.pa 1)) v))
    else s.engStore (wrapVa a) (bytesOfNat (w / 8) v) (flagOf j.img 0)
  | _, _ =>
    let pl := j.place true
    let (a, high) := j.destAddr pl.1 w c
    s.placeWrite pl a (mergeNibble w high (s.core.scratch.get a.toNat).toNat v)

/-- The index that a copy uses in place of c (R210): shifted by the pads, or the table's entry in dimension idim; none where
the source element is skipped by the table. The boolean says that the element is padding. -/
def CopyJob.sourceIndex (j : CopyJob) (c : List Nat) (entry : Nat) : Option (List Int) × Bool :=
  let x := c.map fun (v : Nat) => (v : Int)
  if j.op = 3 then
    let x := (x.zipIdx).map fun p => if p.2 ≤ cnestDim j.cmd.nest then p.1 - (padLo j.img p.2 : Int) else p.1
    (some x, (List.range (cnestDim j.cmd.nest + 1)).any fun d => x.getD d 0 < 0 || (padExt j.img d : Int) ≤ x.getD d 0)
  else if j.op = 2 || j.op = 4 then
    if entry = 2 ^ 32 - 1 then (none, false) else (some (x.set (copyIdim j.img) (entry : Int)), false)
  else (some x, false)

/-- The element that a copy writes at c, before conversion: its source bits, or none for padding. -/
def CopyJob.fetch (j : CopyJob) (s : State) (c : List Nat) (entry : Nat) : Except EngineFault (Nat × Bool × State) :=
  match j.sourceIndex c entry with
  | (_, true) => .ok (hw32 j.img 18 % 2 ^ (copyDfmt j.img).width, true, s)
  | (none, _) => .ok (0, false, s)
  | (some x, _) =>
    match j.read s x with
    | .error f => .error f
    | .ok (v, s) => .ok (v.getD 0, false, s)

/-- One element (R210): read, convert with the stream word of its linear index n, and write. -/
def CopyJob.element (j : CopyJob) (s : State) (c : List Nat) (n entry : Nat) : Except EngineFault (State × Flags) :=
  if j.op = 4 then
    let v := match (j.sourceIndex c entry).1 with
      | none => 2 ^ 64 - 1
      | some x => wrapVa (elemAt (copySrc j.img : Nat) (elemOffset x (cnestS j.cmd.nest)) (copySfmt j.img).width).1
    let pl := j.place true
    match s.placeWrite pl (elemAt (pl.1 : Nat) (elemOffset (c.map fun (v : Nat) => (v : Int)) (cnestD j.cmd.nest)) 64).1 (bytesOfNat 8 v) with
    | .error f => .error f
    | .ok s => .ok (s, 0)
  else
    match j.fetch s c entry with
    | .error f => .error f
    | .ok (v, pad, s) =>
      let (b, fl) : Nat × Flags :=
        if pad || copySfmt j.img = copyDfmt j.img then (v, 0)
        else convertElem (copySfmt j.img) (copyDfmt j.img) ((Rm.ofCode (hwBits j.img 13 5 3)).getD .rne) (hwBits j.img 13 4 1 = 1)
          (srWord j.cmd.seed j.cmd.wid (hw j.img 14) n) v
      match j.write s c b with
      | .error f => .error f
      | .ok s => .ok (s, fl)

/-- The elements from linear index n on, by fuel on the elements left: the state, the flags, the number of table reads, and
the element that faults. -/
def CopyJob.run (j : CopyJob) : Nat → State → Nat → Nat → Flags → Nat → Bool → State × Flags × Nat × Option (Nat × EngineFault)
  | 0, s, _, _, fl, reads, _ => (s, fl, reads, none)
  | fuel + 1, s, n, entry, fl, reads, first =>
    let c := nestIndex j.bounds n
    -- a table entry is read where c[idim] takes a new value (R212)
    let table := (j.op = 2 || j.op = 4) && (first || n % product (j.bounds.take (copyIdim j.img)) = 0)
    let e : Except EngineFault Nat :=
      if table then
        match s.engRead (copyTable j.img + 4 * c.getD (copyIdim j.img) 0) 4 with
        | .error f => .error f
        | .ok bs => .ok (natOfBytes bs)
      else .ok entry
    match e with
    | .error f => (s, fl, reads, some (n, f))
    | .ok entry =>
      match j.element s c n entry with
      | .error f => (s, fl, reads, some (n, f))
      | .ok (s, g) => j.run fuel s (n + 1) entry (fl ||| g) (if table then reads + 1 else reads) false

/-- The records that a copy names, source first (R209, R218). -/
def copyRecords (img : Image) : List Nat :=
  (if copySmode img = 1 then [copySrc img] else []) ++ (if copyDmode img = 1 then [copyDst img] else [])

/-- The records parsed and checked against the sides' formats, or the address of a bad one (R217). -/
def copyJob (c : Command) : Except Nat CopyJob :=
  let rs := c.records.map parseRec
  let src := if copySmode c.image = 1 then rs.head? else none
  let dst := if copyDmode c.image = 1 then rs.getLast? else none
  let bad (r : Option TensorRec) (t : ElemType) : Bool := r.any fun r => !r.ok || r.fmt != t
  if bad src (copySfmt c.image) then .error (copySrc c.image)
  else if bad dst (copyDfmt c.image) then .error (copyDst c.image)
  else .ok ⟨c, src, dst⟩

/-- The first destination address and the span of a copy that starts a context (R216): from the first element's byte to the
byte behind the last one's. -/
def CopyJob.span (j : CopyJob) (total : Nat) : Nat × Nat :=
  let w := if j.op = 4 then 64 else (copyDfmt j.img).width
  let at_ (n : Nat) : Int := (j.destAddr (j.place true).1 w (nestIndex j.bounds n)).1
  let lo := at_ 0
  let hi := at_ (total - 1) + (max 1 (w / 8) : Nat)
  (wrapVa lo, wrapVa (hi - lo))

/-- The work of a copy command (R210 to R217): a fault leaves the cursor at the first element not written (R195). Each table
read adds 24 cycles (R212). A nest with a zero bound accesses nothing, and the spec does not say whether it reads its
records: the model reads none of them (DESIGN CHOICE, log entry 116). -/
def copyWork (s : State) (c : Command) : State × Command × Progress :=
  let bounds := nestBounds c.nest
  let total := product bounds
  if total = 0 then (s, c, .done 1)
  else match s.needRecords c (copyRecords c.image) with
    | (s, c, some f) => (s, c, .fault f)
    | (s, c, none) =>
      match copyJob c with
      | .error a => (s, c, .fault (mkFault 0x15 a))
      | .ok j =>
        let start := nestLinear bounds c.cursor.c
        let (s, fl, reads, stop) := j.run (total - start) s start 0 0 0 true
        let c := { c with flags := c.flags ||| fl }
        match stop with
        | some (n, f) => (s, { c with cursor := { c.cursor with c := nestIndex bounds n } }, .fault f)
        | none =>
          let c := if flagOf c.image 1 then { c with aux := 1, places := [(0, 0), j.span total] } else c
          (s, c, .done (1 + 24 * reads))

/-- R210: a copy walks its nest and writes each destination element. -/
def execCpy (s : State) : Answer := s.engineStep 1 1 0 copyWork

/-- R211: the copy with dimensions 0 and 1 of the destination exchanged. -/
def execCpyT (s : State) : Answer := s.engineStep 1 1 1 copyWork

/-- R212: the copy whose index in one dimension comes from a table. -/
def execCpyG (s : State) : Answer := s.engineStep 1 1 2 copyWork

/-- R210: the copy with padding. -/
def execCpyPad (s : State) : Answer := s.engineStep 1 1 3 copyWork

/-- R235: writes the addresses that a gather would read. -/
def execAgen (s : State) : Answer := s.engineStep 1 1 4 copyWork

end Sys2Proof.Machine
end

