-- ==== Sys2Proof/Machine/Matrix.lean ====
section
/-! DEFINITION. The matrix engine (R184 to R187, R197 to R205). An accumulator line, as poison marks it, is 128 bytes of one
plane (log entry 11). -/

namespace Sys2Proof.Machine

/-! ## Tiles of the accumulator store -/

/-- Plane width e of a block: 1 for ACC32, 4 for ACCX (R185). -/
def planeWidth (img : Image) : Nat := if flagOf img 0 then 4 else 1

/-- Planes of the task's accumulator range (R185). -/
def Core.accPlanes (k : Core) : Nat :=
  match k.task with
  | some t => (t.header.acc + 65535) / 65536
  | none => 32

/-- The core that holds block u, by its number in the cluster, and the block's first plane there (R185, R186). -/
def State.holder (s : State) (img : Image) (coop : Bool) (u : Nat) : Nat × Nat :=
  if coop then
    let (b, m) := s.core.share (tileBlocks img)
    (s.core.number.val - m + u / max 1 b, tilePlane img + planeWidth img * (u % max 1 b))
  else (s.core.number.val, tilePlane img + planeWidth img * u)

/-- The first of some blocks whose planes leave the holder's range, as a fault: nothing is accessed (R185). -/
def State.planesBad (s : State) (img : Image) (coop : Bool) (us : List Nat) : Option EngineFault :=
  us.findSome? fun u =>
    let (n, p) := s.holder img coop u
    if (s.clusterCore n).accPlanes < p + planeWidth img then some (mkFault 0x14 (65536 * p)) else none

/-- A word of a block: cell 128 r + c of e planes from plane p on, least significant word first (R184). -/
def accCell (m : Memory) (p e cell : Nat) : Nat :=
  (List.range e).foldl (fun acc i => acc + m.nat (65536 * (p + i) + 4 * cell) 4 * 2 ^ (32 * i)) 0

def accCells (m : Memory) (p e : Nat) : List Nat := (List.range 16384).map (accCell m p e)

/-- Replaces a block by its 16,384 values. -/
def accPut (m : Memory) (p e : Nat) (vs : List Nat) : Memory :=
  (List.range e).foldl (fun m i => m.write (65536 * (p + i)) (vs.flatMap fun v => bytesOfNat 4 (v / 2 ^ (32 * i)))) m

def noBlockFlags : BlockFlags := ⟨0, .none⟩

/-- The core with a block's values and flags; the lines of the block lose their poison (R175). -/
def Core.putBlock (k : Core) (p e : Nat) (vs : List Nat) (fl : BlockFlags) : Core :=
  { k with
    acc := accPut k.acc p e vs, accPoison := clearPoison k.accPoison (65536 * p) (65536 * e)
    blocks := k.blocks.set (Fin.ofNat 32 p) fl }

def Core.zeroBlock (k : Core) (p e : Nat) : Core := k.putBlock p e (List.replicate 16384 0) noBlockFlags

def Core.blockPoisoned (k : Core) (p e : Nat) : Bool := poisonedIn k.accPoison (65536 * p) (65536 * e)

def Core.blockFlags (k : Core) (p : Nat) : BlockFlags := k.blocks[(Fin.ofNat 32 p : Fin 32)]

/-! ## MMA (R198 to R200) -/

/-- One element stream of an operand for a k group: the 32 values of a row or column, and its rate K. -/
abbrev Stream := List Val × Nat

/-- Slot bytes of an MX operand format (R199). -/
def mmaSlot (fmt : Nat) : Nat := if fmt = 2 then 18 else if fmt = 3 then 26 else 34

def chunks (n : Nat) : Nat → List Byte → List (List Byte)
  | 0, _ => []
  | k + 1, bs => bs.take n :: chunks n k (bs.drop n)

/-- The values of a block as operands of `MMA`: those of a block of scale 0xFF raise IV in its products (R199). -/
def mmaValues (slot : Nat) (block : List Byte) : Option (List Val) :=
  (mxDecode slot block).map fun vs =>
    if (block.headD 0).toNat != 0xF0 && ((block.drop 1).headD 0).toNat = 0xFF then vs.map fun _ => Val.nan true else vs

/-- The 128 streams of one operand for strip b and k group g (R198), or the fault of its reads: an address fault, or a bad
format byte with its stream block index. -/
def State.operandStreams (s : State) (pl : Nat × Nat) (fmt kgroups b g : Nat) : Except EngineFault (List Stream) :=
  if fmt ≤ 1 then
    match s.placeRead pl (pl.1 + (b * kgroups + g) * 8192 : Nat) 8192 with
    | .error f => .error f
    | .ok bs =>
      let els := (chunks 2 4096 bs).map fun e => decodeElem (if fmt = 0 then .bf16 else .f16) (natOfBytes e)
      .ok ((List.range 128).map fun r => ((List.range 32).map fun k => els.getD (128 * k + r) Val.zero, 2))
  else
    let slot := mmaSlot fmt
    let n0 := (b * kgroups + g) * 128
    match s.placeRead pl (pl.1 + n0 * slot : Nat) (128 * slot) with
    | .error f => .error f
    | .ok bs =>
      ((chunks slot 128 bs).zipIdx).foldr (fun p acc =>
        match mmaValues slot p.1 with
        | none => .error { mkFault 0x28 (pl.1 + (n0 + p.2) * slot) with extra2 := BitVec.ofNat 64 (n0 + p.2) }
        | some vs => match acc with
          | .error f => .error f
          | .ok l => .ok ((vs, mxRate (p.1.headD 0).toNat) :: l)) (.ok [])

/-- The k-steps of a cell: 32 products in runs of Kc (R22). -/
def cell32 (a : Nat) (row col : Stream) : Nat × Flags :=
  let kc := min row.2 col.2
  let ps := (row.1.zip col.1).map fun p => exactMul p.1 p.2
  (List.range (32 / kc)).foldl (fun acc t =>
    let (v, f) := acc32Step acc.1 ((ps.drop (kc * t)).take kc)
    (v, acc.2 ||| f)) (a, 0)

/-- The ACCX adds of a cell (R23): an invalid product counts as NaN. -/
def cellX (a : Nat) (anchor : Int) (row col : Stream) (fl : AccFlags) : Nat × AccFlags :=
  let (v, f) := (row.1.zip col.1).foldl (fun (acc : Int × AccFlags) p => accxAdd acc.1 (exactMul p.1 p.2).1 anchor acc.2)
    (signedOf 128 a, fl)
  (unsignedOf 128 v, f)

/-- A block after one k group. -/
def mmaBlock (x : Bool) (anchor : Int) (cells : List Nat) (fl : BlockFlags) (as bs : List Stream) : List Nat × BlockFlags :=
  let r := (cells.zipIdx).foldl (fun (acc : List Nat × BlockFlags) p =>
    let row := as.getD (p.2 / 128) ([], 2)
    let col := bs.getD (p.2 % 128) ([], 2)
    if x then
      let (v, f) := cellX p.1 anchor row col acc.2.x
      (v :: acc.1, { acc.2 with x := f })
    else
      let (v, f) := cell32 p.1 row col
      (v :: acc.1, { acc.2 with f32 := acc.2.f32 ||| f })) ([], fl)
  (r.1.reverse, r.2)

/-- One k group of one block: the state and the cycles it takes, or a fault. -/
def State.mmaGroup (s : State) (c : Command) (u g : Nat) : State × Except EngineFault Nat :=
  let img := c.image
  let coop := flagOf img 2
  let e := planeWidth img
  let (n, p) := s.holder img coop u
  let s := if flagOf img 1 && g = 0 then s.onClusterCore n (Core.zeroBlock · p e) else s
  let kg := hw img 8 + 1
  match s.operandStreams (c.places.getD 0 (0, 0)) (hwBits img 6 4 4) kg (u / (tileCb img + 1)) g with
  | .error f => (s, .error f)
  | .ok as =>
    match s.operandStreams (c.places.getD 1 (0, 0)) (hwBits img 6 0 4) kg (u % (tileCb img + 1)) g with
    | .error f => (s, .error f)
    | .ok bs =>
      let k := s.clusterCore n
      if k.blockPoisoned p e then (s, .error (mkFault 0x30 (65536 * p)))
      else
        let (vs, fl) := mmaBlock (flagOf img 0) (anchorOf img) (accCells k.acc p e) (k.blockFlags p) as bs
        (s.onClusterCore n (Core.putBlock · p e vs fl), .ok (32 / ((as ++ bs).foldl (fun m t => min m t.2) 8)))

/-- The k groups from a cursor on, by fuel: the state, the cycles, and the cursor of a fault. -/
def mmaRun (c : Command) (kg : Nat) : Nat → State → Nat → Nat → Nat → State × Nat × Option (Nat × Nat × EngineFault)
  | 0, s, _, _, cyc => (s, cyc, none)
  | fuel + 1, s, u, g, cyc =>
    match s.mmaGroup c u g with
    | (s, .error f) => (s, cyc, some (u, g, f))
    | (s, .ok d) => if g + 1 < kg then mmaRun c kg fuel s u (g + 1) (cyc + d) else mmaRun c kg fuel s (u + 1) 0 (cyc + d)

/-- The work of `MMA`. -/
def mmaWork (s : State) (c : Command) : State × Command × Progress :=
  let img := c.image
  let coop := flagOf img 2
  let blocks := tileBlocks img
  let (b, m) := s.core.share blocks
  let lo := if coop then min blocks (m * b) else 0
  let hi := if coop then min blocks ((m + 1) * b) else blocks
  match s.planesBad img coop ((List.range (hi - lo)).map (· + lo)) with
  | some f => (s, s.atFirstBlock c, .fault f)
  | none =>
    let kg := hw img 8 + 1
    let u := max lo c.cursor.block
    let (s, cyc, stop) := mmaRun c kg ((hi - u) * kg - c.cursor.k) s u c.cursor.k 16
    match stop with
    | some (u, g, f) => (s, { c with cursor := { c.cursor with block := u, k := g } }, .fault f)
    | none => (s, c, .done cyc)

/-- R199: adds A·B into the tile. -/
def execMma (s : State) : Answer := s.engineStep 0 0 0 mmaWork

/-! ## MDRAIN, MZERO and MLOAD (R201 to R205) -/

/-- What one block of a drain, a zero or a load does: the state, the command with its flags, and a fault. -/
abbrev BlockWork := State → Command → Nat → State × Command × Option EngineFault

def blocksRun (f : BlockWork) : Nat → State → Command → Nat → State × Command × Option EngineFault
  | 0, s, c, _ => (s, c, none)
  | fuel + 1, s, c, u =>
    match f s c u with
    | (s, c, some e) => (s, { c with cursor := { c.cursor with block := u } }, some e)
    | (s, c, none) => blocksRun f fuel s c (u + 1)

/-- The blocks of the range, from the cursor. -/
def rangeWork (f : BlockWork) (s : State) (c : Command) : State × Command × Progress :=
  let img := c.image
  let coop := flagOf img 1
  let named := if coop then (List.range (rangeNb img)).map (· + rangeUb img) else List.range (tileBlocks img)
  match s.planesBad img coop named with
  | some e => (s, s.atFirstBlock c, .fault e)
  | none =>
    let u := max (rangeUb img) c.cursor.block
    match blocksRun f (rangeUb img + rangeNb img - u) s c u with
    | (s, c, some e) => (s, c, .fault e)
    | (s, c, none) => (s, c, .done (16 + rangeNb img))

/-- Row and column of block u in the tile, in elements. -/
def blockOrigin (img : Image) (u : Nat) : Nat × Nat := (128 * (u / (tileCb img + 1)), 128 * (u % (tileCb img + 1)))

/-- Scratchpad offset of row r of a block: the row in the range times the pitch (R201). -/
def rowOffset (img : Image) (u r : Nat) : Nat :=
  ((blockOrigin img u).1 + r - 128 * (rangeUb img / (tileCb img + 1))) * hw img 8

/-- The value of an accumulator word (R202). -/
def accValue (x : Bool) (anchor : Int) (nan : Bool) (w : Nat) : Val :=
  if x then (if nan then .nan false else accxVal (signedOf 128 w) anchor) else decodeElem .f32 w

/-- The stored bytes of one row of a drained block with their flags, and the exact values they decode to. -/
def drainRow (c : Command) (i j0 : Nat) (vs : List Val) : List Byte × Flags × List Val :=
  let img := c.image
  let rm := (Rm.ofCode (hwBits img 5 5 3)).getD .rne
  let sat := hwBits img 5 4 1 = 1
  let word (n : Nat) : Nat := srWord c.seed c.wid (hw img 10) n
  let cols := tileCols img
  match drainFmt (hwBits img 5 8 4) with
  | some (.mx f) =>
    let slot := slotBytes (hwBits img 5 0 2)
    let outs := (List.range 4).map fun q =>
      mxEncode f slot rm (fun t => word (i * cols + j0 + 32 * q + t)) ((vs.drop (32 * q)).take 32)
    (outs.flatMap (·.1), orAll' (outs.map (·.2)), outs.flatMap fun o => (mxDecode slot o.1).getD [])
  | some (.elem t) =>
    let outs := (vs.zipIdx).map fun p => roundTo t rm sat (word (i * cols + j0 + p.2)) p.1
    (outs.flatMap fun o => bytesOfNat (t.width / 8) o.1, orAll' (outs.map (·.2)), outs.map fun o => decodeElem t o.1)
  | none => ([], 0, [])
where
  orAll' (fs : List Flags) : Flags := fs.foldl (· ||| ·) 0

/-- Offset of a drained row's bytes within the row: by element or by MX block. -/
def drainColumn (img : Image) (j0 : Nat) : Nat :=
  match drainFmt (hwBits img 5 8 4) with
  | some (.mx _) => j0 / 32 * slotBytes (hwBits img 5 0 2)
  | some (.elem t) => j0 * (t.width / 8)
  | none => 0

/-- The largest magnitude of the written values, as the merge word m of R202. The spec does not say whether the flags of this
rounding join the completion flags: the model drops them (DESIGN CHOICE, log entry 118). -/
def amaxWord (vs : List Val) : Nat :=
  if vs.any (·.isNan) then qnan .f32
  else (roundTo .f32 .rup true 0 (vs.foldl (fun m v => if m.lt v.abs then v.abs else m) Val.zero)).1

/-- The merge of a drained block into the word at amaxva: a non-returning atomic maximum. -/
def State.mergeAmax (s : State) (va m : Nat) : Except EngineFault State :=
  match s.engPlace accAtomic va 4 with
  | .error f => .error f
  | .ok pl =>
      let u := s.note (BitVec.ofNat 64 va) pl false
      .ok { u with mod := amoAt u.mod u.partNo false 0x1C pl.pa m 0 }

/-- One block of a drain. A block whose bytes do not all lie in the destination writes none of them. -/
def drainBlock (s : State) (c : Command) (u : Nat) : State × Command × Option EngineFault :=
  let img := c.image
  let x := flagOf img 0
  let e := planeWidth img
  let (n, p) := s.holder img (flagOf img 1) u
  let k := s.clusterCore n
  if k.blockPoisoned p e then (s, c, some (mkFault 0x30 (65536 * p)))
  else
    let fl := k.blockFlags p
    let cells := accCells k.acc p e
    let (i0, j0) := blockOrigin img u
    let pl := c.places.getD 0 (0, 0)
    let rows := (List.range 128).map fun r =>
      drainRow c (i0 + r) j0 (((cells.drop (128 * r)).take 128).map (accValue x (anchorOf img) fl.x.nan))
    let wrote := (rows.zipIdx).foldl (fun (acc : Except EngineFault State) q =>
      match acc with
      | .error f => .error f
      | .ok s => s.placeWrite pl (pl.1 + rowOffset img u q.2 + drainColumn img j0 : Nat) q.1.1) (.ok s)
    match wrote with
    | .error f => (s, c, some f)
    | .ok s =>
      let conv := rows.foldl (fun acc q => acc ||| q.2.1) (if x && fl.x.nan then flagIV else 0)
      let own : Flags := if x then (if fl.x.nx then flagNX else 0) else fl.f32
      let c1 := { c with
        flags := c.flags ||| conv ||| own, range := c.range || (x && fl.x.range), nan := c.nan || (x && fl.x.nan) }
      let merged := if flagOf img 2 then s.mergeAmax (quarter img 3) (amaxWord (rows.flatMap (·.2.2))) else .ok s
      match merged with
      | .error f => (s, c1, some f)
      | .ok s => (if flagOf img 3 then s.onClusterCore n (Core.zeroBlock · p e) else s, c1, none)

/-- R202: drains blocks to the scratchpad. -/
def execMdrain (s : State) : Answer := s.engineStep 0 0 1 (rangeWork drainBlock)

def zeroBlockWork (s : State) (c : Command) (u : Nat) : State × Command × Option EngineFault :=
  let (n, p) := s.holder c.image (flagOf c.image 1) u
  (s.onClusterCore n (Core.zeroBlock · p (planeWidth c.image)), c, none)

/-- R203: zeroes blocks and their flags. -/
def execMzero (s : State) : Answer := s.engineStep 0 0 2 (rangeWork zeroBlockWork)

/-- A loaded element: its stored word and the block's flags (R204). -/
def loadElem (img : Image) (w : Nat) (fl : BlockFlags) : Nat × BlockFlags :=
  let t : ElemType := match hwBits img 5 8 4 with
    | 0 => .f32 | 1 => .bf16 | _ => .f16
  if hwBits img 5 8 4 = 3 then (w, fl)
  else
    let v := decodeElem t w
    if flagOf img 0 then
      let (a, f) := accxAdd 0 v (anchorOf img) fl.x
      (unsignedOf 128 a, { fl with x := f })
    else if v.isNan then (qnan .f32, { fl with f32 := fl.f32 ||| flagIV })
    else ((roundTo .f32 .rne false 0 v).1, fl)

/-- One block of a load. -/
def loadBlock (s : State) (c : Command) (u : Nat) : State × Command × Option EngineFault :=
  let img := c.image
  let sz := loadBytes (hwBits img 5 8 4)
  let (n, p) := s.holder img (flagOf img 1) u
  let pl := c.places.getD 0 (0, 0)
  let j0 := (blockOrigin img u).2
  let read := (List.range 128).foldl (fun (acc : Except EngineFault (List Nat)) r =>
    match acc with
    | .error f => .error f
    | .ok ws =>
      match s.placeRead pl (pl.1 + rowOffset img u r + j0 * sz : Nat) (128 * sz) with
      | .error f => .error f
      | .ok bs => .ok (ws ++ (chunks sz 128 bs).map natOfBytes)) (.ok [])
  match read with
  | .error f => (s, c, some f)
  | .ok ws =>
    let r := ws.foldl (fun (acc : List Nat × BlockFlags) w =>
      let (v, f) := loadElem img w acc.2
      (v :: acc.1, f)) ([], noBlockFlags)
    (s.onClusterCore n (Core.putBlock · p (planeWidth img) r.1.reverse r.2), { c with flags := c.flags ||| r.2.f32 }, none)

/-- R204: loads blocks from the scratchpad. -/
def execMload (s : State) : Answer := s.engineStep 0 0 3 (rangeWork loadBlock)

end Sys2Proof.Machine
end

