-- ==== Sys2Proof/Machine/Special.lean ====
section
/-! DEFINITION. The special functions 2^x, log2 x, 1/x, 1/√x and tanh x, rounded once from the exact value (R25), and the
Gumbel perturbation (R26).

1/x is an exact ratio, and 1/√x an integer square root with its sticky bit. The other three are irrational wherever they are
not exact, so a fixed-point value of 320 fraction bits with its last bit forced to 1 lies on the same side of every
rounding boundary as the exact value does (log entry 1). -/

namespace Sys2Proof

/-- The functions of R25. -/
inductive SpecialFn where
  | exp2 | log2 | rcp | rsq | tanh
  deriving DecidableEq, Repr, Inhabited

/-- Fraction bits of the fixed-point values. -/
def fxBits : Nat := 320

/-- 2^320 × Σ w^(2k+1)/(2k+1), the power p being 2^320 × w^(2k+1) and w2 being 2^320 × w². -/
def atanhSeries : Nat → Nat → Nat → Nat → Nat
  | 0, _, _, _ => 0
  | fuel + 1, k, p, w2 => p / (2 * k + 1) + atanhSeries fuel (k + 1) (p * w2 / 2 ^ fxBits) w2

/-- ln 2 = 2 atanh(1/3). -/
def fxLn2 : Nat := 2 * atanhSeries 110 0 (2 ^ fxBits / 3) (2 ^ fxBits / 9)

/-- 2^320 × Σ r^k/k!, from the term for k on. -/
def expSeries : Nat → Nat → Nat → Nat → Nat
  | 0, _, _, _ => 0
  | fuel + 1, k, term, r => term + expSeries fuel (k + 1) (term * r / 2 ^ fxBits / (k + 1)) r

/-- e^r for 0 ≤ r < 1. -/
def fxExp (r : Nat) : Nat := expSeries 90 0 (2 ^ fxBits) r

/-- Integer square root, bit by bit from bit n − 1 down. -/
def sqrtBits : Nat → Nat → Nat → Nat
  | 0, _, r => r
  | n + 1, v, r => if (r + 2 ^ n) * (r + 2 ^ n) ≤ v then sqrtBits n v (r + 2 ^ n) else sqrtBits n v r

def isqrt (v : Nat) : Nat := sqrtBits (Nat.log2 v / 2 + 1) v 0

/-- A value as a sign and a ratio of naturals that rounds as the exact one. -/
abbrev Ratio := Bool × Nat × Nat

/-- 2^n × num / den. -/
def scaleRatio (neg : Bool) (num den : Nat) (n : Int) : Ratio := (neg, num * 2 ^ n.toNat, den * 2 ^ (-n).toNat)

/-- 2^x of a nonzero finite x. An exponent beyond ±4,096 rounds as ±4,096 does in every format. -/
def exp2Ratio (neg : Bool) (m : Nat) (e : Int) : Ratio :=
  let num := m * 2 ^ e.toNat
  let den := 2 ^ (-e).toNat
  if num ≥ 4096 * den then scaleRatio false 1 1 (if neg then -4096 else 4096)
  else if num % den = 0 then scaleRatio false 1 1 (if neg then -((num / den : Nat) : Int) else (num / den : Nat))
  else if num * 2 ^ 60 ≤ den then (false, if neg then 2 ^ 100 - 1 else 2 ^ 100 + 1, 2 ^ 100)
  else
    let s : Int := if neg then -(num : Int) else num
    let n := s / (den : Int)                                       -- floor
    let frac := (s - n * den).toNat * 2 ^ fxBits / den
    let v := fxExp (frac * fxLn2 / 2 ^ fxBits)
    scaleRatio false (2 * v + 1) (2 ^ (fxBits + 1)) n

/-- log2 x of a positive finite x. -/
def log2Ratio (m : Nat) (e : Int) : Ratio :=
  let l := Nat.log2 m
  let i : Int := (l : Int) + e
  if m = 2 ^ l then (i < 0, i.natAbs, 1)
  else
    let w := (m - 2 ^ l) * 2 ^ fxBits / (m + 2 ^ l)
    let frac := 2 * atanhSeries 120 0 w (w * w / 2 ^ fxBits) * 2 ^ fxBits / fxLn2
    let v : Int := i * (2 ^ fxBits : Nat) + frac
    (v < 0, 2 * v.natAbs + 1, 2 ^ (fxBits + 1))

/-- 1/√x of a positive finite x. -/
def rsqRatio (m : Nat) (e : Int) : Ratio :=
  let num := 2 ^ (2 * fxBits) * 2 ^ (-e).toNat
  let den := m * 2 ^ e.toNat
  let r := isqrt (num / den)
  (false, if r * r * den = num then 2 * r else 2 * r + 1, 2 ^ (fxBits + 1))

/-- tanh x of a nonzero finite x. Below 2^−20 it lies strictly between x(1 − 2^−40) and x, and above 64 between
1 − 2^−60 and 1, where no rounding boundary of the formats lies. -/
def tanhRatio (neg : Bool) (m : Nat) (e : Int) : Ratio :=
  let num := m * 2 ^ e.toNat
  let den := 2 ^ (-e).toNat
  if num * 2 ^ 20 ≤ den then (neg, num * (2 ^ 41 - 1), den * 2 ^ 41)
  else if num ≥ 64 * den then (neg, 2 ^ 60 - 1, 2 ^ 60)
  else
    let y := 2 * num * 2 ^ fxBits / den                            -- 2|x|
    let n := y / fxLn2
    let v := fxExp (y % fxLn2) * 2 ^ n                             -- e^(2|x|)
    let t := (v - 2 ^ fxBits) * 2 ^ fxBits / (v + 2 ^ fxBits)
    (neg, 2 * t + 1, 2 ^ (fxBits + 1))

/-- The result bits of a special function and its flags (R25): the table of special inputs, then the one rounding. -/
def specialFn (fn : SpecialFn) (t : ElemType) (rm : Rm) (bits : Nat) : Nat × Flags :=
  let r (q : Ratio) : Nat × Flags := roundRatio t rm false 0 q.1 q.2.1 q.2.2
  let one (neg : Bool) : Nat := signBit t neg + (t.fpFormat.bias * 2 ^ t.fpFormat.mbits)
  match decodeElem t bits, fn with
  | .nan s, _ => (qnan t, if s then flagIV else 0)
  | .inf neg, .exp2 => if neg then (0, 0) else (infCode t, 0)
  | .inf neg, .log2 => if neg then (qnan t, flagIV) else (infCode t, 0)
  | .inf neg, .rcp => (signBit t neg, 0)
  | .inf neg, .rsq => if neg then (qnan t, flagIV) else (0, 0)
  | .inf neg, .tanh => (one neg, 0)
  | .num _ 0 _, .exp2 => (one false, 0)
  | .num _ 0 _, .log2 => (signBit t true + infCode t, flagDZ)
  | .num neg 0 _, .rcp => (signBit t neg + infCode t, flagDZ)
  | .num neg 0 _, .rsq => (signBit t neg + infCode t, flagDZ)
  | .num neg 0 _, .tanh => (signBit t neg, 0)
  | .num neg m e, .exp2 => r (exp2Ratio neg m e)
  | .num neg m e, .log2 =>
    let q := log2Ratio m e
    if neg then (qnan t, flagIV) else if q.2.1 = 0 then (0, 0) else r q
  | .num neg m e, .rcp => r (neg, 2 ^ (-e).toNat, m * 2 ^ e.toNat)
  | .num neg m e, .rsq => if neg then (qnan t, flagIV) else r (rsqRatio m e)
  | .num neg m e, .tanh => r (tanhRatio neg m e)

/-- `Gumbel2(w)` (R26): −L2(−L2(U)) in binary32. -/
def gumbel2 (w : Nat) : Nat :=
  let u := (roundTo .f32 .rne false 0 (.num false (2 * (w / 2 ^ 9) + 1) (-24))).1
  let flip (b : Nat) : Nat := b ^^^ 2 ^ 31
  let l2 (b : Nat) : Nat := (specialFn .log2 .f32 .rne b).1
  flip (l2 (flip (l2 u)))

end Sys2Proof
end

