-- ==== Sys2Proof/Machine/Attention.lean ====
section
/-! DEFINITION. Attention: sequence slots, masks, state records, the page walker, exact softmax and selection (R230 to R253). -/

namespace Sys2Proof.Machine

/-! ## Strand instructions -/

/-- R239: sets the attention-mask register. -/
def execAttmask (a b : Fin 64) (s : State) : Answer :=
  let w := (s.xr a).toNat
  let mode := bitsOf w 0 3
  if bitsOf w 56 8 != 0 || bitsOf w 8 24 != 0 || 4 ≤ mode || (mode = 2 && 6 < bitsOf w 3 5) then s.raise 0x15 (s.xr a) s.here
  else if mode = 3 && (s.xr b).toNat % 8 != 0 then s.raise 0x12 (s.xr b) s.here
  else issue { s with core := { s.core with maskMode := s.xr a, maskBase := s.xr b } }

/-- R231: binds a sequence slot, once the handle has been checked. -/
def execSeqbind (n : Fin 8) (a : Fin 64) (s : State) : Answer :=
  let v := s.xr a
  if v.toNat / 2 ^ 32 != 0 then s.raise 0x02 s.here (BitVec.ofNat 64 s.grp.syl)
  else match s.runKv (kvSeq s.kvCtx v.toNat) with
    | .error (f, t) =>
      if f.code = 0x20 || f.code = 0x23 then t.holdTrap f.code.toNat v v else t.holdTrap f.code.toNat f.addr s.here
    | .ok (_, t) => issue (State.holdFor { t with core := { t.core with slots := t.core.slots.set n (some (v.truncate 32)) } } .flagsOnly)

/-! ## State records (R244 to R248) -/

/-- A row state (R244). -/
structure Row where
  m : Int
  status : Nat
  l : Int
  deriving DecidableEq, Repr, Inhabited

def Row.init : Row := ⟨-(2 ^ 31 : Nat), 1, 0⟩

/-- A row state. Its reserved bits are not read, and are written back as zero (DESIGN CHOICE, log entry 138). -/
def parseRow (bs : List Byte) : Row := ⟨signedOf 32 (bytesAt bs 0 4), bytesAt bs 4 1 % 32, signedOf 128 (bytesAt bs 16 16)⟩

def rowBytes (r : Row) : List Byte :=
  bytesOfNat 4 (unsignedOf 32 r.m) ++ bytesOfNat 4 r.status ++ List.replicate 8 (0 : Byte) ++ bytesOfNat 16 (unsignedOf 128 r.l)

def Row.bit (r : Row) (n : Nat) : Bool := bitOf r.status n
def Row.setBit (r : Row) (n : Nat) (v : Bool) : Row :=
  { r with status := r.status - (if bitOf r.status n then 2 ^ n else 0) + (if v then 2 ^ n else 0) }

def Row.flags (r : Row) : AccFlags := ⟨r.bit 4, r.bit 3, r.bit 2⟩
def Row.setFlags (r : Row) (f : AccFlags) : Row := ((r.setBit 4 f.nx).setBit 3 f.range).setBit 2 f.nan

/-- Rows and channels of a slot image, by its first word (R245). -/
def imageRows (w : Nat) : Nat := bitsOf w 20 4 + 1
def imageD (w : Nat) : Nat := 64 * 2 ^ bitsOf w 18 2
def imageSize (w : Nat) : Nat := 64 + 32 * imageRows w + 16 * imageRows w * imageD w

def DleSlot.head (z : DleSlot) : Nat := z.record.nat 0 4

/-- The memory image of a slot. -/
def DleSlot.image (z : DleSlot) : List Byte :=
  let w := z.head
  z.record.read 0 (64 + 32 * imageRows w) ++ z.ram.read 0 (16 * imageRows w * imageD w)

/-- A slot with an image in it. -/
def DleSlot.load (z : DleSlot) (bs : List Byte) : DleSlot :=
  let n := 64 + 32 * imageRows (bytesAt bs 0 4)
  ⟨z.record.write 0 (bs.take n), z.ram.write 0 (bs.drop n)⟩

/-- The checks of R247 on an image. R247 names none on its size against the slot's area: an image of more than 2,048 outputs is taken
whole (DESIGN CHOICE, log entry 139). -/
def imageOk (bs : List Byte) : Bool :=
  let w := bytesAt bs 0 4
  bitOf w 31 && bitsOf w 24 7 = 0 && bitsOf w 10 8 = 0 && bitsOf w 18 2 != 3 && bytesAt bs 15 1 = 0 &&
  ((bs.drop 16).take 48).all (· = 0) &&
  (List.range (imageRows w)).all fun r =>
    bytesAt bs (64 + 32 * r + 8) 8 = 0 && bytesAt bs (64 + 32 * r + 4) 4 < 32

/-- A saturating sum, with whether it saturates (R23, R248). -/
def satAdd (a b : Nat) : Int × Bool := accxSat (signedOf 128 a + signedOf 128 b)

/-- The slot after a merge (R248). -/
def mergeImage (z bs : List Byte) : List Byte :=
  let w := bytesAt z 0 4
  let n := imageRows w
  let d := imageD w
  let acc (row ch : Nat) : Int × Bool :=
    let o := 64 + 32 * n + 16 * (row * d + ch)
    satAdd (bytesAt z o 16) (bytesAt bs o 16)
  let rows := (List.range n).map fun r =>
    let a := parseRow (z.drop (64 + 32 * r))
    let b := parseRow (bs.drop (64 + 32 * r))
    let l := accxSat (a.l + b.l)
    let exceeded := l.2 || (List.range d).any fun ch => (acc r ch).2
    let st : Row := ⟨max a.m b.m, a.status ||| b.status, l.1⟩
    let st := st.setBit 0 (a.bit 0 && b.bit 0)
    if exceeded then st.setBit 3 true else st
  z.take 64 ++ rows.flatMap rowBytes ++
  (List.range (n * d)).flatMap fun k => bytesOfNat 16 (unsignedOf 128 (acc (k / d) (k % d)).1)

/-- Whether a command of queue 7 that names DLE slot n has not retired; one cut by a fault counts as retired (R247). -/
def State.dleBusy (s : State) (n : Fin 2) : Bool :=
  let q := s.core.queue[(7 : Fin 8)]
  (q.started ++ q.waiting).any fun c => c.fault.isNone && opOf c.image != 2 && hwBits c.image 10 15 1 = n.val

/-- The strand waits while an image moves, 512 bytes a cycle. -/
def State.moveHold (s : State) (bytes : Nat) : State :=
  s.onStrand fun f => { f with hold := some ⟨s.cycle, s.cycle + (bytes + 511) / 512, .flagsOnly, 0, none⟩ }

def State.setDle (s : State) (n : Fin 2) (z : DleSlot) : State := { s with core := { s.core with dle := s.core.dle.set n z } }

/-- R247: writes a slot's image to the scratchpad. The commands that name the slot are awaited before its header gives the size. -/
def execAttstSt (n : Fin 2) (a : Fin 64) (s : State) : Answer :=
  let va := s.xr a
  let img := (s.core.dle[n]).image
  match s.spCheck va 64 64 with
  | some c => s.raise c va s.here
  | none =>
    if s.dleBusy n then s.block
    else match s.spCheck va img.length 64 with
      | some c => s.raise c va s.here
      | none =>
        if s.couples va.toNat img.length true then s.block
        else issue ((s.spPut va.toNat img true).moveHold img.length)

/-- Reads the image at x[a] and puts `f image` into the slot, or answers the trap (R247). Its header is read once the commands that name
the slot have retired and the tiles that it lies in are full. -/
def State.loadImage (s : State) (n : Fin 2) (a : Fin 64) (f : List Byte → Option (List Byte)) : Answer :=
  let va := s.xr a
  match s.spCheck va 64 64 with
  | some c => s.raise c va s.here
  | none =>
    let size := imageSize (natOfBytes (s.spRead va.toNat 4))
    if s.dleBusy n || s.couples va.toNat 64 false then s.block
    else match s.spCheck va size 64 with
    | some c => s.raise c va s.here
    | none =>
      if s.couples va.toNat size false then s.block
      else if s.spBad va.toNat size then s.raise 0x30 va s.here
      else
        let bs := s.spRead va.toNat size
        if !imageOk bs then s.raise 0x15 va s.here
        else match f bs with
          | none => s.raise 0x15 va s.here
          | some img => issue ((s.setDle n ((s.core.dle[n]).load img)).moveHold size)

/-- R247: loads an image into a slot. -/
def execAttstLd (n : Fin 2) (a : Fin 64) (s : State) : Answer := s.loadImage n a some

/-- R247, R248: merges an image into a slot. -/
def execAttstLdM (n : Fin 2) (a : Fin 64) (s : State) : Answer :=
  let z := (s.core.dle[n]).image
  s.loadImage n a fun bs => if bytesAt z 0 4 = bytesAt bs 0 4 then some (mergeImage z bs) else none

/-! ## Softmax (R240 to R242) -/

/-- Exact value of the score t of a row and a key (R241). -/
def score (scale : Nat) (q k : List Val) : Nat :=
  let p := exactTree 9 ((q.zip k).map fun x => exactMul x.1 x.2)
  (roundTo .f32 .rne false 0 (exactMul (decodeElem .f32 scale) p.1).1).1

/-- ⌊t⌋ and whether t is an integer. -/
def floorOf (neg : Bool) (m : Nat) (e : Int) : Int × Bool :=
  let num : Int := if neg then -((m * 2 ^ e.toNat : Nat) : Int) else (m * 2 ^ e.toNat : Nat)
  let den : Int := (2 ^ (-e).toNat : Nat)
  (num / den, num % den = 0)

/-- The weight p of a score, or none for a NaN, and Ceil(t) where t is finite (R241). -/
def weight (t : Nat) : Option (Val × Option Int) :=
  match decodeElem .f32 t with
  | .nan _ => none
  | .inf true => some (Val.zero, some (-(2 ^ 31 : Nat) + 1))
  | .inf false => some (.inf false, some ((2 ^ 31 : Nat) - 1))
  | .num neg m e =>
    let (k, whole) := floorOf neg m e
    let (fneg, fm, fe) : Bool × Nat × Int :=
      let den : Int := (2 ^ (-e).toNat : Nat)
      let num : Int := if neg then -((m * 2 ^ e.toNat : Nat) : Int) else (m * 2 ^ e.toNat : Nat)
      (false, (num - k * den).toNat, min e 0)
    let b := if whole then (roundTo .bf16 .rne false 0 (.num false 1 0)).1
      else
        let r := exp2Ratio fneg fm fe
        (roundRatio .bf16 .rne false 0 r.1 r.2.1 r.2.2).1
    some ((decodeElem .bf16 b).scale k, some (if whole then k else k + 1))

/-- One key of one row: the row state and its outputs after it (R241). -/
def attnKey (anchor : Int) (t : Nat) (v : List Val) (r : Row) (o : List Int) : Row × List Int :=
  let r := r.setBit 0 false
  match weight t with
  | none => (r.setBit 2 true, o)
  | some (p, top) =>
    let lim : Int := (2 ^ 31 : Nat) - 1
    let m := match top with
      | some c => max (-lim) (min lim (max r.m c))
      | none => r.m
    let (l, f) := accxAdd r.l p anchor r.flags
    let (os, f) := (o.zip v).foldl (fun (acc : List Int × AccFlags) x =>
      let (a, g) := accxAdd x.1 (exactMul p x.2).1 anchor acc.2
      (a :: acc.1, g)) ([], f)
    (({ r with m := m, l := l } : Row).setFlags f, os.reverse)

/-- The outputs of a row with FIN, their flags, and the row with its UNDER bit (R242). -/
def finishRow (t : ElemType) (rm : Rm) (r : Row) (o : List Int) : List Byte × Flags × Row :=
  let under := r.l = 0 && !r.bit 0 && !r.bit 2
  let outs := o.map fun x =>
    if r.bit 0 then (0, (0 : Flags))
    else if r.bit 2 then (qnan t, flagIV)
    else if r.l = 0 then (0, flagNX)
    else if x = 0 then (0, 0)
    else roundRatio t rm false 0 ((x < 0) != (r.l < 0)) x.natAbs r.l.natAbs
  (outs.flatMap fun x => bytesOfNat (t.width / 8) x.1, outs.foldl (fun f x => f ||| x.2) 0, r.setBit 1 under)

/-! ## The walker (R232, R233, R238) -/

/-- What an attention command works on. -/
structure AttJob where
  cmd : Command
  seq : Seq
  list : List Nat

def AttJob.img (j : AttJob) : Image := j.cmd.image
def AttJob.opa (j : AttJob) : Bool := attOpa j.img
def AttJob.layer (j : AttJob) : Nat := hw j.img 5
def AttJob.head (j : AttJob) : Nat := hwBits j.img 4 8 8
def AttJob.dslot (j : AttJob) : Fin 2 := Fin.ofNat 2 (hwBits j.img 10 15 1)
def AttJob.plane (j : AttJob) : Nat := hwBits j.img 10 0 5
/-- Plane blocks of a row block: ⌈d/128⌉. -/
def AttJob.cb (j : AttJob) : Nat := (j.seq.d + 127) / 128

/-- The rows a command computes on this core: all of them, or a member's row blocks (R238). -/
def AttJob.rows (j : AttJob) (k : Core) : Nat × Nat :=
  if j.opa then
    let n := hwBits j.img 10 5 3 + 1
    if opOf j.img = 0 && flagOf j.img 3 then
      let (b, m) := k.share n
      (128 * min n (m * b), 128 * min n ((m + 1) * b))
    else (0, 128 * n)
  else (0, attNq j.img + 1)

/-- The plane of channel block cb of a row, and its row in the plane. -/
def AttJob.planeOf (j : AttJob) (first r cb : Nat) : Nat := j.plane + 4 * ((r - first) / 128 * j.cb + cb)

/-- The checks on a descriptor (R238): the command cannot run where they fail. -/
def AttJob.ok (j : AttJob) (k : Core) : Bool :=
  let (lo, hi) := j.rows k
  j.layer < j.seq.layers && j.head < j.seq.heads &&
  (if j.opa then
      let top := j.plane + 4 * ((hi - lo) / 128) * j.cb
      top ≤ 32 && top ≤ k.accPlanes
    else opOf j.img = 2 || (attNq j.img + 1) * j.seq.d ≤ 2048)

/-- The page indices of a range that are not beyond the end (R232). -/
def rangePages (img : Image) (q : Seq) : List Nat :=
  let first := hw32 img 16
  let count := hw32 img 18
  let pages := (q.end_ + 63) / 64
  let hi := if count = 0 then pages else min pages (first + count)
  (List.range (hi - first)).map (first + ·)

def State.getRow (s : State) (j : AttJob) (r : Nat) : Except EngineFault Row :=
  if j.opa then
    match s.engRead (hw32 j.img 24 + 32 * r) 32 with
    | .error f => .error f
    | .ok bs => .ok (parseRow bs)
  else .ok (parseRow ((s.core.dle[j.dslot]).record.read (64 + 32 * r) 32))

def State.putRow (s : State) (j : AttJob) (r : Nat) (v : Row) : Except EngineFault State :=
  if j.opa then s.engWrite (hw32 j.img 24 + 32 * r) (rowBytes v)
  else
    let z := s.core.dle[j.dslot]
    .ok (s.setDle j.dslot { z with record := z.record.write (64 + 32 * r) (rowBytes v) })

/-- The accumulated outputs of a row: cells of the OPA planes, or of the slot's half of the state RAM. -/
def State.getOut (s : State) (j : AttJob) (first r : Nat) : List Int :=
  (List.range j.seq.d).map fun ch =>
    if j.opa then signedOf 128 (accCell s.core.acc (j.planeOf first r (ch / 128)) 4 (128 * (r % 128) + ch % 128))
    else signedOf 128 ((s.core.dle[j.dslot]).ram.nat (16 * (r * j.seq.d + ch)) 16)

def State.putOut (s : State) (j : AttJob) (first r : Nat) (o : List Int) : State :=
  if j.opa then
    let acc := (o.zipIdx).foldl (fun (m : Memory) x =>
      let cell := 128 * (r % 128) + x.2 % 128
      (List.range 4).foldl (fun m i =>
        m.writeNat (65536 * (j.planeOf first r (x.2 / 128) + i) + 4 * cell) 4 (unsignedOf 128 x.1 / 2 ^ (32 * i))) m) s.core.acc
    { s with core := { s.core with acc := acc } }
  else
    let z := s.core.dle[j.dslot]
    s.setDle j.dslot { z with ram := z.ram.write (16 * r * j.seq.d) (o.flatMap fun x => bytesOfNat 16 (unsignedOf 128 x)) }

/-- A poisoned block of the planes that hold the outputs of a command on the OPA (R175). -/
def AttJob.poisonedBlock (j : AttJob) (k : Core) : Option EngineFault :=
  let (lo, hi) := j.rows k
  if !j.opa then none
  else ((List.range ((hi - lo) / 128 * j.cb)).find? fun b => k.blockPoisoned (j.plane + 4 * b) 4).map fun b =>
    mkFault 0x30 (65536 * (j.plane + 4 * b))

/-- One byte run of a word of the DLE slot's header. -/
def DleSlot.put (z : DleSlot) (o n v : Nat) : DleSlot := { z with record := z.record.writeNat o n v }

/-- The first word of a slot that a command would write (R245). -/
def AttJob.headWord (j : AttJob) : Nat :=
  2 ^ 31 + attNq j.img * 2 ^ 20 + j.seq.dsel * 2 ^ 18 + unsignedOf 10 (anchorOf j.img)

/-- Stores the cursor (R246). -/
def State.putCursor (s : State) (j : AttJob) (e : Nat) : State :=
  if j.opa then { s with core := { s.core with opaCursor := e } }
  else s.setDle j.dslot ((s.core.dle[j.dslot]).put 4 4 e)

/-- The start of a command (R246): INIT clears the state and ACC keeps it, with the stored cursor at entry 0; RESUME begins at the
stored cursor; a slot that disagrees faults, with address 0: a slot has none (DESIGN CHOICE, log entry 140). The first entry to
process. -/
def State.attBegin (s : State) (j : AttJob) : Except EngineFault (State × Nat) :=
  let (lo, hi) := j.rows s.core
  let rs := (List.range (hi - lo)).map (lo + ·)
  let start := attStart j.img
  if start = 1 then
    let s := if j.opa then
        { s with
          core := (List.range ((hi - lo) / 128 * j.cb)).foldl (fun k b => Core.zeroBlock k (j.plane + 4 * b) 4) s.core }
      else
        let z := ((((s.core.dle[j.dslot]).put 0 4 j.headWord).put 8 4 ((j.cmd.handle.map (·.toNat)).getD 0)).put 12 4
          (j.layer + j.head * 2 ^ 16)).put 16 16 0
        s.setDle j.dslot ⟨z.record, z.ram.write 0 (List.replicate (16 * (hi - lo) * j.seq.d) 0)⟩
    (rs.foldlM (fun t r => State.putRow t j r Row.init) (s.putCursor j 0)).map fun t => (t, 0)
  else
    let z := s.core.dle[j.dslot]
    if !j.opa && z.head != j.headWord then .error (mkFault 0x15 0)
    else if start = 2 then .ok (s, if j.opa then s.core.opaCursor else z.record.nat 4 4)
    else .ok (s.putCursor j 0, 0)

def liftKv {α : Type} (s : State) (x : KvM α) : Except EngineFault (α × State) :=
  match s.runKv x with
  | .ok r => .ok r
  | .error (f, _) => .error f

/-- The block-table entry of a page index. -/
def AttJob.entry (j : AttJob) (s : State) (i : Nat) : Except EngineFault (Nat × State) :=
  liftKv s (kvNat s.kvCtx (j.seq.entryAt j.layer j.head i) 8)

/-- The entries of page indices, up to one that cannot be read. -/
def AttJob.run (j : AttJob) (s : State) : List Nat → List Nat × State
  | [] => ([], s)
  | i :: is => match j.entry s i with
    | .error _ => ([], s)
    | .ok (v, s) =>
      let (vs, s) := j.run s is
      (v :: vs, s)

/-- The walker copies a run of up to 64 entries into its table (R232); it stops before an entry that it cannot read. -/
def AttJob.loadRun (j : AttJob) (s : State) (is : List Nat) : Except EngineFault State :=
  let (vs, s) := j.run s (is.take 64)
  s.engWrite (hw32 j.img 20) (vs.flatMap (bytesOfNat 8))

/-- An entry's records, checked: none where no page is present; the faults of R233, a bad entry with its address. `SSEL` reads the K
records alone. -/
def AttJob.records (j : AttJob) (s : State) (i : Nat) : Except EngineFault (List (Nat × Page) × State) :=
  match j.entry s i with
  | .error f => .error f
  | .ok (e, s) =>
    if e = 0 then .ok ([], s)
    else
      let ids := if opOf j.img = 2 then (j.seq.idsOf e).take j.seq.halves else j.seq.idsOf e
      match s.mod.parts[s.partNo].pool with
      | none => .error (mkFault 0x20 0)
      | some p =>
        if e % 2 ^ 32 = 0 || e / 2 ^ 32 = 0 || ids.any (p.nrec ≤ ·) then
          .error (mkFault 0x15 (j.seq.entryAt j.layer j.head i))
        else liftKv s (ids.mapM fun r => do return (r, ← kvPage s.kvCtx r))

/-- The fault with the handle where R268 gives it. -/
def AttJob.withHandle (j : AttJob) (f : EngineFault) : EngineFault :=
  if f.code = 0x22 || f.code = 0x23 then { f with addr := (j.cmd.handle.getD 0).zeroExtend 64 } else f

/-- The fault of a record that its state gives (R233), with what R252 and R266 put beside it; of a FREE record its address. -/
def AttJob.refusal (j : AttJob) (s : State) (i : Nat) (g : Nat × Page) : Option EngineFault :=
  (stateFault g.2 j.layer j.head i).map fun f =>
    if f.code = 0x15 then mkFault 0x15 (((s.mod.parts[s.partNo].pool).map fun p => p.recAt g.1).getD 0) else j.withHandle f

/-- The data of one record (R233): of HBM and CXL read in place, of a lender's frame as its answer brought them, with their poison
(R359). A lender's frame has no address here, and 0 stands for it (log entry 134). -/
def AttJob.recordData (j : AttJob) (s : State) (i : Nat) (g : Nat × Page) : Except EngineFault (List Byte × State) :=
  match s.mod.parts[s.partNo].pool with
  | none => .error (mkFault 0x20 0)
  | some p =>
    if g.2.tier = 2 then
      let op := s.mod.ops.find? fun o =>
        o.die = s.core.die && o.cluster = s.core.cluster && o.core = s.core.number && o.seq = j.cmd.seq && o.id = g.1
      let n := dataBytes g.2.format j.seq.dh
      match op with
      | some o => if o.bad.any (· < (n + 127) / 128) then .error (mkFault 0x30 0) else .ok (padTo n ((o.received.headD (0, [])).2), s)
      | none => .error (mkFault 0x40 0)
    else if p.nhbm + p.ncxl ≤ g.2.frame then
      .error (j.withHandle ⟨0x23, 0, 0, BitVec.ofNat 64 (i + j.layer * 2 ^ 32 + j.head * 2 ^ 48)⟩)
    else liftKv s (kvData s.kvCtx g.2 j.seq.dh)

/-- A record with its page's data. -/
abbrev Loaded := (Nat × Page) × List Byte

/-- The data of the records of an entry, in their order. -/
def AttJob.load (j : AttJob) (i : Nat) (s : State) (gs : List (Nat × Page)) : Except EngineFault (List Loaded × State) :=
  gs.foldlM (fun acc g => do
    let (bs, s) ← j.recordData acc.2 i g
    return (acc.1 ++ [(g, bs)], s)) ([], s)

/-- The positions of a page index that are valid in all of its records. -/
def commonValid (gs : List (Nat × Page)) : Nat := gs.foldl (fun v g => v &&& g.2.valid) (2 ^ 64 - 1)

/-- The `MX_HEADER` of an entry: a bad block at a position that the walker uses (R14, log entry 135). -/
def State.badPage (s : State) (dh : Nat) (ds : List Loaded) : Option EngineFault :=
  let v := commonValid (ds.map (·.1))
  ds.findSome? fun d => (s.mod.parts[s.partNo].pool).bind fun p => p.mxFault { d.1.2 with valid := v } dh d.2

/-- The tail slot of ring rn claimed as a destination, filled, and claimed by the engine that consumes it: both cursors go on, and F and C
of its tile are set until the engine goes on to the next page (R178). -/
def State.onRing (s : State) (rn : Fin 8) (t : Fin 64) : State :=
  let k := { s.core with ring := s.core.ring.set rn (((s.core.ring[rn]).claimed s.cycle true).claimed s.cycle false) }
  { s with core := setTile k t (tileWith (tileWith k.tile[t] 61 true) 63 true) }

/-- Writes a page index into the tail slot of the ring (R232), once the slot consumed before is released. The slot that the engine now
consumes. -/
def AttJob.fillSlot (j : AttJob) (s : State) (held : Option (Fin 64)) (gs : List Loaded) : Except EngineFault (State × Fin 64) :=
  let s := { s with core := s.core.releaseSlot held }
  let rn : Fin 8 := Fin.ofNat 8 (hwBits j.img 4 3 3)
  match s.claimState (.ring rn true), s.operandTile (.ring rn true) with
  | .ready, some t =>
    let w := s.core.tile[t]
    if tileLines w < 146 * gs.length then .error (mkFault 0x15 (tileBase w))
    else do
      let s ← (gs.zipIdx).foldlM (fun u g => do
        let base := tileBase w + 18688 * g.2
        let u ← State.engWrite u base g.1.2
        State.engWrite u (base + 18432) g.1.1.2.scales) (s.onRing rn t)
      return (s, t)
  | .fault a, _ => .error (mkFault 0x15 a)
  | _, _ => .error (mkFault 0x15 0)

/-- Whether the mask register and the sequence allow key position p for row r (R240), the valid bits apart. -/
def AttJob.allowed (j : AttJob) (s : State) (r p : Nat) : Except EngineFault Bool :=
  let qpos := hw32 j.img 12 + (if j.opa then r else 0)
  let mode := j.cmd.maskMode.toNat
  if j.seq.end_ ≤ p || (j.seq.slide != 0 && p + j.seq.slide < qpos + 1) then .ok false
  else match bitsOf mode 0 3 with
    | 0 => .ok (p ≤ qpos)
    | 1 => .ok true
    | 2 => let b := 64 * 2 ^ bitsOf mode 3 5; .ok (p / b ≤ qpos / b)
    | _ =>
      match s.engRead (j.cmd.maskBase.toNat + 8 * (r / 64 * bitsOf mode 32 24 + p / 64)) 8 with
      | .error f => .error f
      | .ok bs => .ok (bitOf (natOfBytes bs) (p % 64))

/-- Query row r as exact values. -/
def AttJob.query (j : AttJob) (s : State) (r : Nat) : Except EngineFault (List Val) :=
  let pl := j.cmd.places.getD 0 (0, 0)
  match s.placeRead pl (pl.1 + 2 * j.seq.d * r : Nat) (2 * j.seq.d) with
  | .error f => .error f
  | .ok bs => .ok ((chunks 2 j.seq.d bs).map fun b => decodeElem .bf16 (natOfBytes b))

/-- The values of position t across the channels of K (from 0) or V (from `halves`). -/
def AttJob.vector (j : AttJob) (gs : List ((Nat × Page) × List Byte)) (first t : Nat) : List Val :=
  (List.range j.seq.d).map fun ch =>
    let g := gs.getD (first + ch / 128) default
    pageValue g.1.2 j.seq.dh g.2 t (ch % 128)

/-- Every allowed key of a page index added to a row (R240, R241). -/
def AttJob.addKeys (j : AttJob) (lo : Nat) (keys : List (Nat × List Val × List Val)) (u : State) (r : Nat) : Except EngineFault State := do
  let q ← j.query u r
  let row ← u.getRow j r
  let (row, o) ← keys.foldlM (fun (acc : Row × List Int) k => do
    if ← j.allowed u r k.1 then return attnKey (anchorOf j.img) (score (hw32 j.img 14) q k.2.1) k.2.2 acc.1 acc.2
    else return acc) (row, u.getOut j lo r)
  State.putRow (u.putOut j lo r o) j r row

/-- The keys of a page index that are valid in every record: position, K and V. -/
def AttJob.keys (j : AttJob) (i : Nat) (ds : List Loaded) : List (Nat × List Val × List Val) :=
  ((List.range 64).filter fun t => bitOf (commonValid (ds.map (·.1))) t).map fun t =>
    (64 * i + t, j.vector ds 0 t, j.vector ds j.seq.halves t)

/-- One entry of pages: its page index is read as one unit, and every allowed key is added to every row (R234, R241). `held` is the page
slot that the engine consumed before; the state, and the one that it consumes now. -/
def AttJob.step (j : AttJob) (s : State) (i : Nat) (gs : List (Nat × Page)) (held : Option (Fin 64)) :
    Except EngineFault (State × Fin 64) := do
  let (ds, s) ← j.load i s gs
  if let some f := s.badPage j.seq.dh ds then throw f
  let (s, t) ← j.fillSlot s held ds
  let (_, s) ← liftKv s (gs.forM fun g => kvTouch s.kvCtx g.1)
  let (lo, hi) := j.rows s.core
  let s ← ((List.range (hi - lo)).map (lo + ·)).foldlM (j.addKeys lo (j.keys i ds)) s
  return (s, t)

/-- The outputs after the last entry (R242): the flags, RANGE and NX of the rows go to the command. -/
def AttJob.finish (j : AttJob) (s : State) : Except EngineFault (State × Flags × Bool) := do
  let (lo, hi) := j.rows s.core
  let t : ElemType := match hwBits j.img 8 6 2 with
    | 0 => .f32 | 1 => .bf16 | _ => .f16
  let rm := (Rm.ofCode (hwBits j.img 8 3 3)).getD .rne
  let pl := j.cmd.places.getD 1 (0, 0)
  if let some f := j.poisonedBlock s.core then throw f
  ((List.range (hi - lo)).map (lo + ·)).foldlM (fun (acc : State × Flags × Bool) r => do
    let (u, fl, range) := acc
    let row ← u.getRow j r
    let (bs, f, row) := finishRow t rm row (u.getOut j lo r)
    let u ← u.placeWrite pl (pl.1 + j.seq.d * (t.width / 8) * r : Nat) bs
    let u ← u.putRow j r row
    return (u, fl ||| f ||| (if row.bit 4 then flagNX else 0), range || row.bit 3)) (s, 0, false)

/-- The remote records of an entry whose data are not here: requests are sent for them (R233, R450). -/
def AttJob.requestRemote (j : AttJob) (s : State) (gs : List (Nat × Page)) : Option State :=
  let mine (o : FabricOp) (r : Nat) : Bool :=
    o.die = s.core.die && o.cluster = s.core.cluster && o.core = s.core.number && o.seq = j.cmd.seq && o.id = r
  let want := gs.filter fun g => g.2.state = 5 && !(s.mod.ops.any fun o => mine o g.1 && o.met)
  if want.isEmpty then none
  else
    let op (g : Nat × Page) : FabricOp := {
      die := s.core.die, cluster := s.core.cluster, core := s.core.number, part := s.partNo, seq := j.cmd.seq
      started := s.cycle, limit := 2 ^ 24, id := g.1, hash := [], ranks := [g.2.lmod, g.2.frame, g.2.slot], rank := 0, desc := []
      expected := dataBytes g.2.format j.seq.dh, received := [], reduced := [], bad := [], met := false, innet := false, fb := false, lost := false, cut := false
      network := false, lanes := [] }
    let new := want.filter fun g => !(s.mod.ops.any fun o => mine o g.1)
    let m := { s.mod with ops := s.mod.ops ++ new.map op }
    -- each over the port of its loan (R450)
    let port (g : Nat × Page) : Fin 6 := Fin.ofNat 6 ((s.mod.parts[s.partNo].pool.map fun p => p.portOf g.2.lmod g.2.frame).getD 0)
    some { s with mod := new.foldl (fun m g =>
      (lendingData g.2.lmod 0 g.2.frame g.2.slot [] []).foldl (fun m p => sendVia m s.partNo (port g) p) m) m }

/-- Forgets the remote data of a command. -/
def State.dropRemote (s : State) (seq : Nat) : State :=
  { s with mod := { s.mod with ops := s.mod.ops.filter fun o =>
      !(o.die = s.core.die && o.cluster = s.core.cluster && o.core = s.core.number && o.seq = seq && !o.network) } }

/-- What becomes of an entry (R232, R233): it is done, with the page slot that the engine now consumes; it waits, for remote data or for
the slot of the page ring; or it faults. -/
inductive EntryEnd where
  | done (s : State) (held : Option (Fin 64))
  | waits (s : State)
  | faults (s : State) (f : EngineFault)

/-- One entry. One without pages claims no slot. -/
def AttJob.entryStep (j : AttJob) (s : State) (i : Nat) (held : Option (Fin 64)) : EntryEnd :=
  match j.records s i with
  | .error f => .faults s f
  | .ok (gs, s) =>
    if gs.isEmpty then .done s held
    else match (gs.findSome? (j.refusal s i)).or (j.poisonedBlock s.core) with
    | some f => .faults s f
    | none => match j.requestRemote s gs with
      | some s => .waits s
      | none =>
        if !s.pageSlotFree j.img held then .waits s
        else match j.step s i gs held with
          | .error f => .faults s f
          | .ok (s, t) => .done s (some t)

/-- The entries from a cursor on, by fuel: the state, the cursor reached, the page slot that the engine consumes, and a fault or a wait
(R178, R232). -/
def AttJob.entries (j : AttJob) : Nat → State → Nat → Nat → Option (Fin 64) → State × Nat × Option (Fin 64) × Option (Option EngineFault)
  | 0, s, e, _, held => (s, e, held, none)
  | fuel + 1, s, e, start, held =>
    match j.list[e]? with
    | none => (s, e, held, none)
    | some i =>
      let bad := opOf j.img = 3 && ((e != 0 && i ≤ j.list.getD (e - 1) 0) || j.seq.pages ≤ i)
      let loaded := if (e - start) % 64 = 0 then j.loadRun s (j.list.drop e) else .ok s
      if bad then (s, e, held, some (some (mkFault 0x15 (hw32 j.img 22 + 4 + 4 * e))))
      else match loaded with
        | .error f => (s, e, held, some (some f))
        | .ok s =>
          if opOf j.img = 3 && j.seq.end_ ≤ 64 * i then j.entries fuel (s.putCursor j (e + 1)) (e + 1) start held
          else match j.entryStep s i held with
            | .waits s => (s, e, held, some none)
            | .faults s f => (s, e, held, some (some f))
            | .done s held => j.entries fuel ((s.dropRemote j.cmd.seq).putCursor j (e + 1)) (e + 1) start held

/-- The `KV_HANDLE` of a command, with its slot (R252). -/
def slotFault (c : Command) (f : EngineFault) : EngineFault :=
  if f.code = 0x20 then { f with extra2 := BitVec.ofNat 64 (hwBits c.image 4 0 3) } else f

/-- The descriptor of a command, read once (R231, R232): a resumed command goes on with the copy that it has. -/
def attDescriptor (s : State) (c : Command) : Except EngineFault (State × Command) :=
  if !c.records.isEmpty then .ok (s, c)
  else match c.handle with
    | none => .error (slotFault c (mkFault 0x20 0))
    | some h => match s.runKv (kvSeq s.kvCtx h.toNat) with
      | .error (f, _) => .error (slotFault c f)
      | .ok (q, s) => .ok (s, { c with records := [seqBytes q], readAt := s.cycle })

/-- The gather list of `ATTG` (R251): the words after its count. -/
def attList (s : State) (c : Command) : Except EngineFault (List Byte) := do
  let at_ := hw32 c.image 22
  let n := natOfBytes (← s.engRead at_ 4) % 2 ^ 16
  s.engRead (at_ + 4) (4 * n)

/-- What a command reads before its entries; a fault of the gather list leaves it its descriptor. -/
def attOpen (s : State) (c : Command) : State × Command × Option EngineFault :=
  match attDescriptor s c with
  | .error f => (s, c, some f)
  | .ok (s, c) =>
    if opOf c.image = 3 && c.records.length = 1 then
      match attList s c with
      | .error f => (s, c, some f)
      | .ok bs => (s, { c with records := c.records ++ [bs] }, none)
    else (s, c, none)

/-- The virtual address of the descriptor that a command names. -/
def seqVa (s : State) (c : Command) : Nat :=
  ((s.mod.parts[s.partNo].pool).map fun p => p.seqbase + 256 * (((c.handle.map (·.toNat)).getD 0) % 2 ^ 28)).getD 0

def attJob (c : Command) : AttJob :=
  let q := parseSeq (c.records.getD 0 [])
  let list := if opOf c.image = 3 then
      let bs := c.records.getD 1 []
      (chunks 4 (bs.length / 4) bs).map natOfBytes
    else rangePages c.image q
  ⟨c, q, list⟩

/-- The cycles of a command (R253); the spec gives the OPA none of its own. -/
def AttJob.cycles (j : AttJob) (from_ : Nat) : Nat :=
  let n := j.list.length - from_
  16 + 24 * ((n + 63) / 64) + n * (2 * ((64 * (attNq j.img + 1) * j.seq.d + 2047) / 2048))

/-- The command with the page slot that its engine consumes as its claim. -/
def Command.holding (c : Command) (held : Option (Fin 64)) : Command :=
  { c with claims := c.claims.filter (!·.page) ++ held.toList.map fun t => ⟨t, false, true⟩ }

/-- The work of `ATTP`, `ATTD` and `ATTG`. The cursor of the command is kept in it, and where it has begun. -/
def attWork (s : State) (c : Command) : State × Command × Progress :=
  match attOpen s c with
  | (s, c, some f) => (s, c, .fault f)
  | (s, c, none) =>
    let j := attJob c
    if !j.ok s.core then (s, c, .fault (mkFault 0x15 (seqVa s c)))
    else
      let begun : Except EngineFault (State × Nat) := if c.aux = 1 then .ok (s, c.cursor.entry) else s.attBegin j
      match begun with
      | .error f => (s, c, .fault f)
      | .ok (s, e0) =>
        let (s, e, held, stop) := j.entries (j.list.length - e0) s e0 e0 c.pageSlot
        let c := { c.holding held with aux := 1, cursor := { c.cursor with entry := e } }
        match stop with
        | some (some f) => (s, c, .fault f)
        | some none => (s, c, .pause)
        | none =>
          if !attFin c.image then (s, c, .done (j.cycles e0))
          else match j.finish s with
            | .error f => (s, c, .fault f)
            | .ok (s, fl, range) =>
              (s, { c with flags := c.flags ||| fl, range := c.range || range }, .done (j.cycles e0))

/-- R236, R241: attention over query blocks on the OPA. -/
def execAttp (s : State) : Answer := s.engineStep 2 2 0 attWork

/-- R236, R241: attention of up to 16 rows on the DLE. -/
def execAttd (s : State) : Answer := s.engineStep 7 2 1 attWork

/-- R236, R251: attention over a gather list, on the OPA or the DLE. -/
def execAttg (opa : Bool) (s : State) : Answer := s.engineStep (if opa then 2 else 7) 2 3 attWork

/-! ## Selection (R249, R250) -/

/-- The bound of a query row over the K records of a page index (R249). A sum that is no number counts as +∞. -/
def AttJob.rowBound (j : AttJob) (ks : List Page) (q : List Val) : Val :=
  let sum := (q.zipIdx).foldl (fun (acc : Val) x =>
    let g := ks.getD (x.2 / 128) default
    let a := (exactMul x.1 (decodeElem .bf16 (swatchMin g (x.2 % 128)))).1
    let z := (exactMul x.1 (decodeElem .bf16 (swatchMax g (x.2 % 128)))).1
    let y : Val := if a.isNan || z.isNan then .inf false else if a.lt z then z else a
    decodeElem .f32 (roundTo .f32 .rup false 0 (exactAdd .rne acc y).1).1) Val.zero
  let v := decodeElem .f32 (roundTo .f32 .rup false 0 (exactMul (decodeElem .f32 (hw32 j.img 14)) sum).1).1
  if v.isNan then .inf false else v

/-- The bound of one page index (R249), its K records checked. -/
def AttJob.bound (j : AttJob) (s : State) (i : Nat) : Except EngineFault (Val × State) := do
  let (gs, s) ← j.records s i
  if gs.isEmpty then return (.inf true, s)
  let ks := gs.map (·.2)
  if let some f := (gs.find? fun g => g.2.state = 0 || g.2.state = 7).bind (j.refusal s i) then throw f
  if ks.any fun g => g.state = 6 then return (.inf false, s)
  let rows := List.range (attNq j.img + 1)
  let valid := (List.range 64).filter fun t => ks.all fun g => bitOf g.valid t
  let any ← rows.anyM fun r => valid.anyM fun t => j.allowed s r (64 * i + t)
  if !any then return (.inf true, s)
  let b ← rows.foldlM (fun (b : Val) r => do
    let v := j.rowBound ks (← j.query s r)
    return if b.lt v then v else b) (.inf true)
  return (b, s)

/-- Inserts a page by descending bound, ties to the lower index. -/
def insertBound (x : Nat × Val) : List (Nat × Val) → List (Nat × Val)
  | [] => [x]
  | y :: ys => if y.2.lt x.2 || (x.2.eqv y.2 && x.1 < y.1) then x :: y :: ys else y :: insertBound x ys

/-- The page set, the first `cap` of it in the order of R250, and whether it was cut. R250 ranks the window pages first and does not say
which of them stay where they alone exceed `cap`: those of the lowest indices (DESIGN CHOICE, log entry 137). -/
def chooseSet (img : Image) (q : Seq) (bs : List (Nat × Val)) : List Nat × Bool :=
  let window := bs.filter fun b => q.end_ ≤ 64 * b.1 + 63 + q.w
  let sink := if flagOf img 3 then bs.filter fun b => b.1 = 0 && !window.contains b else []
  let rest := bs.filter fun b => !window.contains b && !sink.contains b
  let ranked := rest.foldl (fun acc b => insertBound b acc) []
  let picked := if flagOf img 4 then
      let tau := decodeElem .f32 (hw32 img 26)
      ranked.filter fun b => !b.2.lt tau
    else (ranked.filter fun b => b.2 != .inf true).take (hw32 img 26)
  let all := (window ++ sink ++ picked).map (·.1)
  let cap := hw img 28
  ((all.take cap).foldl (fun acc n => insertNat n acc) [], cap < all.length)

/-- The bounds of page indices, the e-th of the range on, by the list: the state with the runs copied so far, the bounds, and the entry
and the fault that cut them. -/
def AttJob.bounds (j : AttJob) (s : State) (e : Nat) : List Nat → State × List (Nat × Val) × Option (Nat × EngineFault)
  | [] => (s, [], none)
  | i :: is =>
    match (if e % 64 = 0 then j.loadRun s (i :: is) else .ok s) with
    | .error f => (s, [], some (e, f))
    | .ok s => match j.bound s i with
      | .error f => (s, [], some (e, f))
      | .ok (b, s) =>
        let (s, bs, f) := j.bounds s (e + 1) is
        (s, (i, b) :: bs, f)

/-- The work of `SSEL`: it reads every page record of its range, then writes the list. -/
def sselWork (s : State) (c : Command) : State × Command × Progress :=
  match attOpen s c with
  | (s, c, some f) => (s, c, .fault f)
  | (s, c, none) =>
    let j := attJob c
    if !j.ok s.core then (s, c, .fault (mkFault 0x15 (seqVa s c)))
    else match j.bounds s 0 j.list with
      | (s, _, some (e, f)) => (s, { c with cursor := { c.cursor with entry := e } }, .fault f)
      | (s, bs, none) =>
        let (set, ovf) := chooseSet c.image j.seq bs
        let out := bytesOfNat 4 (set.length + (if ovf then 2 ^ 31 else 0)) ++ set.flatMap (bytesOfNat 4)
        match s.engWrite (hw32 c.image 22) out with
        | .error f => (s, c, .fault f)
        | .ok s => (s, c, .done (16 + 24 * ((j.list.length + 63) / 64) + 4 * j.list.length * j.seq.halves))

/-- R249, R250: bounds every page of a range and writes a gather list. -/
def execSsel (s : State) : Answer := s.engineStep 7 2 2 sselWork

end Sys2Proof.Machine
end

