-- ==== Sys2Proof/Machine/RingTile.lean ====
section
/-! DEFINITION. Ring and tile instructions (R176 to R180, R221 to R225), and the start of a dormant context (R181, R182). -/

namespace Sys2Proof.Machine

def State.setRing (s : State) (r : Fin 8) (g : Ring) : State := { s with core := { s.core with ring := s.core.ring.set r g } }

/-- A new definition of a ring, or none: commands that claim before the second cycle from now use those before it (R222). -/
def Ring.redefine (r : Ring) (now : Nat) (d : Option Word) : Ring :=
  let r := r.settled now
  { r with changes := r.changes ++ [(now + 2, d)] }

/-- The ring after `RINGPOP` has moved the head of its newest definition (log entry 38). -/
def Ring.popped (r : Ring) : Ring :=
  let undone := r.changes.reverse.takeWhile (·.2.isNone)
  match r.changes.reverse.drop undone.length with
  | (at_, some w) :: older => { r with changes := older.reverse ++ (at_, some (ringNext w false)) :: undone.reverse }
  | _ => { r with word := ringNext r.word false }

/-- R222: D ← 1, first ← F, cnt ← n − 1 (the operand n holds it), head ← tail ← 0. -/
def execRingdef (r : Fin 8) (f : Fin 64) (n : Fin 16) (s : State) : Answer :=
  issue (s.setRing r ((s.core.ring[r]).redefine s.cycle (some (BitVec.ofNat 64 (2 ^ 31 + n.val * 2 ^ 8 + f.val)))))

/-- R222: D ← 0. -/
def execRingdefU (r : Fin 8) (s : State) : Answer :=
  issue (s.setRing r ((s.core.ring[r]).redefine s.cycle none))

/-- R223: waits until the head slot's tile is full and unclaimed, empties it, and advances head. -/
def execRingpop (r : Fin 8) (s : State) : Answer :=
  let g := s.core.ring[r]
  let w := g.latest
  let t : Fin 64 := Fin.ofNat 64 (ringFirst w + ringHead w)
  let tile := s.core.tile[t]
  if !ringD w || !tileD tile then s.raise 0x15 (BitVec.ofNat 64 r.val) s.here
  else if !tileF tile || tileC tile then s.block
  else
    let s := s.setRing r g.popped
    issue { s with core := setTile s.core t (tileWith tile 63 false) }

/-- R224: reads the ring state. -/
def execRingstat (d : Fin 64) (r : Fin 8) (s : State) : Answer := issue (s.emitX d (s.core.ring[r]).latest 2)

/-- Whether a defined tile would overlap another one (R176). -/
def State.tileOverlaps (s : State) (t : Fin 64) (v : Word) : Bool :=
  tileD v && (List.finRange 64).any fun j =>
    let w := s.core.tile[j]
    j != t && tileD w && tileBase w < tileBase v + tileBytes v && tileBase v < tileBase w + tileBytes w

/-- Whether a definition breaks R225: a reserved bit, bit 61, or an overlap with another defined tile. -/
def State.tileBad (s : State) (t : Fin 64) (v : Word) : Bool :=
  bitsOf v.toNat 47 15 != 0 || bitsOf v.toNat 22 10 != 0 || bitsOf v.toNat 0 7 != 0 || s.tileOverlaps t v

/-- R225: defines tN from x[a]; waits while it is claimed. -/
def execTdef (t a : Fin 64) (s : State) : Answer :=
  if tileC s.core.tile[t] then s.block
  else if s.tileBad t (s.xr a) then s.raise 0x15 (BitVec.ofNat 64 t.val) s.here
  else issue { s with core := setTile s.core t (s.xr a) }

/-- R225: reads tN. -/
def execTfeRd (d t : Fin 64) (s : State) : Answer := issue (s.emitX d s.core.tile[t] 2)

/-- Sets or clears F of a defined, unclaimed tile, and reads the tile as it was. -/
def State.setFull (s : State) (d t : Fin 64) (full : Bool) : Answer :=
  let w := s.core.tile[t]
  if !tileD w then s.raise 0x15 (BitVec.ofNat 64 t.val) s.here
  else if tileC w then s.block
  else issue (State.emitX { s with core := setTile s.core t (tileWith w 63 full) } d w 2)

/-- R225: F ← 1. -/
def execTfeSet (d t : Fin 64) (s : State) : Answer := s.setFull d t true

/-- R225: F ← 0. -/
def execTfeClr (d t : Fin 64) (s : State) : Answer := s.setFull d t false

/-- The first dormant context (R181). -/
def Core.freeContext (k : Core) : Option (Fin 5) := ([1, 2, 3, 4] : List (Fin 5)).find? fun c => (k.strand (.t c)).run = .idle

/-- Whether a request for a context can be taken: the core runs a task that has started (R182). -/
def State.contextStartDue (s : State) : Bool :=
  s.core.halt.isNone && s.core.task.any (fun t => t.readyAt ≤ s.cycle && (!t.forced || t.ending.isSome)) && !s.core.starts.isEmpty && s.core.freeContext.isSome

/-- R182: a free context takes the oldest request. -/
def execDormantContextStart (s : State) : Answer :=
  match s.core.starts, s.core.freeContext with
  | r :: rs, some c =>
    if s.contextStartDue then
      let f := Strand.taskStart (s.core.strand (.t c)) .running r.handler
      let f := { f with
        x := ((f.x.set (1 : Fin 64) r.x1).set (2 : Fin 64) r.x2).set (3 : Fin 64) r.x3
        handler := s.core.t.handler, ppl := s.core.t.ppl, th := s.core.t.th, rq := s.core.t.rq, spec := s.core.t.spec
        traparea := s.core.t.traparea + BitVec.ofNat 64 (4096 * c.val) }
      .next { s with core := { Core.setStrand s.core (.t c) f with starts := rs } }
    else .fault .notEnabled
  | _, _ => .fault .notEnabled

end Sys2Proof.Machine
end

