-- ==== Sys2Proof/Machine/ClusterImages.lean ====
section
/-! DEFINITION. The images of cluster commands and the records they name: launch headers, launch records, ranges (R293 to
R301, R317, R324). -/

namespace Sys2Proof.Machine

/-! ## Images (R293) -/

/-- An address field of a record, aligned. -/
def ctlAddrOk (v align : Nat) : Bool := addrOk v && v % align = 0

/-- Whether an image passes the checks of R293. -/
def clusterOk (img : Image) : Bool :=
  let q1 := quarter img 1
  let q2 := quarter img 2
  let flags := hwBits img 0 0 6
  hwZero img 16 31 &&
  match opOf img with
  | 0x00 => flags = 0 && headAddrOk q1 128 && headAddrOk q2 128 && hwZero img 13 15
  | 0x01 => flags ≤ 1 && headAddrOk q1 1 && headAddrOk q2 1 && hw img 15 = 0 && hw32 img 12 != 0 && hw32 img 12 % 128 = 0
  | 0x02 => flags = 0 && headAddrOk q1 64 && q2 = 0 && hwZero img 13 15
  | 0x03 => flags = 0 && headAddrOk q1 16 && headAddrOk q2 64 && hw32 img 12 != 0 && hwZero img 14 15
  | 0x04 => flags = 0 && headAddrOk q1 128 && headAddrOk q2 64 && hwZero img 13 15
  | 0x05 => flags = 0 && hwZero img 4 15
  | 0x06 =>
    let src := hw img 8
    flags ≤ 1 && src < 3 && hw img 9 < 16 && hwZero img 10 15 &&
    (if flags = 1 then headAddrOk q1 64
     else if src = 2 then headAddrOk q1 4
     else q1 = 0)
  | 0x07 => flags = 0 && headAddrOk q1 64 && q2 = 0 && hwZero img 12 15
  | 0x08 => flags = 0 && hw img 5 < 4 && hwZero img 6 15
  | 0x09 => flags ≤ 1 && hwZero img 5 15
  | _ => true

/-- The tag of a command that carries one; 2^16 for the others (R293). -/
def tagOfImage (img : Image) : Nat :=
  match opOf img with
  | 0 | 2 | 4 => hw img 12
  | 1 => hw img 14
  | _ => 2 ^ 16

/-! ## Launch headers (R295) -/

/-- An entry offset lies in its region, or is none. -/
def entryOk (entry len : Nat) : Bool := entry = 0xFFFFFFFF || entry < len

/-- The header at an address whose 128 bytes are given, or none where it is invalid. -/
def parseHeader (va : Nat) (bs : List Byte) : Option Header :=
  let n (o k : Nat) : Nat := bytesAt bs o k
  let ver := n 4 4
  let count := bitsOf ver 16 3 + 1
  let w := (List.range 9).map fun f => bitsOf (n 40 8) (7 * f) 7
  let declared := w.take count
  if n 0 4 = 0x484B4C48 && bitsOf ver 0 16 = 1 && count ≤ 6 && bitsOf ver 19 13 = 0 && n 8 8 < 2 ^ 57 &&
      n 16 4 % 4 = 0 && n 20 4 % 4 = 0 && n 24 4 % 4 = 0 &&
      entryOk (n 28 4) (n 16 4) && entryOk (n 32 4) (n 20 4) && entryOk (n 36 4) (n 24 4) &&
      (declared.all fun x => 1 ≤ x && x ≤ 64) && bitsOf (n 40 8) (7 * count) (64 - 7 * count) = 0 &&
      declared.foldl (· + ·) 0 ≤ 64 && n 60 1 < 4 && n 62 2 = 0 && n 72 56 = 0 then
    some { va := va, code := n 8 8, lena := n 16 4, lenx := n 20 4, lent := n 24 4
           entryA := n 28 4, entryX := n 32 4, entryT := n 36 4, widths := declared
           scratch := n 48 4, acc := n 52 4, tvregs := n 56 1, templates := n 57 1, rotate := n 58 1
           coop := n 59 1, prio := n 60 1, trailer := BitVec.ofNat 8 (n 61 1), maxnode := n 64 8 }
  else none

/-- Ways of the local store that a header demands (R166). -/
def Header.ways (h : Header) : Nat := (h.scratch + 262143) / 262144

/-- The resource code of the lowest demand that fails (R299). -/
def Header.overdemand (h : Header) : Option Nat :=
  if 14 < h.ways then some 1
  else if 2097152 < h.acc then some 2
  else if 16 < h.tvregs then some 3
  else if 64 < h.templates then some 4
  else if h.rotate != 0 && h.rotate != 32 then some 5
  else if h.coop != 1 && h.coop != 2 && h.coop != 4 && h.coop != 8 then some 6
  else if 262144 < h.lena + h.lenx + h.lent then some 7
  else none

/-- What a swap must leave equal (R306). -/
def Header.swapsWith (h g : Header) : Bool :=
  h.scratch = g.scratch && h.acc = g.acc && h.tvregs = g.tvregs && h.rotate = g.rotate && h.coop = g.coop

/-! ## Launch records (R296, R297) -/

/-- The fields of a launch record. -/
def parseRecord (bs : List Byte) : LaunchRecord where
  seed := BitVec.ofNat 64 (bytesAt bs 0 8)
  wbase := BitVec.ofNat 64 (bytesAt bs 8 8)
  ext := (List.range 6).map fun f => bytesAt bs (16 + 8 * f) 8
  comp := bytesAt bs 64 8
  donek := bytesAt bs 72 8
  doneinc := BitVec.ofNat 64 (bytesAt bs 80 8)
  errk := bytesAt bs 88 8

def noRecord : LaunchRecord := ⟨0, 0, [], 0, 0, 0, 0⟩

/-- The low bit of field f of a work identifier (R297). -/
def fieldLow (widths : List Nat) (f : Nat) : Nat := (widths.drop (f + 1)).foldl (· + ·) 0

/-- Field f of the base work identifier. -/
def baseField (r : LaunchRecord) (widths : List Nat) (f : Nat) : Nat :=
  bitsOf r.wbase.toNat (fieldLow widths f) (widths.getD f 0)

/-- Whether a record is valid under a header's widths: R297, its reserved bytes, and the place of its range list. -/
def recordOk (bs : List Byte) (widths : List Nat) : Bool :=
  let r := parseRecord bs
  let total := widths.foldl (· + ·) 0
  bytesAt bs 112 16 = 0 && bytesAt bs 104 8 ≤ 8 && ctlAddrOk (bytesAt bs 96 8) (if bytesAt bs 104 8 = 0 then 1 else 32) &&
  r.wbase.toNat < 2 ^ total &&
  (List.range 6).all fun f =>
    if f < widths.length then baseField r widths f + r.ext.getD f 0 ≤ 2 ^ widths.getD f 0 else r.ext.getD f 0 = 0

/-- How many tasks a record's extents give (R297). -/
def taskCount (r : LaunchRecord) (widths : List Nat) : Nat := (r.ext.take widths.length).foldl (· * ·) 1

/-- The n-th work identifier of a launch, in ascending order: the last field runs fastest. -/
def widAt (r : LaunchRecord) (widths : List Nat) : Nat → Nat → Nat → Nat
  | 0, _, acc => acc
  | f + 1, n, acc =>
    let e := max 1 (r.ext.getD f 0)
    widAt r widths f (n / e) (acc + (baseField r widths f + n % e) * 2 ^ fieldLow widths f)

/-! ## Ranges (R298, R301) -/

/-- A range descriptor of 32 bytes, or none where it is invalid. -/
def parseRange (bs : List Byte) : Option Range :=
  let h := bytesAt bs 0 8
  let id := bitsOf h 32 20
  if bitsOf h 52 12 != 0 || bitsOf h 2 30 != 0 then none
  else if bitOf h 1 then
    let dim (d : Nat) : Nat := bytesAt bs (8 + 4 * d) 4
    let lo := (List.range 6).map fun d => bitsOf (dim d) 0 16
    let hi := (List.range 6).map fun d => bitsOf (dim d) 16 16
    if id = 0 || (List.range 6).any (fun d => hi.getD d 0 < lo.getD d 0) then none else some (.box (bitOf h 0) id lo hi)
  else
    let base := bytesAt bs 8 8
    let len := bytesAt bs 16 8
    if id != 0 || !addrOk base || len = 0 || bytesAt bs 24 8 != 0 then none else some (.bytes (bitOf h 0) base len)

def Range.writes : Range → Bool
  | .bytes w _ _ => w
  | .box w _ _ _ => w

/-- Whether two ranges overlap. -/
def Range.overlaps : Range → Range → Bool
  | .bytes _ a n, .bytes _ b m => a < b + m && b < a + n
  | .box _ i lo hi, .box _ j lo' hi' =>
    i = j && (List.range 6).all fun d => lo.getD d 0 ≤ hi'.getD d 0 && lo'.getD d 0 ≤ hi.getD d 0
  | _, _ => false

/-- Whether two entries' ranges order them: an overlap of which at least one side writes. -/
def Range.orders (a b : Range) : Bool := (a.writes || b.writes) && a.overlaps b

/-- Whether an entry depends on an earlier one (R301, R325). -/
def Entry.dependsOn (e f : Entry) : Bool :=
  e.op = .quiesce || f.op = .quiesce || e.ranges.any fun a => f.ranges.any fun b => a.orders b

/-! ## Work-list sets (R317) -/

/-- A set's descriptor of 64 bytes, or none where it is invalid; its list records are read after it. -/
def parseSet (va : Nat) (bs : List Byte) : Option (WorkSet × Nat) :=
  let n (o k : Nat) : Nat := bytesAt bs o k
  let rec_ := n 40 8
  if n 48 16 = 0 && 1 ≤ n 8 4 && n 8 4 ≤ 64 && n 12 4 < 256 && ctlAddrOk (n 16 8) 16 && ctlAddrOk (n 0 8) 32 && addrOk rec_ then
    some (⟨va, [], n 0 8, n 16 8, n 12 4, n 24 8, BitVec.ofNat 64 (n 32 8), rec_, 0, false⟩, n 8 4)
  else none

/-- A list record of 32 bytes. -/
def parseList (bs : List Byte) : Option WorkList :=
  let cap := bytesAt bs 8 4
  if 4 ≤ cap && cap ≤ 24 && ctlAddrOk (bytesAt bs 0 8) 8 then some ⟨bytesAt bs 0 8, cap, bytesAt bs 16 8, bytesAt bs 24 8⟩ else none

def WorkList.empty (l : WorkList) : Bool := l.head = l.tail
def WorkList.full (l : WorkList) : Bool := 2 ^ l.cap ≤ l.tail - l.head
/-- The address of item n. -/
def WorkList.item (l : WorkList) (n : Nat) : Nat := l.base + 8 * (n % 2 ^ l.cap)

/-! ## Acceptance records (R324) -/

/-- The fields of an acceptance record. -/
structure AcceptRec where
  dft : Nat
  tgt : Nat
  res : Nat
  nseq : Nat
  n : Nat
  stride : Nat
  idxall : Nat
  idxpart : Nat
  eos : Nat

def parseAccept (bs : List Byte) : Option AcceptRec :=
  let n (o k : Nat) : Nat := bytesAt bs o k
  let nd := n 26 2
  if n 40 24 = 0 && n 34 2 = 0 && n 33 1 < 16 && n 32 1 < 16 && 1 ≤ nd && nd ≤ 64 && 1 ≤ n 24 2 && n 24 2 ≤ 64 &&
      n 28 4 % 4 = 0 && 4 * (nd + 1) ≤ n 28 4 && n 16 8 % 8 = 0 then
    some ⟨n 0 8, n 8 8, n 16 8, n 24 2, nd, n 28 4, n 32 1, n 33 1, n 36 4⟩
  else none

/-- The length of the longest prefix on which drafts and targets agree. -/
def agreeing : List Nat → List Nat → Nat
  | a :: as, b :: bs => if a = b then agreeing as bs + 1 else 0
  | _, _ => 0

/-- a of R324 for one sequence: the agreeing drafts, cut at the first end token among the targets up to there. -/
def AcceptRec.accepted (r : AcceptRec) (drafts targets : List Nat) : Nat :=
  let a := agreeing drafts targets
  match (targets.take (a + 1)).findIdx? (· = r.eos) with
  | some j => if r.eos = 0xFFFFFFFF then a else min a j
  | none => a

end Sys2Proof.Machine
end

