-- ==== Sys2Proof/Machine/Scoreboard.lean ====
section
/-! DEFINITION. The cluster controller's commands: acceptance into the scoreboard, rejection, streams, graph replays, work lists,
fragments, acceptance of drafts, priority; and the issue and retirement of entries (R292, R299 to R303, R310, R313 to R327). -/

namespace Sys2Proof.Machine

/-! ## Accesses of the controller -/

/-- The controller of the focus acts. -/
def State.asController (s : State) : State := { s with who := .c }

/-- A step on memory by the controller's cluster. -/
def State.ctlKv {α : Type} (s : State) (m : KvCtx → KvM α) : Except EngineFault (α × State) :=
  match s.partOfCluster (6 * s.ctl.die.val + s.ctl.number.val) with
  | none => .error (mkFault 0x10 0)
  | some n =>
    match m ⟨s.ctl.die, n, s.cycle, none, [], false⟩ s.mod with
    | .ok (a, mod) => .ok (a, { s with mod := mod })
    | .error (f, _) => .error f

/-- A report to the controller that does not freeze its queue (R310). -/
def State.ctlReport (s : State) (c : Command) (f : EngineFault) : State :=
  { s with ctl := { s.ctl with c := { s.ctl.c with reports := s.ctl.c.reports ++ [(0, faultRecord 0 c f)] } } }

/-- A number that no other entry of the module has: the cluster's counter with the cluster. -/
def Cluster.nextSerial (c : Cluster) : Nat := c.serial * 144 + 6 * c.die.val + c.number.val

/-- Changes an entry, whichever cluster holds it. -/
def State.onEntry (s : State) (serial : Nat) (g : Entry → Entry) : State :=
  let fix (c : Cluster) : Cluster := { c with entries := c.entries.map fun e => if e.serial = serial then g e else e }
  { s with ctl := fix s.ctl, parkedCl := s.parkedCl.map fix }

/-- Every core of the module. -/
def State.cores (s : State) : List Core := s.core :: s.parked
def State.clusters (s : State) : List Cluster := s.ctl :: s.parkedCl

/-- Whether a core runs a task of a launch. -/
def State.runsTask (s : State) (serial : Nat) : Bool := s.cores.any fun k => k.task.any fun t => t.launch = serial

/-- Whether a continuation, saved node or image of a launch remains. -/
def State.hasResumed (s : State) (serial : Nat) : Bool :=
  s.clusters.any fun c => (c.resumed.any fun r => r.1 = serial) || c.conts.any fun k => k.launch = serial

/-! ## The head of the controller's queue (R292) -/

/-- The command at the head, if the queue is not frozen. -/
def State.ctlHead (s : State) : Option Command := if s.ctl.queue.frozen || s.ctl.stopped then none else s.ctl.queue.waiting.head?

/-- The command without its place in the queue. -/
def State.ctlDrop (s : State) (c : Command) : State := s.putQueue true 0 (s.ctl.queue.remove c.seq)

/-- The head faults; `c` carries its cursor. -/
def State.ctlFault (s : State) (c : Command) (f : EngineFault) : State := (s.ctlDrop c).faultCommand true 0 c f false

/-- A command retires: its signal is applied, and its code shown. -/
def State.ctlRetire (s : State) (c : Command) : State :=
  (s.ctlDrop c).finishSignal true 0 c fun s => s.putQueue true 0 { s.ctl.queue with last := 0 }

/-- Room for another entry (R301). -/
def Cluster.room (c : Cluster) : Bool := c.entries.length < 64

/-- A set is open, or can be opened (R318). -/
def Cluster.setRoom (c : Cluster) (va : Nat) : Bool := c.sets.any (fun w => w.va = va) || c.sets.length < 4

/-- Whether a jump's source is settled (R323): every earlier `ACCEPT` has retired, or every earlier entry that overlaps the word. -/
def State.jumpReady (s : State) (img : Image) : Bool :=
  s.ctl.c.run = .fragmentWait &&
  (flagOf img 0 || match hw img 8 with
    | 0 => true
    | 1 => !s.ctl.entries.any fun e => e.op = .accept
    | _ => !s.ctl.entries.any fun e => e.ranges.any fun r => r.overlaps (.bytes false (quarter img 1) 4))

/-- Whether the head's wait is satisfied and it can act; an image that fails R293 can, and faults. -/
def State.ctlReady (s : State) (c : Command) : Bool :=
  let img := c.image
  !clusterOk img ||
  (s.waitDone true 0 img &&
    match opOf img with
    | 2 =>
      match s.ctl.replaying.find? fun r => r.record = quarter img 1 with
      | none => true
      | some r => r.cmd.seq = c.seq && s.ctl.room
    | 3 | 4 => s.ctl.room && s.ctl.setRoom (quarter img 2)
    | 6 => s.jumpReady img
    | 8 | 9 => true
    | _ => s.ctl.room)

/-- A step of the head with an op code: its check, and then what it does. -/
def State.ctlStep (s : State) (op : Nat) (f : State → Command → State) : Answer :=
  let s := s.asController
  match s.ctlHead with
  | none => .fault .notEnabled
  | some c =>
    if opOf c.image = op && s.ctlReady c then
      .next (if clusterOk c.image then f s c else s.ctlFault c (mkFault 0x07 0))
    else .fault .notEnabled

/-! ## Acceptance and retirement steps (R299, R310) -/

/-- A new entry of the cluster, for a command. -/
def Cluster.newEntry (cl : Cluster) (op : EntryOp) (tag : Nat) (c : Command) (ranges : List Range) : Entry where
  serial := cl.nextSerial
  op := op
  tag := tag
  cmd := c
  header := default
  record := noRecord
  ranges := ranges
  prio := 0
  issued := false
  next := 0
  total := 0
  done := 0
  conts := 0
  cooperative := 0
  forced := 0
  status := 0
  cx := false
  complete := false
  progress := 0
  set := none
  replay := none

/-- Accepts an entry. -/
def State.accept (s : State) (e : Entry) : State :=
  { s with ctl := { s.ctl with entries := s.ctl.entries ++ [e], serial := s.ctl.serial + 1 } }

/-- An add of the hardware at module scope; one that fails is reported and skipped (R310). -/
def State.ctlAdd (s : State) (c : Command) (va : Nat) (v : Nat) : State :=
  if va = 0 then s
  else match s.addMemAt (BitVec.ofNat 64 va) v with
    | .ok t => t
    | .error k => s.ctlReport c (mkFault k va)

/-- The completion record (R300). -/
def completionBytes (status resource tasks cooperative forced conts : Nat) (cx : Bool) : List Byte :=
  bytesOfNat 8 (status + resource * 2 ^ 8 + (if cx then 2 ^ 16 else 0)) ++ bytesOfNat 8 tasks ++
  bytesOfNat 8 (cooperative % 2 ^ 32 + forced * 2 ^ 32) ++ bytesOfNat 8 conts

/-- Writes a completion record; a failure is reported and skipped (R310). -/
def State.writeCompletion (s : State) (c : Command) (comp : Nat) (bs : List Byte) : State :=
  if comp = 0 then s
  else match s.place accWrite (BitVec.ofNat 64 comp) 32 with
    | .error k => s.ctlReport c (mkFault k comp)
    | .ok pl =>
      if poisonedIn s.mod.poison pl.pa 32 then s.ctlReport c (mkFault 0x30 comp)
      else (s.note (BitVec.ofNat 64 comp) pl false).store pl.pa bs

/-- The steps of a retirement before the signal: the completion record, errk, donek. -/
def State.retireSteps (s : State) (c : Command) (r : LaunchRecord) (status : Nat) (bs : List Byte) : State :=
  let s := s.writeCompletion c r.comp bs
  let s := if status = 0 then s else s.ctlAdd c r.errk 1
  s.ctlAdd c r.donek r.doneinc.toNat

/-- A launch as it is to be accepted, or its rejection with the record to report in (R299). -/
inductive Launch where
  | ok (h : Header) (r : LaunchRecord) (ranges : List Range) (total : Nat)
  | rejected (r : LaunchRecord) (status resource : Nat)

/-- Reads a launch's header, record and range list once and checks them in the order of R299; `take` adds the rules of
R321. -/
def State.readLaunch (s : State) (header record : Nat) (take : Bool) : Launch × State :=
  let bad (r : LaunchRecord) (s : State) : Launch × State := (.rejected r 0x15 0, s)
  let (rb, s) := match s.ctlKv fun c => kvRead c record 128 with
    | .ok (b, s) => (some b, s)
    | .error _ => (none, s)
  let (hb, s) := match s.ctlKv fun c => kvRead c header 128 with
    | .ok (b, s) => (some b, s)
    | .error _ => (none, s)
  match rb, hb with
  | none, _ => bad noRecord s
  | some rb, none => bad (parseRecord rb) s
  | some rb, some hb =>
    let r := parseRecord rb
    match parseHeader header hb with
    | none => bad r s
    | some h =>
      let extra : Bool := take && !(r.wbase = 0 && r.ext.all (· = 0) && h.widths = [64])
      if !recordOk rb h.widths || extra then bad r s
      else
        match s.ctlKv fun c => kvRead c (bytesAt rb 96 8) (32 * bytesAt rb 104 8) with
        | .error _ => bad r s
        | .ok (lb, s) =>
          match (List.range (bytesAt rb 104 8)).mapM fun j => parseRange ((lb.drop (32 * j)).take 32) with
          | none => bad r s
          | some ranges =>
            match h.overdemand with
            | some k => (.rejected r 0x50 k, s)
            | none => (.ok h r ranges (taskCount r h.widths), s)

/-- Accepts a launch of a command, as an entry or by rejecting it; a rejected one reports and leaves no entry. -/
def State.acceptLaunch (s : State) (c : Command) (header record : Nat) (tag : Nat) (op : EntryOp) (set replay : Option Nat) :
    State × Bool :=
  match s.readLaunch header record (op = .take) with
  | (.ok h r ranges total, s) =>
    let e := s.ctl.newEntry op tag c ranges
    (s.accept { e with header := h, record := r, prio := h.prio, total := if op = .take then 0 else total, set := set, replay := replay },
      true)
  | (.rejected r status resource, s) => (s.retireSteps c r status (completionBytes status resource 0 0 0 0 false), false)

/-- R299: accepts a launch into a scoreboard entry, or rejects it. -/
def execKlaunch (s : State) : Answer :=
  s.ctlStep 0 fun s c =>
    match (s.ctlDrop c).acceptLaunch c (quarter c.image 1) (quarter c.image 2) (tagOfImage c.image) .launch none none with
    | (s, true) => s
    | (s, false) => s.ctlRetire c

/-! ## Accepted commands that access memory -/

/-- An entry that has issued and whose own action is not complete. -/
def Entry.acting (e : Entry) (op : EntryOp) : Bool := e.op = op && e.issued && !e.complete && !e.cx

/-- Whether the command of an accepted entry may act: it has not faulted, or has been resumed (R327). -/
def State.actionReady (s : State) (e : Entry) : Bool :=
  e.cmd.fault.isNone || (!s.ctl.queue.frozen && s.ctl.queue.started.any fun c => c.seq = e.cmd.seq && c.fault.isNone && c.due = 0)

/-- The command of an accepted entry, as it resumes. -/
def State.actionCommand (s : State) (e : Entry) : Command :=
  (s.ctl.queue.started.find? fun c => c.seq = e.cmd.seq).getD e.cmd

/-- The entry's command faults at its cursor: the queue freezes, and the entry waits for it to be resumed or cancelled. -/
def State.actionFault (s : State) (e : Entry) (c : Command) (f : EngineFault) : State :=
  ((s.ctlDrop c).faultCommand true 0 c f true).onEntry e.serial fun e => { e with cmd := { c with fault := some f } }

/-- The entry's action has come so far, or to its end. -/
def State.actionDone (s : State) (e : Entry) (c : Command) (progress : Nat) (complete : Bool) : State :=
  (s.ctlDrop c).onEntry e.serial fun e => { e with cmd := { c with fault := none }, progress := progress, complete := complete }

/-! ## Streams (R303) -/

/-- The line at an address that has been read is made resident in its home L2 (R303). -/
def kvWarm (ctx : KvCtx) (va : Nat) : KvM Unit := do
  let m ← get
  match checkAccess m ctx.die none ctx.part accRead (BitVec.ofNat 64 va) 1 with
  | .ok pl => if pl.typ = 3 then pure () else set (warmFlat m ctx.part (pl.pa / 128))
  | .error _ => pure ()

/-- Copies or reads the 128-byte units k onwards of a stream, as far as no access fails. -/
def streamRun (ctx : KvCtx) (src dst : Nat) (warm : Bool) : Nat → Nat → Module → Nat × Module × Option EngineFault
  | 0, k, m => (k, m, none)
  | fuel + 1, k, m =>
    let one : KvM Unit := do
      let bs ← kvRead ctx (src + 128 * k) 128
      if warm then do
        kvWarm ctx (src + 128 * k)
        kvWarm ctx (src + 128 * k + 127)
      else kvWrite ctx (dst + 128 * k) bs
    match one m with
    | .ok (_, m) => streamRun ctx src dst warm fuel (k + 1) m
    | .error (f, _) => (k, m, some f)

/-- The ranges of a stream (R301). -/
def streamRanges (img : Image) : List Range :=
  .bytes false (quarter img 1) (hw32 img 12) :: (if flagOf img 0 then [] else [.bytes true (quarter img 2) (hw32 img 12)])

/-- The entry of a kind whose action can go on. -/
def State.actingEntry (s : State) (op : EntryOp) : Option Entry := s.ctl.entries.find? fun e => e.acting op && s.actionReady e

/-- R303: accepts a stream into an entry; once it has issued, copies its range, or reads it into the L2. -/
def execKstream (s : State) : Answer :=
  match s.asController.actingEntry .stream with
  | some e =>
    let s := s.asController
    let c := s.actionCommand e
    let img := c.image
    let n := hw32 img 12 / 128
    match s.partOfCluster (6 * s.ctl.die.val + s.ctl.number.val) with
    | none => .next (s.actionFault e c (mkFault 0x10 (quarter img 1)))
    | some p =>
      let k := c.cursor.entry
      let (k, m, f) := streamRun ⟨s.ctl.die, p, s.cycle, none, [], false⟩ (quarter img 1) (quarter img 2) (flagOf img 0) (n - k) k s.mod
      let s := { s with mod := m }
      let c := { c with cursor := { c.cursor with entry := k } }
      match f with
      | some f => .next (s.actionFault e c f)
      | none => .next (s.actionDone e c k true)
  | none =>
    s.ctlStep 1 fun s c => (s.ctlDrop c).accept (s.ctl.newEntry .stream (tagOfImage c.image) c (streamRanges c.image))

/-- R325: an entry that depends on every earlier one. -/
def execQuiesce (s : State) : Answer :=
  s.ctlStep 5 fun s c => (s.ctlDrop c).accept { s.ctl.newEntry .quiesce (tagOfImage c.image) c [] with complete := true }

/-! ## Acceptance of drafts (R324) -/

/-- The words of one sequence of an array. -/
def readWords (ctx : KvCtx) (va n : Nat) : KvM (List Nat) := do
  let bs ← kvRead ctx va (4 * n)
  return (List.range n).map fun i => bytesAt bs (4 * i) 4

/-- The results of one sequence, its accepted count returned. -/
def acceptOne (ctx : KvCtx) (r : AcceptRec) (q : Nat) : KvM Nat := do
  let d ← readWords ctx (r.dft + q * r.stride) r.n
  let t ← readWords ctx (r.tgt + q * r.stride) (r.n + 1)
  let a := r.accepted d t
  kvWrite ctx (r.res + 8 + 8 * q) (bytesOfNat 8 (a + (a + 1) * 2 ^ 32))
  return a

/-- Every sequence, then the summary; it answers the next fragment. -/
def acceptAll (ctx : KvCtx) (r : AcceptRec) : KvM Nat := do
  if r.dft % 4 != 0 then kvFail (mkFault 0x12 r.dft)
  if r.tgt % 4 != 0 then kvFail (mkFault 0x12 r.tgt)
  let counts ← (List.range r.nseq).mapM (acceptOne ctx r)
  let whole := (counts.filter (· = r.n)).length
  let next := if whole = r.nseq then r.idxall else r.idxpart
  kvWrite ctx r.res (bytesOfNat 8 (next + whole * 2 ^ 16))
  return next

/-- The ranges of an acceptance (R301). -/
def AcceptRec.ranges (r : AcceptRec) : List Range :=
  [.bytes false r.dft ((r.nseq - 1) * r.stride + 4 * r.n), .bytes false r.tgt ((r.nseq - 1) * r.stride + 4 * (r.n + 1)),
   .bytes true r.res (8 + 8 * r.nseq)]

/-- R324: reads the record and accepts the entry; once it has issued, compares drafts with targets and writes the results. The
register follows at the retirement. -/
def execAccept (s : State) : Answer :=
  match s.asController.actingEntry .accept with
  | some e =>
    let s := s.asController
    let c := s.actionCommand e
    match parseAccept (c.records.headD []) with
    | none => .next (s.actionFault e c (mkFault 0x15 (quarter c.image 1)))
    | some r =>
      match s.ctlKv fun ctx => acceptAll ctx r with
      | .error f => .next (s.actionFault e c f)
      | .ok (next, s) => .next (s.actionDone e c next true)
  | none =>
    s.ctlStep 7 fun s c =>
      match s.ctlKv fun ctx => kvRead ctx (quarter c.image 1) 64 with
      | .error f => s.ctlFault c f
      | .ok (bs, s) =>
        match parseAccept bs with
        | none => s.ctlFault c (mkFault 0x15 (quarter c.image 1))
        | some r => (s.ctlDrop c).accept (s.ctl.newEntry .accept (tagOfImage c.image) { c with records := [bs] } r.ranges)

/-! ## Graph replay (R313 to R315) -/

/-- Latches the parameters of one node (R315). -/
def latchNode (ctx : KvCtx) (p : Nat) : KvM Unit := do
  if p = 0 then pure ()
  else
    let w ← kvNat ctx p 8
    let rest ← kvRead ctx (p + 8) 120
    if w / 8 != 0 || natOfBytes rest != 0 then kvFail (mkFault 0x15 p)
    let act : Bool := if !bitOf w 2 && bitOf w 1 then !bitOf w 0 else bitOf w 0
    if !bitOf w 2 && bitOf w 1 then kvWrite ctx p (bytesOfNat 8 (if act then 1 else 0))
    kvWrite ctx (p + 128) (← kvRead ctx (if act then p + 384 else p + 256) 128)

/-- Reads a graph record and its nodes, and latches every node in order. A node whose header or launch record address is not 128-byte aligned
is taken: R313 asks it of the parameter record only, and R293 checks the head's own template (DESIGN CHOICE, log entry 151). -/
def latchGraph (ctx : KvCtx) (c : Command) (va : Nat) : KvM Replaying := do
  let g ← kvRead ctx va 64
  let n := bytesAt g 8 4
  if bytesAt g 12 4 != 0 || bytesAt g 32 32 != 0 || n = 0 || 4096 < n || !ctlAddrOk (bytesAt g 0 8) 32 then kvFail (mkFault 0x15 va)
  let nodes ← (List.range n).mapM fun i => do
    let at_ := bytesAt g 0 8 + 32 * i
    let bs ← kvRead ctx at_ 32
    if bytesAt bs 24 8 != 0 || bytesAt bs 16 8 % 512 != 0 then kvFail (mkFault 0x15 at_)
    return (bytesAt bs 0 8, bytesAt bs 8 8, bytesAt bs 16 8)
  nodes.forM fun x => latchNode ctx x.2.2
  return ⟨va, c, nodes.map fun x => (x.1, x.2.1), bytesAt g 16 8, BitVec.ofNat 64 (bytesAt g 24 8)⟩

/-- A replay that has accepted its nodes and whose nodes have retired; or one whose command was cancelled before. -/
def State.replayOver (s : State) : Option Replaying :=
  s.ctl.replaying.find? fun r =>
    if r.nodes.isEmpty then !s.ctl.entries.any fun e => e.replay = some r.record
    else !s.ctl.queue.waiting.any fun c => c.seq = r.cmd.seq

def State.dropReplay (s : State) (r : Replaying) : State :=
  { s with ctl := { s.ctl with replaying := s.ctl.replaying.filter fun x => x.record != r.record } }

/-- R315: latches the parameters of every node; accepts the nodes in order; and, when the last of them has retired, adds to the
done counter and retires. -/
def execGraphReplay (s : State) : Answer :=
  match s.asController.replayOver with
  | some r =>
    let s := s.asController.dropReplay r
    if r.nodes.isEmpty then .next ((s.ctlAdd r.cmd r.donek r.doneinc.toNat).ctlRetire r.cmd) else .next s
  | none =>
    s.ctlStep 2 fun s c =>
      match s.ctl.replaying.find? fun r => r.record = quarter c.image 1 with
      | none =>
        match s.ctlKv fun ctx => latchGraph ctx c (quarter c.image 1) with
        | .error f => s.ctlFault c f
        | .ok (r, s) => { s with ctl := { s.ctl with replaying := s.ctl.replaying ++ [r] } }
      | some r =>
        match r.nodes with
        | [] => s
        | (header, record) :: rest =>
          let put (x : Replaying) : Replaying := if x.record = r.record then { x with nodes := rest } else x
          let s := { s with ctl := { s.ctl with replaying := s.ctl.replaying.map put } }
          let s := (s.acceptLaunch c header record (tagOfImage c.image) .launch none (some r.record)).1
          if rest.isEmpty then s.ctlDrop c else s

/-! ## Work lists (R317 to R322) -/

/-- Changes an open set of the cluster. -/
def State.onSet (s : State) (va : Nat) (g : WorkSet → WorkSet) : State :=
  { s with ctl := { s.ctl with sets := s.ctl.sets.map fun w => if w.va = va then g w else w } }

/-- Opens a set that is not open (R318); a command that names it lets its detector fire again. -/
def State.openSet (s : State) (va : Nat) : Except EngineFault State :=
  if s.ctl.sets.any fun w => w.va = va then .ok (s.onSet va fun w => { w with fired := false })
  else
    let m (ctx : KvCtx) : KvM WorkSet := do
      match parseSet va (← kvRead ctx va 64) with
      | none => kvFail (mkFault 0x15 va)
      | some (w, n) =>
        let lists ← (List.range n).mapM fun j => do
          match parseList (← kvRead ctx (w.listsAt + 32 * j) 32) with
          | none => kvFail (mkFault 0x15 (w.listsAt + 32 * j))
          | some l => return l
        return { w with lists := lists }
    match s.ctlKv m with
    | .error f => .error f
    | .ok (w, s) => .ok { s with ctl := { s.ctl with sets := s.ctl.sets ++ [w] } }

/-- What one entry of an append or an emit slot does (R319): it is skipped, waits for a place, or fails. -/
inductive ItemStep where
  | skip
  | put (list item : Nat)
  | wait
  | bad (f : EngineFault)

/-- Reads the entry of R319 at an address, for a set. -/
def State.readItem (s : State) (w : WorkSet) (va : Nat) : ItemStep × State :=
  match s.ctlKv fun ctx => kvRead ctx va 16 with
  | .error f => (.bad f, s)
  | .ok (bs, s) =>
    let l := bytesAt bs 0 8
    if l = 2 ^ 64 - 1 then (.skip, s)
    else if w.lists.length ≤ l then (.bad (mkFault 0x15 va), s)
    else if (w.lists.getD l default).full then (.wait, s)
    else (.put l (bytesAt bs 8 8), s)

/-- Appends an item to a list of a set. -/
def State.putItem (s : State) (w : WorkSet) (l item : Nat) : Except EngineFault State :=
  let x := w.lists.getD l default
  match s.ctlKv fun ctx => kvWrite ctx (x.item x.tail) (bytesOfNat 8 item) with
  | .error f => .error f
  | .ok (_, s) => .ok (s.onSet w.va fun w => { w with lists := mapNth l (fun x => { x with tail := x.tail + 1 }) w.lists })

/-- The open set of an entry. -/
def State.setOf (s : State) (va : Option Nat) : Option WorkSet := s.ctl.sets.find? fun w => va = some w.va

/-- The address of the next entry that an append reads. -/
def appendAt (e : Entry) : Nat := quarter e.cmd.image 1 + 16 * e.progress

/-- An append that can go on: its next entry does not wait for a full list. -/
def State.appending (s : State) : Option (Entry × WorkSet) :=
  s.ctl.entries.findSome? fun e =>
    if e.acting .append && s.actionReady e then
      match s.setOf e.set with
      | some w => match (s.readItem w (appendAt e)).1 with
        | .wait => none
        | _ => some (e, w)
      | none => none
    else none

/-- R319: accepts an append into an entry; once it has issued, appends the next item of its source. -/
def execWlAppend (s : State) : Answer :=
  match s.asController.appending with
  | some (e, w) =>
    let s := s.asController
    let c := s.actionCommand e
    let c := { c with cursor := { c.cursor with entry := e.progress } }
    let last : Bool := hw32 c.image 12 ≤ e.progress + 1
    match s.readItem w (appendAt e) with
    | (.bad f, s) => .next (s.actionFault e c f)
    | (.put l v, s) =>
      match s.putItem w l v with
      | .error f => .next (s.actionFault e c f)
      | .ok s => .next (s.actionDone e c (e.progress + 1) last)
    | (_, s) => .next (s.actionDone e c (e.progress + 1) last)
  | none =>
    s.ctlStep 3 fun s c =>
      let va := quarter c.image 2
      match s.openSet va with
      | .error f => s.ctlFault c f
      | .ok s =>
        let e := s.ctl.newEntry .append (tagOfImage c.image) c [.bytes false (quarter c.image 1) (16 * hw32 c.image 12)]
        (s.ctlDrop c).accept { e with set := some va }

/-- R321: accepts a take into an entry, or rejects it; its tasks are placed as items come (R304). -/
def execWlTake (s : State) : Answer :=
  s.ctlStep 4 fun s c =>
    let va := quarter c.image 2
    match s.openSet va with
    | .error f => s.ctlFault c f
    | .ok s =>
      let record := ((s.setOf (some va)).map (·.record)).getD 0
      let s := s.ctlDrop c
      if record = 0 || record % 128 != 0 then
        (s.retireSteps c noRecord 0x15 []).ctlRetire c
      else match s.acceptLaunch c (quarter c.image 1) record (tagOfImage c.image) .take (some va) none with
        | (s, true) => s
        | (s, false) => s.ctlRetire c

/-- Closes the sets whose detector has fired and that no accepted command names: head and tail are written back (R318). -/
def State.closeSets (s : State) (c : Command) : State :=
  let closing (w : WorkSet) : Bool := w.fired && !s.ctl.entries.any fun e => e.set = some w.va
  let write (s : State) (w : WorkSet) : State :=
    (w.lists.zipIdx).foldl (fun s p =>
      match s.ctlKv fun ctx => kvWrite ctx (w.listsAt + 32 * p.2 + 16) (bytesOfNat 8 p.1.head ++ bytesOfNat 8 p.1.tail) with
      | .ok (_, s) => s
      | .error f => s.ctlReport c f) s
  let s' := (s.ctl.sets.filter closing).foldl write s
  { s' with ctl := { s'.ctl with sets := s'.ctl.sets.filter fun w => !closing w } }

/-- A set whose detector fires (R322). -/
def State.terminating (s : State) : Option WorkSet :=
  s.ctl.sets.find? fun w =>
    !w.fired && w.lists.all WorkList.empty && w.inProgress = 0 && !(s.ctl.emits.any fun p => p.set = w.va) &&
    !s.ctl.entries.any fun e => e.op = .append && e.set = some w.va && !e.complete

/-- A command that stands for a set's own reports: its first entry's. -/
def State.setCommand (s : State) (va : Nat) : Command :=
  ((s.ctl.entries.find? fun e => e.set = some va).map (·.cmd)).getD (s.command 0 0 s.ctl.u)

/-- R322: the detector of a set fires: tinc is added to termk, and every take of the set retires. -/
def execWlTermination (s : State) : Answer :=
  let s := s.asController
  match s.terminating with
  | none => .fault .notEnabled
  | some w =>
    let c := s.setCommand w.va
    let s := s.onSet w.va fun w => { w with fired := true }
    let s := s.ctlAdd c w.termk w.tinc.toNat
    let fin (e : Entry) : Entry := if e.op = .take && e.set = some w.va then { e with complete := true } else e
    let s := { s with ctl := { s.ctl with entries := s.ctl.entries.map fin } }
    .next (s.closeSets c)

/-- The address of a core's emit slot (R320). The entries stand from its byte 16 on: R320 gives the slot 16 + 16E bytes, an 8-byte count and
then the entries, and the model takes bytes 8 to 15 as unused (DESIGN CHOICE, log entry 147). -/
def WorkSet.slot (w : WorkSet) (core : Nat) : Nat := w.emit + core * (16 + 16 * w.entries)

/-- A retired core's emit slot that can be taken further. -/
def State.emitting (s : State) : Option (EmitPending × WorkSet) :=
  s.ctl.emits.findSome? fun p =>
    match s.setOf (some p.set) with
    | none => none
    | some w =>
      match p.todo with
      | some (k, n) => if k < n then
          match (s.readItem w (w.slot p.core.val + 16 + 16 * k)).1 with
          | .wait => none
          | _ => some (p, w)
        else some (p, w)
      | none => some (p, w)

/-- The next step of an emit slot: its entries so far, or its end. -/
def State.emitTo (s : State) (p : EmitPending) (todo : Option (Nat × Nat)) : State :=
  { s with ctl := { s.ctl with emits := s.ctl.emits.map fun q => if q.core = p.core then { q with todo := todo } else q } }

/-- The slot has been appended: its count is written as 0, and the item is no longer in progress. -/
def State.emitEnd (s : State) (p : EmitPending) (w : WorkSet) : State :=
  let s := match s.ctlKv fun ctx => kvWrite ctx (w.slot p.core.val) (bytesOfNat 8 0) with
    | .ok (_, s) => s
    | .error f => s.ctlReport (s.setCommand w.va) f
  let s := { s with ctl := { s.ctl with emits := s.ctl.emits.filter fun q => q.core != p.core } }
  if p.ends then s.onSet w.va fun w => { w with inProgress := w.inProgress - 1 } else s

/-- R320: the count of a retired task's emit slot is read, its next entry appended, or the slot ended. An entry that fails is
reported to the controller, and the next one follows. -/
def execEmitAppend (s : State) : Answer :=
  let s := s.asController
  match s.emitting with
  | none => .fault .notEnabled
  | some (p, w) =>
    match p.todo with
    | none =>
      match s.ctlKv fun ctx => kvNat ctx (w.slot p.core.val) 8 with
      | .ok (n, s) => .next (s.emitTo p (some (0, min n w.entries)))
      | .error f => .next ((s.ctlReport (s.setCommand w.va) f).emitTo p (some (0, 0)))
    | some (k, n) =>
      if n ≤ k then .next (s.emitEnd p w)
      else
        let c := s.setCommand w.va
        match s.readItem w (w.slot p.core.val + 16 + 16 * k) with
        | (.bad f, s) => .next ((s.ctlReport c f).emitTo p (some (k + 1, n)))
        | (.put l v, s) =>
          match s.putItem w l v with
          | .ok s => .next (s.emitTo p (some (k + 1, n)))
          | .error f => .next ((s.ctlReport c f).emitTo p (some (k + 1, n)))
        | (_, s) => .next (s.emitTo p (some (k + 1, n)))

/-! ## Fragments (R323) -/

/-- The controller is at the target of its jump, or goes on behind the load. -/
def State.jumped (s : State) (pc : Option Nat) : State :=
  let f := s.ctl.c
  { s with ctl := { s.ctl with c := { f with run := .running, pc := pc.getD f.pc } } }

/-- The index a jump chooses, or its fault. -/
def State.jumpIndex (s : State) (img : Image) : Except EngineFault (Nat × Nat × State) :=
  match hw img 8 with
  | 0 => .ok (hw img 9, hw img 9, s)
  | 1 => .ok (s.ctl.acceptance.toNat, s.ctl.acceptance.toNat, s)
  | _ =>
    match s.ctlKv fun ctx => kvNat ctx (quarter img 1) 4 with
    | .error f => .error f
    | .ok (v, s) => .ok (v, quarter img 1, s)

/-- R323: jumps to the table entry that the source chooses. -/
def execFragJump (s : State) : Answer :=
  if (s.ctlHead.any fun c => flagOf c.image 0 && clusterOk c.image) then .fault .notEnabled
  else s.ctlStep 6 fun s c =>
    match s.jumpIndex c.image with
    | .error f => s.ctlFault c f
    | .ok (v, addr, s) =>
      let target := s.ctl.jump[(Fin.ofNat 16 v : Fin 16)]
      if 16 ≤ v || target = 0xFFFFFFFF then s.ctlFault c (mkFault 0x15 addr)
      else (s.jumped (some target.toNat)).ctlRetire c

/-- R323: loads the 16 entries of the jump table. -/
def execFragJumpLoad (s : State) : Answer :=
  if (s.ctlHead.any fun c => flagOf c.image 0 && clusterOk c.image) then
    s.ctlStep 6 fun s c =>
      match s.ctlKv fun ctx => kvRead ctx (quarter c.image 1) 64 with
      | .error f => s.ctlFault c f
      | .ok (bs, s) =>
        let table : Vector (BitVec 32) 16 := Vector.ofFn fun j => BitVec.ofNat 32 (bytesAt bs (4 * j.val) 4)
        (State.jumped { s with ctl := { s.ctl with jump := table } } none).ctlRetire c
  else .fault .notEnabled

/-! ## Priority (R325) -/

/-- The entries of a tag. -/
def Cluster.tagged (c : Cluster) (tag : Nat) : List Nat := (c.entries.filter fun e => e.tag = tag).map (·.serial)

/-- The priority of resumed work. -/
def Resumed.prio : Resumed → Nat
  | .continuation c => c.prio
  | .node _ t => t.prio
  | .image _ t => t.prio

def Resumed.withPrio (r : Resumed) (p : Nat) : Resumed :=
  match r with
  | .continuation c => .continuation { c with prio := p }
  | .node n t => .node n { t with prio := p }
  | .image i t => .image i { t with prio := p }

/-- A task at a priority; at 3 it is pre-empted no more (R311), but a cancelled one still stops (R326). -/
def Task.atPrio (t : Task) (p : Nat) : Task :=
  if p = 3 then { t with prio := p, request := none, forced := t.forced && t.cancelled } else { t with prio := p }

/-- R325: changes the priority of the undispatched and running tasks of every entry with the tag. -/
def execPrio (s : State) : Answer :=
  s.ctlStep 8 fun s c =>
    let ids := s.ctl.tagged (hw c.image 4)
    let p := hw c.image 5
    let fixE (e : Entry) : Entry := if ids.contains e.serial then { e with prio := p } else e
    let fixT (t : Task) : Task := if ids.contains t.launch then t.atPrio p else t
    let fixK (k : Core) : Core := { k with task := k.task.map fixT }
    let fixC (cl : Cluster) : Cluster :=
      { cl with resumed := cl.resumed.map fun r => if ids.contains r.1 then (r.1, r.2.withPrio p) else r }
    let s := { s with
      core := fixK s.core, parked := s.parked.map fixK, ctl := fixC { s.ctl with entries := s.ctl.entries.map fixE }
      parkedCl := s.parkedCl.map fixC }
    s.ctlRetire c

/-! ## Issue and retirement of entries (R302, R310) -/

/-- Whether an entry's dependences have retired in an earlier cycle. -/
def State.mayIssueEntry (s : State) (earlier : List Entry) (e : Entry) : Bool :=
  !e.issued && !e.cx && !(earlier.any fun f => e.dependsOn f) &&
  !s.ctl.retired.any fun r => r.1 = e.serial && s.cycle ≤ r.2

/-- The oldest entry that may issue. -/
def State.issuable (s : State) : Option Entry :=
  (s.ctl.entries.zipIdx).findSome? fun p => if s.mayIssueEntry (s.ctl.entries.take p.2) p.1 then some p.1 else none

/-- R302: an entry issues once every entry it depends on has retired. -/
def execEntryIssue (s : State) : Answer :=
  match s.issuable with
  | none => .fault .notEnabled
  | some e => .next (s.onEntry e.serial fun e => { e with issued := true })

/-- The faulted command of an accepted entry was cancelled: the entry is dropped (R229, R327). -/
def State.actionCancelled (s : State) (e : Entry) : Bool :=
  e.cmd.fault.isSome && !(s.ctl.queue.started ++ s.ctl.queue.waiting).any fun c => c.seq = e.cmd.seq

/-- Whether an entry retires (R310): its tasks have retired or been cancelled and nothing of it remains, or its own action is
complete. -/
def State.entryOver (s : State) (e : Entry) : Bool :=
  if s.actionCancelled e then true
  else if !(e.issued || e.cx) then false
  else match e.op with
    | .launch => e.next = e.total && !s.runsTask e.serial && !s.hasResumed e.serial
    | .take => e.complete && !s.runsTask e.serial && !s.hasResumed e.serial
    | _ => e.complete || e.cx

def State.entryToRetire (s : State) : Option Entry := s.ctl.entries.find? fun e => s.entryOver e

/-- The entry leaves the scoreboard; those that depended on it may issue in the next cycle. -/
def State.dropEntry (s : State) (e : Entry) : State :=
  let rest := s.ctl.entries.filter fun x => x.serial != e.serial
  let freed := (rest.filter fun x => e.serial < x.serial && x.dependsOn e).map fun x => (x.serial, s.cycle)
  { s with ctl := { s.ctl with entries := rest, retired := freed ++ s.ctl.retired.filter fun r => s.cycle ≤ r.2 } }

/-- R310: an entry retires: its completion record, its counters, its signal; the acceptance register of an `ACCEPT`. -/
def execEntryRetire (s : State) : Answer :=
  let s := s.asController
  match s.entryToRetire with
  | none => .fault .notEnabled
  | some e =>
    if s.actionCancelled e then .next ((s.dropEntry e).closeSets e.cmd)
    else
      let r := e.record
      let bs := completionBytes e.status.toNat 0 e.done e.cooperative e.forced e.conts e.cx
      let s := if e.op = .launch || e.op = .take then s.retireSteps e.cmd r e.status.toNat bs else s
      let s := if e.op = .accept && e.complete && !e.cx then
          { s with ctl := { s.ctl with acceptance := BitVec.ofNat 4 e.progress } } else s
      let s := (s.dropEntry e).closeSets e.cmd
      .next (if e.replay.isSome then s else s.ctlRetire e.cmd)

end Sys2Proof.Machine
end

