-- ==== Sys2Proof/Machine/Dispatching.lean ====
section
/-! DEFINITION. Tasks: placement, start, end, swaps, continuations, cancellation and pre-emption (R105, R116, R117, R166, R167,
R269 to R274, R304 to R312, R326). -/

namespace Sys2Proof.Machine

/-! ## Cores of the focus cluster -/

/-- The cores that run one task: those of its group that were started together. -/
def State.groupOf (s : State) (t : Task) : List Nat :=
  (List.range 8).filter fun n => (s.clusterCore n).task.any fun u => u.launch = t.launch && u.startedAt = t.startedAt

/-- The tasks of the cluster's cores, one for each group, with the group. -/
def State.groups (s : State) : List (Task × List Nat) :=
  (List.range 8).filterMap fun n => (s.clusterCore n).task.bind fun t =>
    let g := s.groupOf t
    if g.head? = some n then some (t, g) else none

/-- The tasks of a group's cores. -/
def State.groupTasks (s : State) (g : List Nat) : List Task := g.filterMap fun n => (s.clusterCore n).task

/-- Changes the tasks of a group. -/
def State.onTasks (s : State) (g : List Nat) (f : Task → Task) : State :=
  g.foldl (fun s n => s.onClusterCore n fun k => { k with task := k.task.map f }) s

def Core.onContexts (k : Core) (f : Strand → Strand) : Core :=
  { k with a := f k.a, x := f k.x, t := f k.t, t1 := f k.t1, t2 := f k.t2, t3 := f k.t3, t4 := f k.t4 }

def Core.allContexts (k : Core) : List Strand := [k.a, k.x, k.t, k.t1, k.t2, k.t3, k.t4]
def Core.dormants (k : Core) : List Strand := [k.t1, k.t2, k.t3, k.t4]

/-- The core without a task: its data queues and branch-outcome queues are empty (R116). -/
def Core.freed (k : Core) : Core :=
  { k.onContexts fun f => { f with
      run := .idle, results := [], replays := [], poisons := [], held := [], reports := [], nest := none, hold := none, region := none
      spec := false } with
    task := none, halt := none, q := Vector.replicate 8 ⟨0, []⟩, bqAX := ⟨0, []⟩, bqXA := ⟨0, []⟩ }

/-- The core with its engine commands gone, their claims released. -/
def Core.withoutCommands (k : Core) : Core :=
  let k := ([0, 1, 2, 3, 4, 5, 6, 7] : List (Fin 8)).foldl Core.cancelQueue k
  { k with starts := [] }

/-- The core after its task was stopped (R269, R326). -/
def Core.stoppedTask (k : Core) : Core := k.withoutCommands.freed

/-- The operations of the fabric that a core awaits. -/
def State.opsOf (s : State) (k : Core) : List FabricOp :=
  s.mod.ops.filter fun o => o.die = k.die && o.cluster = k.cluster && o.core = k.number && !o.cut

/-! ## Task start (R166, R167, R306, R307) -/

/-- The syllables that R110 marks in a region: the second ones of long-immediate forms. -/
def marksFrom : Nat → Nat → List Byte → List Nat
  | 0, _, _ => []
  | fuel + 1, a, b0 :: b1 :: b2 :: b3 :: rest =>
    if isLong (natOfBytes [b0, b1, b2, b3]) && !rest.isEmpty then (a + 4) :: marksFrom fuel (a + 8) (rest.drop 4)
    else marksFrom fuel (a + 4) rest
  | _ + 1, _, _ => []

/-- The marks of the regions of a header. -/
def regionMarks (store : Memory) (h : Header) : List Nat :=
  [(0, h.lena), (h.lena, h.lenx), (h.lena + h.lenx, h.lent)].flatMap fun p => marksFrom p.2 p.1 (store.read p.1 p.2)

/-- The instruction store with code from memory at address 0 on; a line that cannot be read leaves what stands there. -/
def State.loadCode (s : State) (store : Memory) (va len : Nat) : Memory × State :=
  (lineParts va len).foldl (fun (acc : Memory × State) p =>
    match acc.2.ctlKv fun ctx => kvRead ctx p.2.1 p.2.2 with
    | .ok (bs, s) => (acc.1.write (p.2.1 - va) bs, s)
    | .error _ => acc) (store, s)

/-- The number of a core in the module (R377). -/
def Core.global (k : Core) : Nat := 8 * (6 * k.die.val + k.cluster.val) + k.number.val

/-- One register that a setup names, on its core (R377). -/
def Core.setup (k : Core) (field : Fin 6) (v : Word) : Core :=
  let h : Word := v &&& ~~~3
  let a : Word := v &&& ~~~0xFFF
  match field with
  | 0 => { k with a := { k.a with handler := h } }
  | 1 => { k with a := { k.a with traparea := a } }
  | 2 => { k with x := { k.x with handler := h } }
  | 3 => { k with x := { k.x with traparea := a } }
  | 4 => { k with t := { k.t with handler := h } }
  | 5 => { k with t := { k.t with traparea := a } }

/-- The setups that await the core's task start take effect, once (R377). -/
def applySetup (m : Module) (k : Core) : Core × Module :=
  let one (k : Core) (v : VirtualFunction) : Core :=
    (v.pending.filter fun p => p.1 = k.global).foldl (fun k p =>
      match v.setup.find? fun e => e.1 = p.1 && e.2.1 = p.2 with
      | some e => k.setup p.2 e.2.2
      | none => k) k
  (m.vfs.toList.foldl one k, { m with vfs := m.vfs.map fun v => { v with pending := v.pending.filter fun p => p.1 != k.global } })

/-- A strand of a task that starts: at an address, or in a state that issues nothing. -/
def SavedPc.start (p : SavedPc) (f : Strand) : Strand :=
  match p with
  | .at pc => f.taskStart .running pc
  | .ended => f.taskStart .ended f.pc
  | .idle => f.taskStart .idle f.pc
  | .waiting => f.taskStart .waiting f.pc

/-- Where the three strands of a header start (R306): without an entry A and X stay idle, and T waits for tokens. -/
def Header.starts (h : Header) : SavedPc × SavedPc × SavedPc :=
  let of (entry base : Nat) (none_ : SavedPc) : SavedPc := if entry = 0xFFFFFFFF then none_ else .at (base + entry)
  (of h.entryA 0 .idle, of h.entryX h.lena .idle, of h.entryT (h.lena + h.lenx) .waiting)

/-- The fetch region and the seed of a strand. -/
def StrandUnit.start (u : StrandUnit) (seed : Word) (base len : Nat) : StrandUnit :=
  { u with lut := 0, seed := seed, ibase := BitVec.ofNat 64 base, ilimit := BitVec.ofNat 64 (base + len) }

/-- The core with a task that starts (R71, R73, R167, R230, R239, R306): registers at their task-start values, the scratchpad
and the accumulators kept where the previous task belonged to the same launch. -/
def Core.start (k : Core) (t : Task) (pcs : SavedPc × SavedPc × SavedPc) (store : Memory) : Core :=
  let h := t.header
  let same : Bool := k.previous = some t.launch
  let limit := 262144 * h.ways
  { k with
    a := pcs.1.start k.a, x := pcs.2.1.start k.x, t := pcs.2.2.start k.t
    t1 := k.t1.taskStart .idle 0, t2 := k.t2.taskStart .idle 0, t3 := k.t3.taskStart .idle 0, t4 := k.t4.taskStart .idle 0
    ua := k.ua.start t.seed 0 h.lena
    ux := k.ux.start t.seed h.lena h.lenx
    ut := k.ut.start t.seed (h.lena + h.lenx) h.lent
    turnsT := [0, 1, 2, 3, 4], maskMode := 0, maskBase := 0
    slots := Vector.replicate 8 none
    q := Vector.replicate 8 ⟨0, []⟩, bqAX := ⟨0, []⟩, bqXA := ⟨0, []⟩
    ways := h.ways, cache := k.cache.filter fun e => h.ways ≤ e.1
    scratch := if same then k.scratch.filter fun c => c.1 < limit else []
    scratchPoison := if same then k.scratchPoison.filter fun l => 128 * l < limit else []
    acc := if same then k.acc else []
    accPoison := if same then k.accPoison else []
    blocks := if same then k.blocks else Vector.replicate 32 ⟨0, .none⟩
    istore := store, marks := regionMarks store h
    task := some t, previous := some t.launch, tokens := 0, halt := none }

/-- A task starts on a core of the cluster. -/
def State.startTask (s : State) (n : Nat) (t : Task) (pcs : SavedPc × SavedPc × SavedPc) (regs : Core → Core) : State :=
  let h := t.header
  let k := s.clusterCore n
  let (store, s) := s.loadCode k.istore h.code (h.lena + h.lenx + h.lent)
  let (k, m) := applySetup s.mod (regs (k.start t pcs store))
  State.onClusterCore { s with mod := m } n fun _ => k

/-- The A strand with registers x1 to x8 of the task before (R306). -/
def Core.passing (regs : List Word) (k : Core) : Core :=
  { k with a := { k.a with x := (regs.zipIdx).foldl (fun (x : Vector Word 64) p => x.set (Fin.ofNat 64 (p.2 + 1)) p.1) k.a.x } }

/-- x1 to x8 of the A strand. -/
def Core.passed (k : Core) : List Word := (List.range 8).map fun j => k.a.x[(Fin.ofNat 64 (j + 1) : Fin 64)]

/-! ## Ready work and placement (R304, R305) -/

/-- The levels that the pointer goes round (R305). -/
def levelRotation : List Nat := [3, 2, 3, 1, 3, 2, 3, 0, 3, 2, 3, 1, 3, 2, 3]

/-- Work that is ready: resumed work by its place in the list, or the next task of an entry. -/
inductive ReadyWork where
  | resumed (launch : Nat) (r : Resumed)
  | fresh (e : Entry)

/-- Whether a core of the cluster can take a task: it runs none, it is not halted, and its emit slot is empty (R304, R320). -/
def State.coreFree (s : State) (n : Nat) : Bool :=
  let k := s.clusterCore n
  k.task.isNone && k.halt.isNone && !s.ctl.emits.any fun p => p.core.val = n

def State.freeCores (s : State) : List Nat := (List.range 8).filter s.coreFree

/-- The core for a task of width 1: free, and of the same launch as its previous task if there is one. -/
def State.placeOne (s : State) (launch : Nat) (ok : Nat → Bool) : List Nat :=
  let free := s.freeCores.filter ok
  match free.find? fun n => (s.clusterCore n).previous = some launch with
  | some n => [n]
  | none => free.take 1

/-- The lowest free group of a width. -/
def State.placeGroup (s : State) (g : Nat) : List Nat :=
  (((List.range 8).filter fun c => c % g = 0).map fun c => (List.range g).map (· + c)).find? (fun l => l.all s.coreFree) |>.getD []

def State.placeWidth (s : State) (launch g : Nat) : List Nat := if g ≤ 1 then s.placeOne launch (fun _ => true) else s.placeGroup g

/-- The cores a piece of ready work is placed on; none if it finds none. A member's continuation keeps its member number. -/
def State.coresFor (s : State) : ReadyWork → List Nat
  | .resumed l (.continuation c) => s.placeOne l fun n => c.width ≤ 1 || n % c.width = c.member
  | .resumed l (.node _ t) => s.placeWidth l t.width
  | .resumed l (.image _ t) => s.placeWidth l t.width
  | .fresh e => s.placeWidth e.serial e.header.coop

/-- Whether an entry has an undispatched task (R304, R321). -/
def State.undispatched (s : State) (e : Entry) : Bool :=
  e.issued && !e.cx && (match e.op with
    | .launch => e.next < e.total
    | .take => !e.complete && (s.setOf e.set).any fun w => w.lists.any fun l => !l.empty
    | _ => false)

/-- Whether a launch belongs to the focus cluster's partition. -/
def State.sameOwner (s : State) (launch : Nat) : Bool :=
  (s.partOfCluster (launch % 144)).isSome && s.partOfCluster (launch % 144) = s.partOfCluster (6 * s.ctl.die.val + s.ctl.number.val)

/-- The ready work of a level, in the order in which it is taken. -/
def State.readyAt (s : State) (level : Nat) : List ReadyWork :=
  ((s.ctl.resumed.filter fun r => r.2.prio = level && s.sameOwner r.1).map fun r => .resumed r.1 r.2) ++
  (s.ctl.entries.filter fun e => e.prio = level && s.undispatched e && s.sameOwner e.serial).map .fresh

/-- The first work of a level that finds cores, with them. -/
def State.placeable (s : State) (level : Nat) : Option (ReadyWork × List Nat) :=
  (s.readyAt level).findSome? fun w => match s.coresFor w with
    | [] => none
    | cs => some (w, cs)

/-- The next placement: its position in the rotation, the work and the cores. -/
def State.placement (s : State) : Option (Fin 15 × ReadyWork × List Nat) :=
  (List.range 15).findSome? fun j =>
    let i : Fin 15 := Fin.ofNat 15 (s.ctl.pointer.val + j)
    (s.placeable (levelRotation.getD i.val 0)).map fun p => (i, p.1, p.2)

/-! ## Starting work -/

/-- A task of an entry as it starts. -/
def State.newTask (s : State) (launch : Nat) (h : Header) (wid seed : Word) (prio width member : Nat) (set : Option Nat) : Task where
  launch := launch
  header := h
  wid := wid
  seed := seed
  prio := prio
  width := width
  member := member
  startedAt := s.ctl.starts
  readyAt := s.cycle + 1
  swap := none
  ending := none
  request := none
  forced := false
  cancelled := false
  set := set
  status := 0

/-- The counter of placements goes on. -/
def State.placed (s : State) : State := { s with ctl := { s.ctl with starts := s.ctl.starts + 1 } }

/-- A fresh task of an entry starts on its cores. -/
def State.startFresh (s : State) (e : Entry) (wid : Word) (cores : List Nat) : State :=
  ((cores.zipIdx).foldl (fun s p =>
    let t := s.newTask e.serial e.header wid e.record.seed e.prio (max 1 e.header.coop) p.2 e.set
    s.startTask p.1 t e.header.starts id) s).placed

/-- The item a take takes (R321): the head item of the lowest list that has one. -/
def State.takeItem (s : State) (w : WorkSet) : Except EngineFault Word × State :=
  match (w.lists.zipIdx).find? fun p => !p.1.empty with
  | none => (.error (mkFault 0x15 w.va), s)
  | some (l, j) =>
    let taken (s : State) : State := s.onSet w.va fun w => { w with lists := mapNth j (fun x => { x with head := x.head + 1 }) w.lists }
    match s.ctlKv fun ctx => kvNat ctx (l.item l.head) 8 with
    | .ok (v, s) => (.ok (BitVec.ofNat 64 v), taken s)
    | .error f => (.error f, taken s)

/-- A continuation's task starts: the named registers, and the strands where they stopped (R308). -/
def State.startContinuation (s : State) (c : Continuation) (n : Nat) : State :=
  let t := s.newTask c.launch c.header c.wid c.seed c.prio c.width c.member c.set
  let regs (k : Core) : Core :=
    { k with
      a := { k.a with x := c.scalars.foldl (fun (x : Vector Word 64) p => x.set p.1 p.2) k.a.x }
      x := { k.x with v := c.vectors.foldl (fun (v : Vector VReg 64) p => v.set p.1 p.2) k.x.v } }
  ((s.startTask n t (c.a, c.x, c.t) regs).placed).onEntry c.launch fun e => { e with conts := e.conts + 1 }

/-- The next overlay's header: readable, valid, and equal to the outgoing one where it must be (R306). -/
def State.nextHeader (s : State) (va : Word) (old : Header) : Option Header × State :=
  match s.ctlKv fun ctx => kvRead ctx va.toNat 128 with
  | .error _ => (none, s)
  | .ok (bs, s) =>
    match parseHeader va.toNat bs with
    | some h => (if h.swapsWith old then some h else none, s)
    | none => (none, s)

/-- A task ends against its launch with a status; `ended` says that it counts as one that retired or was cancelled. -/
def State.countTask (s : State) (launch : Nat) (status : Byte) : State :=
  s.onEntry launch fun e => { e with done := e.done + 1, status := if e.status = 0 then status else e.status }

/-- Headers of saved nodes, or none where one fails. -/
def State.nodeHeaders (s : State) (t : Task) (ns : List SavedNode) : Option (List Header) × State :=
  ns.foldl (fun (acc : Option (List Header) × State) n =>
    match acc.1, acc.2.nextHeader n.header t.header with
    | some hs, (some h, s) => (some (hs ++ [h]), s)
    | _, (_, s) => (none, s)) (some [], s)

/-- Changes the work-list set of a task, and the cluster that holds it. -/
def State.onItem (s : State) (t : Task) (f : Cluster → WorkSet → Cluster) : State :=
  match t.set with
  | none => s
  | some va =>
    let fix (c : Cluster) : Cluster :=
      if 6 * c.die.val + c.number.val != t.launch % 144 then c
      else match c.sets.find? fun w => w.va = va with
        | none => c
        | some w => f c w
    { s with ctl := fix s.ctl, parkedCl := s.parkedCl.map fix }

/-- The cluster with another count of a set's items in progress. -/
def Cluster.countItems (c : Cluster) (w : WorkSet) (n : Nat) : Cluster :=
  { c with sets := c.sets.map fun x => if x.va = w.va then { x with inProgress := n } else x }

/-- The task's part in its work-list set: the emit slots of its cores are to be appended, and its item is in progress until then (R320,
R322). Where the item goes on in an image beside the cores (`ends` false), the slots alone are appended. -/
def State.endItem (s : State) (t : Task) (g : List Nat) (ends : Bool) : State :=
  s.onItem t fun c w =>
    if w.emit != 0 then { c with emits := c.emits ++ g.map fun n => ⟨Fin.ofNat 8 n, w.va, ends && g.getLast? = some n, none⟩ }
    else if ends then c.countItems w (w.inProgress - 1) else c

/-- A continuation that its task has written is counted in progress beside its task, until it has retired (R105, R322). -/
def State.addItem (s : State) (t : Task) : State := s.onItem t fun c w => c.countItems w (w.inProgress + 1)

/-- A task that was stopped without an image counts as cancelled, and its item is in progress no longer (R300, R326). -/
def State.endCancelled (s : State) (t : Task) : State :=
  (s.countTask t.launch 0).onItem t fun c w => c.countItems w (w.inProgress - 1)

/-- A saved node starts again on a group of cores (R311); where a header fails, the task ends. -/
def State.startNode (s : State) (ns : List SavedNode) (t : Task) (cores : List Nat) : State :=
  match s.nodeHeaders t ns with
  | (none, s) => (s.countTask t.launch 0x15).endItem t cores true
  | (some hs, s) =>
    (((cores.zip (ns.zip hs)).zipIdx).foldl (fun s p =>
      let h := p.1.2.2
      let u := s.newTask t.launch h t.wid t.seed t.prio t.width p.2 t.set
      s.startTask p.1.1 u h.starts (Core.passing p.1.2.1.regs)) s).placed

/-- Takes resumed work off the list. -/
def State.unresume (s : State) (launch : Nat) (r : Resumed) : State :=
  { s with ctl := { s.ctl with resumed := s.ctl.resumed.erase (launch, r) } }

/-- R304 to R308: places the next ready work on free cores, apart from a saved image. -/
def execTaskDispatch (s : State) : Answer :=
  let s := s.asController
  match s.placement with
  | none => .fault .notEnabled
  | some (i, w, cores) =>
    let s := { s with ctl := { s.ctl with pointer := i + 1 } }
    match w with
    | .resumed _ (.image _ _) => .fault .notEnabled
    | .resumed l (.continuation c) => .next ((s.unresume l (.continuation c)).startContinuation c (cores.headD 0))
    | .resumed l (.node ns t) => .next ((s.unresume l (.node ns t)).startNode ns t cores)
    | .fresh e =>
      if e.op = .take then
        match s.setOf e.set with
        | none => .fault .notEnabled
        | some w =>
          match s.takeItem w with
          | (.error f, s) => .next (s.ctlReport e.cmd f)
          | (.ok v, s) => .next ((s.onSet w.va fun w => { w with inProgress := w.inProgress + 1 }).startFresh e v cores)
      else
        let v := widAt e.record e.header.widths e.header.widths.length e.next 0
        .next ((s.onEntry e.serial fun e => { e with next := e.next + 1 }).startFresh e (BitVec.ofNat 64 v) cores)

/-! ## Task end (R105, R116, R117, R306, R320) -/

/-- Whether a strand has ended its part and all it does has been performed. -/
def Strand.partOver (f : Strand) : Bool :=
  (f.run = .ended || f.run = .idle || f.run = .waiting) && !f.draining && f.posted.isEmpty && f.hold.isNone && f.reports.isEmpty

/-- Whether every strand of a core's task has ended, and every context that it started (R116, R183). -/
def Core.strandsOver (k : Core) : Bool := k.allContexts.all Strand.partOver && k.dormants.all fun f => f.run != .running

def Core.queuesEmpty (k : Core) (which : Fin 8 → Bool) : Bool :=
  (List.finRange 8).all fun q => !which q || ((k.queue[q]).waiting.isEmpty && (k.queue[q]).started.isEmpty)

/-- The queues that a task's end waits for: all of them, or those that the trailer names where it is a swap (R116, R117, R311). -/
def Task.awaits (t : Task) (q : Fin 8) : Bool := t.swap.isNone || t.request.isSome || t.cancelled || bitOf t.header.trailer.toNat q.val

/-- Whether the data of every queue load have arrived (R97, R188). -/
def Core.loadsIn (k : Core) : Bool := k.q.toList.all fun d => d.entries.all fun e => !e.reserved

/-- Whether a core's part of its task has ended: its accesses are performed, and A has taken the poison of its queue loads. After an
unsatisfied `CWAIT` no strand takes it (log entry 122). -/
def Core.taskOver (k : Core) : Bool :=
  k.halt.isNone && (match k.task with
    | some t =>
      k.strandsOver && k.queuesEmpty t.awaits && t.ending.all (·.written) && k.loadsIn && (t.ending.isSome || k.a.poisons.isEmpty)
    | none => false)

/-- A group whose task has ended; `swap` says whether it goes on in its next overlay. -/
def State.endedGroup (s : State) (swap : Bool) : Option (Task × List Nat) :=
  s.groups.find? fun p =>
    (p.1.swap.isSome && p.1.request.isNone && !p.1.cancelled) = swap && p.2.all fun n => (s.clusterCore n).taskOver

/-- The first status reported by the tasks of a group. -/
def firstStatus (ts : List Task) : Byte := ((ts.map (·.status)).find? (· != 0)).getD 0

/-- R116, R311: a task retires, its cores free; one that a request for pre-emption met at its swap leaves its saved nodes, unless it is
cancelled (R326). -/
def execTaskRetire (s : State) : Answer :=
  let s := s.asController
  match s.endedGroup false with
  | none => .fault .notEnabled
  | some (t, g) =>
    let ts := s.groupTasks g
    let nodes : List SavedNode := g.filterMap fun n =>
      let k := s.clusterCore n
      k.task.map fun u => ⟨u.swap.getD 0, k.passed⟩
    let free (s : State) : State := g.foldl (fun s n => s.onClusterCore n Core.freed) s
    if t.swap.isSome && t.cancelled then .next ((free s).endCancelled t)
    else if t.swap.isSome then
      let t := { t with request := none, forced := false, swap := none }
      let s := { s with ctl := { s.ctl with resumed := s.ctl.resumed ++ [(t.launch, .node nodes t)] } }
      .next ((free s).onEntry t.launch fun e => { e with cooperative := e.cooperative + 1 })
    else .next (((free s).countTask t.launch (firstStatus ts)).endItem t g true)

/-- R306: the next overlay is loaded and its task starts; where its header fails, the task ends with its queues cancelled. -/
def execOverlayStart (s : State) : Answer :=
  let s := s.asController
  match s.endedGroup true with
  | none => .fault .notEnabled
  | some (t, g) =>
    let nodes : List SavedNode := g.map fun n => ⟨((s.clusterCore n).task.bind (·.swap)).getD (t.swap.getD 0), (s.clusterCore n).passed⟩
    match s.nodeHeaders t nodes with
    | (none, s) =>
      .next (((g.foldl (fun s n => s.onClusterCore n Core.stoppedTask) s).countTask t.launch 0x15).endItem t g true)
    | (some hs, s) =>
      .next ((((g.zip (nodes.zip hs)).zipIdx).foldl (fun s p =>
        let h := p.1.2.2
        let u := s.newTask t.launch h t.wid t.seed t.prio t.width p.2 t.set
        s.startTask p.1.1 u h.starts (Core.passing p.1.2.1.regs)) s).placed)

/-- Whether a task that an unsatisfied `CWAIT` ends has come to rest: X and T stand at a boundary with nothing in flight, and no
dormant context runs or waits to start (R105). Their replay entries have begun to count when they stopped (`State.leaving`). -/
def Core.cwaitOver (k : Core) : Bool :=
  let still (f : Strand) : Bool := !f.draining && f.hold.isNone && f.posted.isEmpty
  k.halt.isNone && still k.a && still k.x && still k.t && k.starts.isEmpty && (k.dormants.all fun f => f.run != .running) &&
  k.task.any fun t => t.ending.any fun c => !c.written

/-- What the continuation holds of a strand: the address it stopped at, or how it stands (R105). -/
def savedPc (f : Strand) : SavedPc :=
  match f.run with
  | .ended => .ended
  | .idle => .idle
  | .waiting => .waiting
  | _ => .at f.pc

/-- The continuation of a core's task, filled in. -/
def Core.continuation (k : Core) (t : Task) (c : Continuation) : Continuation :=
  { c with
    a := .at k.a.pc, x := savedPc k.x, t := savedPc k.t, wid := t.wid, prio := t.prio, seed := k.ua.seed
    scalars := c.scalars.map fun p => (p.1, k.a.x[p.1])
    vectors := c.vectors.map fun p => (p.1, k.x.v[physV .x k.x p.1])
    written := true }

/-- The cluster that holds a continuation has it written; one released already becomes resumed work. -/
def Cluster.writeCont (cl : Cluster) (c : Continuation) : Cluster :=
  match cl.conts.find? fun d => d.waiter = c.waiter with
  | none => cl
  | some d =>
    if d.released then
      { cl with
        conts := cl.conts.filter fun e => e.waiter != c.waiter
        resumed := cl.resumed ++ [(c.launch, .continuation { c with released := true })] }
    else { cl with conts := cl.conts.map fun e => if e.waiter = c.waiter then c else e }

/-- R267: after an ending `CWAIT` no strand takes a report. Every frozen queue is cancelled, and the task's record says so. -/
def Core.cancelFrozen (k : Core) : Core :=
  if k.queue.toList.any (·.frozen) then
    let drop (k : Core) (q : Fin 8) : Core := if (k.queue[q]).frozen then k.cancelQueue q else k
    let quiet (f : Strand) : Strand := { f with reports := [] }
    let k := (List.finRange 8).foldl drop k
    { k with a := quiet k.a, x := quiet k.x, task := k.task.map fun (t : Task) => { t with status := 0x0C } }
  else k

/-- R105: the continuation is written, and X and T have ended their parts; the task then retires as for `TASKEND`. A poison that arrives
for a load in flight, or is still pending, is dropped with the strand (DESIGN CHOICE, log entry 122: the spec names no taker). -/
def execCwaitTaskEnd (s : State) : Answer :=
  let s := s.asController
  match ((List.range 8).find? fun n => (s.clusterCore n).cwaitOver) with
  | none => .fault .notEnabled
  | some n =>
    let k := s.clusterCore n
    match k.task with
    | none => .fault .notEnabled
    | some t =>
      match t.ending with
      | none => .fault .notEnabled
      | some c0 =>
        let c := k.continuation t c0
        let stop (f : Strand) : Strand := { f with run := if f.run = .running then .ended else f.run, nest := none, poisons := [], held := [] }
        let s := s.onClusterCore n fun k =>
          ({ k with x := stop k.x, t := stop k.t, task := some { t with ending := some c } } : Core).cancelFrozen
        let registered : Bool := s.clusters.any fun cl => cl.die = k.die && cl.number = Fin.ofNat 6 c.cluster && cl.conts.any fun d => d.waiter = c.waiter
        let s := if registered then s.addItem t else s
        .next (s.onCluster k.die (Fin.ofNat 6 c.cluster) fun cl => cl.writeCont c)

/-! ## Pre-emption (R269 to R274, R311, R312, R386) -/

/-- Tasks of priority 3 that are ready. -/
def State.readyTop (s : State) : Nat :=
  ((s.ctl.resumed.filter fun r => r.2.prio = 3 && s.sameOwner r.1).length) +
  (s.ctl.entries.filter fun e => e.prio = 3 && s.undispatched e).foldl (fun acc e =>
    acc + (match e.op with
      | .launch => e.total - e.next
      | _ => ((s.setOf e.set).map fun w => w.lists.foldl (fun a l => a + (l.tail - l.head)) 0).getD 0)) 0

/-- Saved images that name a core. -/
def State.imagesOf (s : State) (n : Nat) : Nat :=
  (s.ctl.resumed.filter fun r => match r.2 with
    | .image i _ => i.cores.any fun k => k.number.val = n
    | _ => false).length

/-- Whether a task can be a victim (R311, R386). -/
def State.victimOk (s : State) (p : Task × List Nat) : Bool :=
  p.1.prio < 3 && p.1.request.isNone && !p.1.cancelled && p.1.ending.isNone && p.2.all fun n => s.imagesOf n < 2

/-- The victim: the lowest priority, then the most recently started, then the lowest core. -/
def State.victim (s : State) : Option (Task × List Nat) :=
  (s.groups.filter s.victimOk).foldl (fun (acc : Option (Task × List Nat)) p => match acc with
    | none => some p
    | some b => if p.1.prio < b.1.prio || (p.1.prio = b.1.prio && b.1.startedAt < p.1.startedAt) then some p else acc) none

/-- A ready task of priority 3 without a request of its own finds no core, and there is a victim. -/
def State.requesting (s : State) : Option (Task × List Nat) :=
  let outstanding := (s.groups.filter fun p => p.1.request.isSome).length
  if outstanding < s.readyTop && (s.placeable 3).isNone then s.victim else none

/-- R311: requests the pre-emption of a victim. -/
def execPreemptRequest (s : State) : Answer :=
  let s := s.asController
  match s.requesting with
  | none => .fault .notEnabled
  | some (_, g) => .next (s.onTasks g fun t => { t with request := some s.cycle })

/-- A task to be stopped by force: its request has waited for its whole time (R312), or it is cancelled (R326). A debugger halt of one of its
cores ends first (R272). A victim whose A strand has reached `OVSWAP` or `TASKEND` while other parts of the task or its queues are not
over still escalates: the spec's boundary is read as the end of the task on its core (DESIGN CHOICE, log entry 146). -/
def State.escalating (s : State) : Option (Task × List Nat) :=
  s.groups.find? fun p => !p.1.forced && (p.2.all fun n => (s.clusterCore n).halt.isNone) && (p.1.cancelled || p.1.request.any fun c =>
    c + (if p.1.header.maxnode = 0 then 35000 else p.1.header.maxnode) ≤ s.cycle)

/-- R312, R326: the request becomes a forced one, and the strands and contexts of the task stop at their boundaries (`State.stops`); those of a
core that an unsatisfied `CWAIT` ends go on to their end (R269). -/
def execPreemptEscalate (s : State) : Answer :=
  let s := s.asController
  match s.escalating with
  | none => .fault .notEnabled
  | some (_, g) => .next (s.onTasks g fun t => { t with forced := true })

/-- Whether a core can be stopped now: its results in flight are captured or written, every access, add and held response of it is
performed, and the data of reserved queue entries have arrived (R188, R269, R272). -/
def State.stoppable (s : State) (k : Core) : Bool :=
  k.halt.isNone && (k.allContexts.all fun f => f.hold.isNone && f.posted.isEmpty && !f.flying) && (s.opsOf k).all FabricOp.cuttable &&
  k.loadsIn && k.task.any fun t => t.ending.isNone

/-- Whether an unsatisfied `CWAIT` has ended a core's part of the task: it is then freed without an image (R269). -/
def Core.endedByCwait (k : Core) : Bool := k.taskOver && k.task.any fun t => t.ending.isSome

/-- A group whose forced pre-emption can take place. -/
def State.stopping (s : State) : Option (Task × List Nat) :=
  s.groups.find? fun p => p.1.forced && (p.1.prio < 3 || p.1.cancelled) &&
    (p.2.all fun n => (s.clusterCore n).endedByCwait || s.stoppable (s.clusterCore n)) &&
    p.2.any fun n => s.stoppable (s.clusterCore n)

/-- The magic number and the version of a save image (R270). -/
def imageMagic : Nat := 0x4B534156
def imageVersion : Nat := 1

/-- The accumulator planes of 64 KiB that a header demands; acc counts bytes (R295). -/
def Header.planes (h : Header) : Nat := (h.acc + 65535) / 65536

/-- The sizes of the sections of a core's image, in their order (R270): header, registers, data queues, DLE state, engine queues,
replay, scratchpad and accumulators. -/
def Core.sections (k : Core) : List Nat :=
  let h (f : Task → Nat) : Nat := (k.task.map f).getD 0
  let commands := (k.queue.toList.map fun q => q.waiting.length + q.started.length).foldl (· + ·) 0
  let present := [k.a, k.x, k.t] ++ k.dormants.filter (·.run = .running)
  let wide := (present.map fun f => (f.replays.filter (·.eff.wide.isSome)).length + f.replayStore.length).foldl (· + ·) 0
  [4096, 86528, 8192, 66688, 160 * commands, 1536 * present.length + 2048 * wide, 262144 * k.ways, 65536 * h (·.header.planes)]

/-- A command as it is saved: one that waits has no phase done unless it holds its claims (R269, R273), and a started one that awaited what
is cut goes on from its cursor. -/
def Command.saved (cut : Nat → Bool) (c : Command) : Command :=
  if c.claimed then { c with paused := c.paused || cut c.seq, due := if cut c.seq then 0 else c.due } else { c with passed := none }

def Queue.saved (cut : Nat → Bool) (q : Queue) : Queue :=
  { q with waiting := q.waiting.map (Command.saved cut), started := q.started.map (Command.saved cut) }

/-- A core's state as its image holds it. -/
def Core.saved (k : Core) (cut : List FabricOp) : Core :=
  { k with
    cache := []
    queue := k.queue.map (Queue.saved fun n => cut.any fun o => o.network && o.seq = n)
    task := k.task.map fun u => { u with request := none, forced := false } }

/-- The operations of cores that are stopped: a collective among them has joined and stands for its command, which takes it up again where it
is `kept`; otherwise it goes with its joins (R269, R326, R443). -/
def Module.cutOps (m : Module) (cut : List FabricOp) (kept : Bool) : Module :=
  if kept then
    { m with ops := (m.ops.filter fun o => !cut.contains o || o.isColl).map fun o => if cut.contains o then { o with cut := true } else o }
  else
    { m with
      ops := m.ops.filter fun o => !cut.contains o
      joins := m.joins.filter fun j => !cut.any fun o => o.isColl && j.part = o.part && j.die = o.die.val && j.id = o.id && j.hash = o.hash }

/-- The base of the co-operative group of a task on a core: its member tells how far the core lies above it (R304, R309). -/
def Task.base (t : Task) (n : Nat) : Nat := n - t.member

/-- R269: the task's cores have stopped; their state is saved as the task's image, apart from those that an unsatisfied `CWAIT` has
ended, and they are free. The image of a cancelled task is discarded (R326). -/
def execForcedPreempt (s : State) : Answer :=
  let s := s.asController
  match s.stopping with
  | none => .fault .notEnabled
  | some (t, g) =>
    let clear (u : Task) : Task := { u with request := none, forced := false }
    let ended := g.filter fun n => (s.clusterCore n).endedByCwait
    let rest := g.filter fun n => !(s.clusterCore n).endedByCwait
    let saved : List Core := rest.map fun n => (s.clusterCore n).saved (s.opsOf (s.clusterCore n))
    let img : SavedImage :=
      { part := (s.partOfCluster (6 * s.ctl.die.val + s.ctl.number.val)).getD 0
        magic := imageMagic, version := imageVersion, launch := t.launch, wid := t.wid, ways := t.header.ways, planes := t.header.planes
        sections := saved.map Core.sections, cores := saved, shared := sharedList s.ctl (t.base (g.headD 0)) }
    let cut := g.flatMap fun n => s.opsOf (s.clusterCore n)
    let s := { s with mod := s.mod.cutOps cut (!t.cancelled) }
    let s := rest.foldl (fun s n => s.onClusterCore n Core.stoppedTask) s
    let s := ended.foldl (fun s n => s.onClusterCore n Core.freed) s
    if t.cancelled then .next (s.endCancelled t)
    else
      let s := { s with ctl := { s.ctl with resumed := s.ctl.resumed ++ [(t.launch, Resumed.image img (clear t))] } }
      let s := if ended.isEmpty then s else s.endItem t ended false
      .next (s.onEntry t.launch fun e => { e with forced := e.forced + 1 })

/-- A saved core's state on another core: it keeps what belongs to the place. -/
def Core.restoredOn (saved here : Core) (now : Nat) (at_ : Nat) : Core :=
  { saved with
    die := here.die, cluster := here.cluster, number := here.number, halt := none, since := here.since
    task := saved.task.map fun (t : Task) => { t with readyAt := now + 1, startedAt := at_ }
    previous := saved.task.map (·.launch) }

/-- Whether an image may be restored by the focus cluster: its header has the magic number, the version and the partition (R274). -/
def State.imageOk (s : State) (img : SavedImage) : Bool :=
  img.magic = imageMagic && img.version = imageVersion && s.partOfCluster (6 * s.ctl.die.val + s.ctl.number.val) = some img.part

/-- The core among those found on which a saved core's state goes: the one of its member. -/
def Core.seat (k : Core) (cores : List Nat) : Nat := cores.getD (k.task.elim 0 (·.member)) (cores.headD 0)

/-- R274: restores a saved image onto free cores; a wrong header ends the task. -/
def execTaskRestore (s : State) : Answer :=
  let s := s.asController
  match s.placement with
  | some (i, .resumed l (Resumed.image img t), cores) =>
    let s := ({ s with ctl := { s.ctl with pointer := i + 1 } }).unresume l (Resumed.image img t)
    if !s.imageOk img then .next ((s.countTask l 0x15).endItem t cores true)
    else
      let at_ := s.ctl.starts
      let s := img.cores.foldl (fun s p => s.onClusterCore (p.seat cores) fun k => p.restoredOn k s.cycle at_) s
      let first := cores.headD 0
      let s := if 2 ≤ t.width then
          { s with ctl := { s.ctl with shared := (first, img.shared) :: s.ctl.shared.filter fun e => e.1 != first } } else s
      .next s.placed
  | _ => .fault .notEnabled

/-! ## Cancellation (R326) -/

/-- The waiters of launches leave their lists. -/
def State.dropWaiters (s : State) (ids : List Nat) : State :=
  let ws := (s.clusters.flatMap (·.conts)).filter fun c => ids.contains c.launch
  let mine (w : Waiter) : Bool := match w.who with
    | .continuation _ _ n => ws.any fun c => c.waiter = n
    | .controller _ _ => false
  { s with mod := { s.mod with waiters := s.mod.waiters.filter fun w => !mine w } }

/-- Resumed work and registered continuations of launches are dropped, on whichever cluster they stand. -/
def State.dropResumed (s : State) (ids : List Nat) : State :=
  let fix (c : Cluster) : Cluster :=
    { c with resumed := c.resumed.filter fun r => !ids.contains r.1, conts := c.conts.filter fun k => !ids.contains k.launch }
  { s with ctl := fix s.ctl, parkedCl := s.parkedCl.map fix }

/-- The running tasks of launches are to stop as by a forced pre-emption, their images discarded; each counts as cancelled once it has
stopped (R269, R326). -/
def State.stopTasks (s : State) (ids : List Nat) : State :=
  let mark (t : Task) : Task := if ids.contains t.launch then { t with cancelled := true } else t
  let fix (k : Core) : Core := { k with task := k.task.map mark }
  { s with core := fix s.core, parked := s.parked.map fix }

/-- Pieces of resumed work of a launch, and registered continuations that their tasks have written: before that, a continuation stands for no
task beside the running one. -/
def State.resumedTasks (s : State) (id : Nat) : Nat :=
  (s.clusters.flatMap fun c => (c.resumed.filter fun r => r.1 = id).map (·.1)).length +
  (s.clusters.flatMap fun c => (c.conts.filter fun k => k.launch = id && k.written).map (·.launch)).length

/-- The entry after its cancellation: nothing of it is dispatched any more, and what was dropped counts as cancelled. -/
def Entry.cancelled (e : Entry) (dropped : Nat) : Entry :=
  { e with cx := true, done := e.done + (e.total - e.next) + dropped, next := e.total, complete := true }

/-- Cancels entries of the focus cluster (R326). -/
def State.cancelEntries (s : State) (ids : List Nat) (hard : Bool) : State :=
  let lost (e : Entry) : Nat := s.resumedTasks e.serial
  let fixE (e : Entry) : Entry := if ids.contains e.serial then e.cancelled (lost e) else e
  let items (w : WorkSet) : Nat := ((s.ctl.entries.filter fun e => ids.contains e.serial && e.set = some w.va).map lost).foldl (· + ·) 0
  let sets := s.ctl.sets.map fun w => { w with inProgress := w.inProgress - items w }
  let s := { s with ctl := { s.ctl with entries := s.ctl.entries.map fixE, sets := sets } }
  let s := (s.dropWaiters ids).dropResumed ids
  if hard then s.stopTasks ids else s

/-- R326: cancels every entry with the tag; with HARD its running tasks are stopped too. -/
def execKcancel (s : State) : Answer :=
  s.ctlStep 9 fun s c => (s.cancelEntries (s.ctl.tagged (hw c.image 4)) (flagOf c.image 0)).ctlRetire c

end Sys2Proof.Machine
end

