-- ==== Sys2Proof/Machine/Madder.lean ====
section
/-! DEFINITION. The commands of engine 5 (R399, R409, R410, R413 to R427). -/

namespace Sys2Proof.Machine

/-! ## Fields of an image (R419) -/

def madHandle (img : Image) : Nat := hw32 img 4
def madArg0 (img : Image) : Nat := hw32 img 6
def madAddr (img : Image) : Nat := hwBits img 8 0 64
def madRes (img : Image) : Nat := hwBits img 12 0 22
def madWrites (img : Image) : Bool := hwBits img 13 15 1 = 1
def madArg1 (img : Image) : Nat := hw32 img 14

/-- The cycles a command takes after its accesses; the spec gives no durations but that of a registration (R399). -/
def madCycles : Nat := 64

/-- Scratchpad range of the result. -/
def madResBytes (img : Image) : Nat := if opOf img = 0x0B then 64 else 8

/-- A fault with the handle where R268 gives it. -/
def madFault (img : Image) (f : EngineFault) : EngineFault :=
  if f.code = 0x22 || f.code = 0x23 || f.code = 0x25 then { f with addr := BitVec.ofNat 64 (madHandle img) } else f

/-- Writes the result and completes. -/
def State.madDone (s : State) (c : Command) (r : List Byte) (dur : Nat) : State × Command × Progress :=
  if madWrites c.image then
    match s.engWrite (madRes c.image) r with
    | .error f => (s, c, .fault f)
    | .ok t => (t, c, .done dur)
  else (s, c, .done dur)

/-- The result's place is checked before the command changes anything. -/
def State.madPlace (s : State) (c : Command) : Option EngineFault :=
  if madWrites c.image && 262144 * s.core.ways < madRes c.image + madResBytes c.image then some (mkFault 0x14 (madRes c.image))
  else none

/-- A command of one indivisible step. -/
def madOne (step : KvCtx → Image → KvM Nat) : Work := fun s c =>
  match s.madPlace c with
  | some f => (s, c, .fault f)
  | none =>
    match s.runKv (step s.kvCtx c.image) with
    | .error (f, t) => (t, c, .fault (madFault c.image f))
    | .ok (r, t) => t.madDone c (bytesOfNat 8 r) madCycles

/-- Steps one after another: the state, the index reached, and the fault that cut them. -/
def State.kvEach (s : State) (step : Nat → KvM Nat) : Nat → Nat → Nat → State × Nat × Nat × Option EngineFault
  | 0, i, n => (s, i, n, none)
  | fuel + 1, i, n =>
    match s.runKv (step i) with
    | .error (f, t) => (t, i, n, some f)
    | .ok (k, t) => t.kvEach step fuel (i + 1) (n + k)

/-- A command of one step for each index from its cursor to hi; the cursor keeps the index and the count. -/
def State.madRange (s : State) (c : Command) (hi : Nat) (step : Nat → KvM Nat) : Except (State × Command × EngineFault) (State × Command) :=
  let (s, i, n, f) := s.kvEach step (hi - c.cursor.entry) c.cursor.entry c.cursor.block
  let c := { c with cursor := { c.cursor with entry := i, block := n } }
  match f with
  | some f => .error (s, c, madFault c.image f)
  | none => .ok (s, c)

/-! ## Sequences -/

/-- The lowest descriptor index with LIVE = 0 that may be used (R420, R422), by fuel on the indices. -/
def kvFreeIndex (c : KvCtx) (p : Pool) : Nat → Nat → KvM (Option Nat)
  | 0, _ => return none
  | fuel + 1, i => do
    let st ← kvNat c (p.seqbase + 256 * i + 36) 4
    if st % 2 = 0 && !(p.freed.any fun q => q.1 = i && c.walking q.2) then return some i else kvFreeIndex c p fuel (i + 1)

/-- Writes a descriptor at the lowest free index and answers its handle. -/
def kvNewSeq (c : KvCtx) (q : Seq) : KvM Nat := do
  let p ← kvPool c
  match ← kvFreeIndex c p p.nseq 0 with
  | none => kvFail (mkFault 0x25 0)
  | some i =>
    let h := c.part.val * 2 ^ 28 + i
    kvPutSeq c h { q with live := true }
    kvOnPool c fun p => { p with freed := p.freed.filter fun f => f.1 != i }
    return h

/-- Entries of a block table. -/
def Seq.entries (q : Seq) : Nat := q.layers * q.heads * q.pages

/-- R420: the table is zeroed entry by entry, then the descriptor is written in one step. With no free index the cursor is at the
start (R427). -/
def kvNewWork : Work := fun s c =>
  let a := madAddr c.image
  match s.madPlace c with
  | some f => (s, c, .fault f)
  | none =>
    -- a resumed command goes on with the image that it read
    let image : Except EngineFault (List Byte × State) := match c.records with
      | bs :: _ => .ok (bs, s)
      | [] =>
        match s.runKv (do
          let _ ← kvPool s.kvCtx
          kvRead s.kvCtx a 256) with
        | .error (f, _) => .error f
        | .ok r => .ok r
    match image with
    | .error f => (s, c, .fault f)
    | .ok (bs, s) =>
      if !seqImageOk bs then (s, c, .fault (mkFault 0x15 a))
      else
        let q := { parseSeq bs with len := 0, tent := 0 }
        let c := { c with records := [bs] }
        match s.madRange c q.entries fun i => do
            kvWrite s.kvCtx (q.btbase + 8 * i) (List.replicate 8 0)
            return 0 with
        | .error (s, c, f) => (s, c, .fault f)
        | .ok (s, c) =>
          match s.runKv (kvNewSeq s.kvCtx q) with
          | .error (f, t) => (t, { c with cursor := { c.cursor with entry := 0, block := 0 } }, .fault (madFault c.image f))
          | .ok (h, t) => t.madDone c (bytesOfNat 8 h) madCycles

/-- The 64 KiB pages of a region are FLAT pages of the partition at places that a test allows; `unmapped` says what a page without a
translation counts as (R398). -/
def regionOk (m : Module) (die : Fin 24) (n : Fin 16) (va len : Nat) (unmapped : Bool) (ok : Nat → Bool) : Bool :=
  len = 0 || (List.range ((va + len - 1) / 65536 - va / 65536 + 1)).all fun j =>
    match leafOf m die none n (va / 65536 * 65536 + 65536 * j) with
    | .error _ => unmapped
    | .ok (_, e) => bitsOf e 6 2 = 0 && ok (bitsOf e 8 39 * 2 ^ 8)

/-- Whether an address lies in a COUNTER page of the partition (R397). -/
def onCounterPage (m : Module) (die : Fin 24) (n : Fin 16) (va : Nat) : Bool :=
  match leafOf m die none n va with
  | .error _ => false
  | .ok (_, e) => bitsOf e 6 2 = 2

/-- R397 and R398 on what a pool record names: the ready counter, and FLAT regions, HBM frames in HBM and CXL frames in the pool share.
The record array's untranslated pages are left to its writes, which fault at their id (R399). -/
def poolRegionsOk (m : Module) (die : Fin 24) (n : Fin 16) (p : Pool) : Bool :=
  onCounterPage m die n p.rkpool &&
  regionOk m die n p.seqbase (256 * p.nseq) false (fun _ => true) && regionOk m die n p.recbase (1024 * p.nrec) true (fun _ => true) &&
  regionOk m die n p.hbase (18432 * p.nhbm) false (· < statusBase) && regionOk m die n p.cbase (18432 * p.ncxl) false (cxlBase ≤ ·)

/-- R399: reads and checks the pool record and zeroes the page records; the pool is registered when the command retires. -/
def kvNewPoolWork : Work := fun s c =>
  let a := madAddr c.image
  match s.madPlace c with
  | some f => (s, c, .fault f)
  | none =>
    let image : Except EngineFault (List Byte × State) := match c.records with
      | bs :: _ => .ok (bs, s)
      | [] => match s.runKv (kvRead s.kvCtx a 256) with
        | .error (f, _) => .error f
        | .ok r => .ok r
    match image with
    | .error f => (s, c, .fault f)
    | .ok (bs, s) =>
      let p : Pool := { (default : Pool) with va := a, record := bs }
      if s.mod.parts[s.partNo].pool.isSome || !poolRecordOk bs || !poolRegionsOk s.mod s.die s.partNo p then
        (s, c, .fault (mkFault 0x15 a))
      else
        match s.madRange { c with records := [bs] } p.nrec fun i => do
            kvWrite s.kvCtx (p.recAt i) (List.replicate 1024 0)
            return 0 with
        | .error (s, c, f) => (s, c, .fault f)
        | .ok (s, c) => s.madDone c (bytesOfNat 8 0) (madCycles + 64 * p.nrec)

/-- R421. -/
def kvForkStep (c : KvCtx) (img : Image) : KvM Nat := do
  let h := madHandle img
  let q ← kvSeq c h
  let l := madArg0 img
  let p ← kvPool c
  if q.len < l then kvFail (mkFault 0x15 (p.seqbase + 256 * (h % 2 ^ 28)))
  else
    let m := (l + 63) / 64
    let es ← q.lanes.mapM fun lh => (List.range (min m q.pages)).mapM fun i => kvNat c (q.entryAt lh.1 lh.2 i) 8
    let ids := (es.flatMap id).flatMap q.idsOf
    let gs ← ids.mapM fun r => kvPage c r
    if gs.any fun g => g.refcount = 65535 then kvFail (mkFault 0x24 h)
    else
      let n := { q with btbase := madAddr img, len := l, tent := 0 }
      let new ← kvNewSeq c n
      (q.lanes.zip es).forM fun x => (List.range q.pages).forM fun i =>
        kvWrite c (n.entryAt x.1.1 x.1.2 i) (bytesOfNat 8 (x.2.getD i 0))
      ids.forM fun r => do
        let g ← kvPage c r
        kvPutPage c r { g with refcount := g.refcount + 1 }
      return new

/-- R422. -/
def kvFreeStep (c : KvCtx) (img : Image) : KvM Nat := do
  let h := madHandle img
  let q ← kvSeq c h
  kvReleaseWhere c q fun _ => true
  kvPutSeq c h { q with live := false }
  if c.walking c.now then kvOnPool c fun p => { p with freed := p.freed ++ [(h % 2 ^ 28, c.now)] }
  return 0

/-- R410, R422. -/
def kvTruncStep (c : KvCtx) (img : Image) : KvM Nat := do
  let h := madHandle img
  let q ← kvSeq c h
  let q := { q with tent := 0 }
  kvPutSeq c h q
  kvSettle c q
  return q.len

/-- R410, R422. -/
def kvCommitStep (c : KvCtx) (img : Image) : KvM Nat := do
  let h := madHandle img
  let q ← kvSeq c h
  let n := madArg0 img
  if q.tent < n then kvFail (mkFault 0x15 ((← kvPool c).seqbase + 256 * (h % 2 ^ 28)))
  else
    let q := { q with len := q.len + n, tent := 0 }
    kvPutSeq c h q
    kvSettle c q
    return q.len

/-- Every entry of a sequence that names records, with its layer, head and page index. -/
def kvEntries (c : KvCtx) (q : Seq) (is : List Nat) : KvM (List ((Nat × Nat × Nat) × Nat)) :=
  q.lanes.foldlM (fun acc lh => is.foldlM (fun acc i => do
    let e ← kvNat c (q.entryAt lh.1 lh.2 i) 8
    return if e = 0 then acc else acc ++ [((lh.1, lh.2, i), e)]) acc) []

/-- R422: the class of a sequence and of its records. -/
def kvClassStep (c : KvCtx) (img : Image) : KvM Nat := do
  let h := madHandle img
  let q ← kvSeq c h
  let cls := madArg0 img % 8
  kvPutSeq c h { q with cls := cls }
  (← kvEntries c q (List.range q.pages)).forM fun e => (q.idsOf e.2).forM fun r => do
    let g ← kvPage c r
    kvPutPage c r { g with cls := if g.refcount ≤ 1 then cls else min g.cls cls }
  return 0

/-! ## Ranges -/

/-- The page indices of a range op (R419). -/
def madLo (img : Image) : Nat := madArg0 img
def madHi (img : Image) (q : Seq) : Nat :=
  min q.pages (if madArg1 img = 0 then (q.end_ + 63) / 64 else madArg0 img + madArg1 img)

/-- The command at its first index. -/
def Command.enter (c : Command) (lo : Nat) : Command :=
  if c.aux = 0 then { c with cursor := { c.cursor with entry := lo, block := 0 }, aux := 1 } else c

/-- The records of one page index of every layer and head. -/
def kvIndexRecords (c : KvCtx) (q : Seq) (i : Nat) : KvM (List ((Nat × Nat × Nat) × Nat × Page)) := do
  let es ← kvEntries c q [i]
  es.foldlM (fun acc e => (q.idsOf e.2).foldlM (fun acc r => do return acc ++ [(e.1, r, ← kvPage c r)]) acc) []

/-- A page record ready for its move: its id, and the frame and slot that it moves to. -/
structure MovePlan where
  id : Nat
  frame : Nat
  slot : Nat

/-- The cycles a move from CXL takes. -/
def moveCycles : Nat := 64

/-- The layer, head and page index of a fault's extra2 (R266). -/
def pagePlace (x : Nat × Nat × Nat) : Word := BitVec.ofNat 64 (x.2.2 + x.1 * 2 ^ 32 + x.2.1 * 2 ^ 48)

/-- The faults of a page index that is to be promoted: an entry 0 or a LENT_OUT record is `KV_PROT` (R427), a record that names no page is
invalid, and a CXL frame must be readable. A malformed stream is met by the move (R357). -/
def kvPromoteCheck (c : KvCtx) (q : Seq) (i : Nat) : KvM Unit := do
  q.lanes.forM fun lh => do
    if (← kvNat c (q.entryAt lh.1 lh.2 i) 8) = 0 then kvFail ⟨0x23, 0, 0, pagePlace (lh.1, lh.2, i)⟩ else return ()
  (← kvIndexRecords c q i).forM fun r =>
    match r.2.2.state with
    | 4 => kvFail ⟨0x23, 0, 0, pagePlace r.1⟩
    | 0 | 7 => do kvFail (mkFault 0x15 ((← kvPool c).recAt r.2.1))
    | 3 => do
      let x ← kvFetch c r.2.2 q.dh
      if !x.bad.isEmpty && x.malformed.isNone then kvFail (mkFault 0x30 ((← kvPool c).dataAt r.2.2)) else return ()
    | _ => return ()

/-- Starts the move of one record into its frame, or gives an ABSENT one an empty page (R423). The record is read again: a CXL page
that the step's own evictions have dropped is ABSENT. -/
def kvStartMove (c : KvCtx) (q : Seq) (ready target : Nat) (x : MovePlan) : KvM Unit := do
  let p ← kvPool c
  let old ← kvPage c x.id
  let placed : Page := { old with tier := 0, frame := x.frame, slot := x.slot }
  if old.state = 6 then
    kvPutPage c x.id { placed with valid := 0, swatch := emptySwatch q.dh, loose := false, state := 1 }
  else
    let remote := old.state = 5
    let port := p.portOf old.lmod old.frame
    kvPutPage c x.id { placed with state := 2, ready := ready, target := target, lmod := 0 }
    kvOnPool c fun pl => { pl with moves := pl.moves ++ [{
      record := x.id, tier := old.tier, frame := old.frame, slot := old.slot, module := old.lmod, port := port
      due := c.now + (if remote then 2 ^ 24 else moveCycles), data := none, buf := [], bad := [], own := false }] }
    if remote then (lendingData old.lmod 0 old.frame old.slot [] []).forM (kvSend c port) else return ()

/-- R423: one page index; the frames are had, and found writable, before anything is written. `ready` and `target` are the counter and
its goal. -/
def kvPromoteStep (c : KvCtx) (q : Seq) (keep : List Nat) (ready target i : Nat) : KvM Nat := do
  kvPromoteCheck c q i
  let go := (← kvIndexRecords c q i).filter fun r => r.2.2.state = 3 || r.2.2.state = 5 || r.2.2.state = 6
  let step (acc : List MovePlan × Taken) (r : (Nat × Nat × Nat) × Nat × Page) : KvM (List MovePlan × Taken) := do
    let (f, s, t) ← kvTakeFrame c keep acc.2 (slotsOf r.2.2.format q.dh)
    return (acc.1 ++ [⟨r.2.1, f, s⟩], t)
  let (ps, _) ← go.foldlM step ([], Taken.none)
  let p ← kvPool c
  let m ← get
  match ps.findSome? fun x => rangeRefused m c accWrite (p.frameAt x.frame + 4608 * x.slot) 4608 with
  | some f => kvFull (mkFault f.1 f.2)
  | none =>
    ps.forM (kvStartMove c q ready target)
    return ps.length

/-- The records of a range of page indices, with their index; those of an entry that cannot be read are left out. -/
def State.rangeRecords (s : State) (q : Seq) (lo hi : Nat) : List (Nat × Nat) :=
  ((List.range (hi - lo)).map (lo + ·)).flatMap fun i =>
    match s.runKv (kvEntries s.kvCtx q [i]) with
    | .ok (es, _) => es.flatMap fun e => (q.idsOf e.2).map fun r => (r, i)
    | .error _ => []

/-- The completion of a promotion: `STREAM_MALFORMED` when a move of its range met a malformed stream (R357). -/
def State.promoted (s : State) (c : Command) : State × Command :=
  match s.mod.parts[s.partNo].pool with
  | none => (s, c)
  | some p =>
    let mine (x : Nat × Nat) : Bool := c.places.any fun r => r.1 = x.1
    let s := { s with mod := { s.mod with parts := s.mod.parts.set s.partNo { s.mod.parts[s.partNo] with
      pool := some { p with malformed := p.malformed.filter fun x => !mine x } } } }
    match p.malformed.find? mine with
    | none => (s, c)
    | some x => (s, { c with status := 0x29, statusAt := x.2 })

/-- R423, R413: starts the moves of its range; when they have ended it adds 1 to the ready counter, as a release. -/
def kvPromoteWork : Work := fun s c =>
  match s.madPlace c with
  | some f => (s, c, .fault f)
  | none =>
    match s.runKv (kvSeq s.kvCtx (madHandle c.image)) with
    | .error (f, _) => (s, c, .fault (madFault c.image f))
    | .ok (q, s) =>
      let ready := if madAddr c.image = 0 then (s.mod.parts[s.partNo].pool.map Pool.rkpool).getD 0 else madAddr c.image
      let finish (s : State) (c : Command) : State × Command × Progress :=
        match s.addMemAt (BitVec.ofNat 64 ready) 1 with
        | .error e => (s, c, .fault (mkFault e ready))
        | .ok s =>
          let (s, c) := s.promoted c
          s.madDone c (bytesOfNat 8 c.cursor.block) madCycles
      -- the counter is read once, at the start
      let first : Except EngineFault (State × Command) :=
        if c.aux != 0 then .ok (s, c)
        else match s.engPlace accCounterRead ready 8 with
          | .error f => .error f
          | .ok pl =>
            if poisonedIn s.mod.poison pl.pa 8 then .error (mkFault 0x30 ready)
            else .ok (s.note (BitVec.ofNat 64 ready) pl true, { c.enter (madLo c.image) with
              cursor := { c.cursor with entry := madLo c.image, block := 0, k := s.mod.mem.nat pl.pa 8 } })
      match first with
      | .error f => (s, c, .fault f)
      | .ok (s, c) =>
        let hi := madHi c.image q
        let c := { c with places := s.rangeRecords q (madLo c.image) hi }
        match s.madRange c hi (kvPromoteStep s.kvCtx q (c.places.map (·.1)) ready (c.cursor.k + 1)) with
        | .error (s, c, f) => (s, c, .fault f)
        | .ok (s, c) => if s.madWaiting c then (s, c, .pause) else finish s c

/-- R424: what an action does to a record: the format after, and whether it stays in HBM; none where it is skipped. -/
def demoteFormat (action : Nat) (g : Page) : Option (Nat × Bool) :=
  match action with
  | 0 => some (g.format, false)
  | 1 => some (if g.format = 0 then 1 else g.format, false)
  | 2 => some (3, false)
  | 3 => some (g.format, false)
  | 4 => if g.format = 2 then none else some (2, true)
  | 5 => if g.format = 1 then none else some (1, true)
  | _ => if g.format = 3 then none else some (3, true)

/-- R424: one page index. -/
def kvDemoteStep (c : KvCtx) (q : Seq) (action i : Nat) : KvM Nat := do
  let p ← kvPool c
  let rs := ((← kvIndexRecords c q i).filter fun r => r.2.2.state = 1 && 1 ≤ r.2.2.cls).filterMap fun r =>
    (demoteFormat action r.2.2).map fun f => (r.2.1, r.2.2, f.1, f.2)
  if action = 3 then
    rs.forM fun r => kvPutPage c r.1 r.2.1.drop
    return rs.length
  else
    let step (acc : List (Nat × Page × List Byte) × List Slots) (r : Nat × Page × Nat × Bool) :
        KvM (List (Nat × Page × List Byte) × List Slots) := do
      let data ← if r.2.2.1 = r.2.1.format then kvData c r.2.1 q.dh else kvDecoded c r.2.1 q.dh
      let (h, bs, _) := requantise r.2.1 q.dh data r.2.2.1
      let k := slotsOf r.2.2.1 q.dh
      if r.2.2.2 then return (acc.1 ++ [(r.1, h, bs)], acc.2)
      else
        match ← kvCxlSlots c acc.2 k (p.nrec + 1) with
        | none => kvFull (mkFault 0x25 0)
        | some (f, s) =>
          return (acc.1 ++ [(r.1, { h with state := 3, tier := 1, frame := f, slot := s }, bs)], (f, s, k) :: acc.2)
    let (ws, _) ← rs.foldlM step ([], [])
    ws.forM fun w => do
      if w.2.1.tier = 1 then kvPlaceCxl c w.2.1.frame w.2.1.slot (slotRoom w.2.1.format q.dh) w.2.2 []
      else kvWrite c (p.dataAt w.2.1) w.2.2
      kvPutPage c w.1 w.2.1
    return ws.length

/-- R405, R426: the swatch of a record from its valid positions. -/
def kvSwrefStep (c : KvCtx) (q : Seq) (i : Nat) : KvM Nat := do
  let rs := (← kvIndexRecords c q i).filter fun r => r.2.2.state = 1 || r.2.2.state = 3 || r.2.2.state = 5
  rs.forM fun r => do
    let g := r.2.2
    let data ← kvDecoded c g q.dh
    kvPutPage c r.2.1 { g with
      swatch := mergeSwatch { g with swatch := emptySwatch q.dh } q.dh (validValues g q.dh data), loose := false }
  return rs.length

/-- A range command on a sequence: one step for each page index, and the count as its result. -/
def madOverRange (step : KvCtx → Seq → Image → Nat → KvM Nat) : Work := fun s c =>
  match s.madPlace c with
  | some f => (s, c, .fault f)
  | none =>
    match s.runKv (kvSeq s.kvCtx (madHandle c.image)) with
    | .error (f, _) => (s, c, .fault (madFault c.image f))
    | .ok (q, s) =>
      match s.madRange (c.enter (madLo c.image)) (madHi c.image q) (step s.kvCtx q c.image) with
      | .error (s, c, f) => (s, c, .fault f)
      | .ok (s, c) => s.madDone c (bytesOfNat 8 c.cursor.block) madCycles

/-! ## Statistics (R426) -/

def kvStatStep (c : KvCtx) (img : Image) : KvM (List Byte) := do
  let word (a : Nat) : List Byte := bytesOfNat 8 a
  if madHandle img = 0 then
    let p ← kvPool c
    let rs ← kvRecords c
    let n (st : Nat) : Nat := (rs.filter fun r => r.2.state = st).length
    let used ← kvUsed c []
    let hbmUsed := (used.filter fun u => u.1 < p.nhbm).foldl (fun a u => a + u.2.2) 0
    let cxlUsed := (List.range p.ncxl).filter fun f => used.any fun u => u.1 = p.nhbm + f
    let inUse := p.borrowed.filter fun l => rs.any fun r => r.2.state = 5 && r.2.lmod = l.module && r.2.frame = l.frame
    return word (n 1) ++ word (n 2) ++ word (n 6) ++ word (4 * p.nhbm - hbmUsed) ++ word (p.ncxl - cxlUsed.length) ++
      word p.pending.length ++ word p.lent.length ++ word (p.borrowed.length + inUse.length * 2 ^ 32)
  else
    let q ← kvSeq c (madHandle img)
    let es ← kvEntries c q (List.range q.pages)
    let gs ← (es.flatMap fun e => q.idsOf e.2).mapM fun r => kvPage c r
    let n (t : Page → Bool) : Nat := (gs.filter t).length
    return word q.len ++ word q.tent ++ word gs.length ++ word (n fun g => g.state = 6) ++
      word (n fun g => g.state = 3 || g.state = 5) ++ word (n fun g => 1 < g.refcount) ++ word 0 ++ word 0

def kvStatWork : Work := fun s c =>
  match s.madPlace c with
  | some f => (s, c, .fault f)
  | none =>
    match s.runKv (kvStatStep s.kvCtx c.image) with
    | .error (f, t) => (t, c, .fault (madFault c.image f))
    | .ok (bs, t) => t.madDone c bs madCycles

end Sys2Proof.Machine
end

