-- ==== Sys2Proof/Machine/MadderMove.lean ====
section
/-! DEFINITION. Export and import, lending and recall, the moves of the Madder store, and the meanings of engine 5 (R409, R413 to
R417, R423, R425, R450). -/

namespace Sys2Proof.Machine

/-! ## Export (R417, R425) -/

/-- The bytes of a page's slots: as stored in HBM, and the page's data, filled with zeros, of another tier. -/
def kvSlotBytes (c : KvCtx) (p : Page) (dh : Nat) : KvM (List Byte) := do
  let n := slotRoom p.format dh
  if p.tier = 0 then kvRead c ((← kvPool c).dataAt p) n else return padTo n (← kvData c p dh)

/-- The record image of an exported page, its positions at or beyond L cleared. -/
def exportImage (p : Page) (l i : Nat) : List Byte :=
  pageBytes { p with
    valid := p.valid % 2 ^ (min 64 (l - 64 * i)), refcount := 1, state := 1, tier := 0, age := 0, ready := 0, target := 0
    frame := 0, slot := 0, lmod := 0 }

/-- One page index of the page area. A page that is not there faults as a dropped one. -/
def kvExportStep (c : KvCtx) (q : Seq) (l base off i : Nat) : KvM (List Byte) := do
  let part (lh : Nat × Nat) : KvM (List Byte) := do
    let at_ : Word := BitVec.ofNat 64 (i + lh.1 * 2 ^ 32 + lh.2 * 2 ^ 48)
    let e ← kvNat c (q.entryAt lh.1 lh.2 i) 8
    if e = 0 then kvFail ⟨0x22, 0, 0, at_⟩
    else (q.idsOf e).foldlM (fun acc r => do
      let g ← kvPage c r
      let p ← kvPool c
      match stateFault g lh.1 lh.2 i with
      | some f => kvFail (if f.code = 0x15 then mkFault 0x15 (p.recAt r) else f)
      | none => return acc ++ exportImage g l i ++ (← kvSlotBytes c g q.dh)) []
  let bs ← q.lanes.foldlM (fun acc lh => do return acc ++ (← part lh)) []
  kvWrite c (base + 8192 + off) bs
  return bs

/-- Bytes that the page area needs. -/
def kvExportSize (c : KvCtx) (q : Seq) (l : Nat) : KvM Nat := do
  let es ← kvEntries c q (List.range (min q.pages ((l + 63) / 64)))
  es.foldlM (fun n e => (q.idsOf e.2).foldlM (fun n r => do
    return n + 1024 + 4608 * slotsOf (← kvPage c r).format q.dh) n) 0

/-- geom of a mordant record. -/
def geomOf (q : Seq) : Nat := q.layers + (q.heads - 1) * 2 ^ 16 + q.dsel * 2 ^ 24 + q.w * 2 ^ 32

/-- Page records of a page area. -/
def areaPages (q : Seq) (l : Nat) : Nat := (l + 63) / 64 * q.layers * q.heads * 2 * q.halves

/-- Bytes 0 to 2,847 of a mordant record: the part that is signed. -/
def mordantBody (binding : List Byte) (q : Seq) (l : Nat) (area signer : List Byte) : List Byte :=
  bytesOfNat 8 (0x4B564D52 + 2 ^ 32) ++ bytesOfNat 8 l ++ bytesOfNat 8 (geomOf q) ++ bytesOfNat 8 (areaPages q l) ++
  padTo 32 binding ++ padTo 64 (binding.drop 32) ++ padTo 16 (binding.drop 96) ++ sha3 area ++ List.replicate 48 (0 : Byte) ++
  padTo 2592 signer

/-- The seed of a partition's attestation key (R387). -/
def Partition.attestSeed (p : Partition) : List Byte :=
  match p.attestKey with
  | some n => bytesOfNat 64 (Config.drbg n).toNat
  | none => []

def kvExportWork : Work := fun s c =>
  let l := madArg0 c.image
  let base := madAddr c.image
  let part := s.mod.parts[s.partNo]
  if part.binding.isEmpty then (s, c, .fault (mkFault 0x26 base))
  else match s.madPlace c with
  | some f => (s, c, .fault f)
  | none =>
    match s.runKv (kvSeq s.kvCtx (madHandle c.image)) with
    | .error (f, _) => (s, c, .fault (madFault c.image f))
    | .ok (q, s) =>
      if q.len < l then (s, c, .fault (mkFault 0x15 base))
      else
        let size : Except EngineFault (Nat × State) := if c.aux != 0 then .ok (0, s) else match s.runKv (kvExportSize s.kvCtx q l) with
          | .error (f, _) => .error f
          | .ok r => .ok r
        match size with
        | .error f => (s, c, .fault f)
        | .ok (n, s) =>
          if c.aux = 0 && 1024 * madArg1 c.image < 8192 + n then (s, c, .fault (mkFault 0x15 base))
          else
            let c := c.enter 0
            -- the bytes of each page index are kept for the hash
            let rec go : Nat → State → Command → State × Command × Option EngineFault
              | 0, s, c => (s, c, none)
              | fuel + 1, s, c =>
                match s.runKv (kvExportStep s.kvCtx q l base c.cursor.block c.cursor.entry) with
                | .error (f, t) => (t, c, some (madFault c.image f))
                | .ok (bs, t) => go fuel t { c with
                    records := c.records ++ [bs]
                    cursor := { c.cursor with entry := c.cursor.entry + 1, block := c.cursor.block + bs.length } }
            match go ((l + 63) / 64 - c.cursor.entry) s c with
            | (s, c, some f) => (s, c, .fault f)
            | (s, c, none) =>
              let body := mordantBody part.binding q l (c.records.flatMap id) (Config.publicKey part.attestSeed)
              let rec_ := padTo 8192 (body ++ padTo 4627 (Config.sign part.attestSeed body))
              match s.runKv (kvWrite s.kvCtx base rec_) with
              | .error (f, t) => (t, c, .fault f)
              | .ok (_, t) => t.madDone c (bytesOfNat 8 (8192 + c.cursor.block)) madCycles

/-! ## Import (R425) -/

/-- Channels of a page by the geom field of a mordant record (R403, R425). -/
def geomDh (geom : Nat) : Nat := if bitsOf geom 24 8 = 0 then 64 else 128

/-- The pages of a page area: each record image with its data, by fuel on their number. -/
def kvAreaPages (c : KvCtx) (dh : Nat) : Nat → Nat → KvM (List (Page × List Byte × List Byte))
  | 0, _ => return []
  | fuel + 1, at_ => do
    let img ← kvRead c at_ 1024
    let g := parsePage img
    let n := 4608 * slotsOf g.format dh
    let data ← kvRead c (at_ + 1024) n
    return (g, img, data) :: (← kvAreaPages c dh fuel (at_ + 1024 + n))

/-- Whether a record image has a format of R403 and zero reserved fields. -/
def imageFieldsOk (g : Page) (img : List Byte) : Bool := g.format ≤ 3 && g.state < 7 && pageBytes g = img

/-- Steps 1 to 4 of the verification of R425: those on the mordant record alone. -/
def mordantSigned (binding rec_ : List Byte) : Bool :=
  let signer := (rec_.drop 256).take 2592
  let digests := (List.range 8).map fun j => padTo 64 (binding.drop (112 + 64 * j))
  bytesAt rec_ 0 8 = 0x4B564D52 + 2 ^ 32 &&
  Config.verify signer (rec_.take 2848) ((rec_.drop 2848).take 4627) &&
  (digests.filter fun d => d.any (· != 0)).contains (sha3 signer) &&
  (rec_.drop 32).take 112 = padTo 112 binding

/-- Steps 5 to 7: those on the page area and the descriptor image. -/
def mordantArea (rec_ area : List Byte) (q : Seq) (ps : List (Page × List Byte × List Byte)) : Bool :=
  let l := bytesAt rec_ 8 8
  (rec_.drop 144).take 64 = sha3 area &&
  bytesAt rec_ 24 8 = areaPages q l && bytesAt rec_ 16 8 = geomOf q && l ≤ 64 * q.pages &&
  ps.all fun p => imageFieldsOk p.1 p.2.1

/-- R425: verifies the buffer, then has every record and frame, then writes the sequence. -/
def kvImportStep (binding : List Byte) (c : KvCtx) (img : Image) : KvM Nat := do
  let pool ← kvPool c
  let buf := madArg0 img + madArg1 img * 2 ^ 32
  let image ← kvRead c (madAddr img) 256
  if !seqImageOk image then kvFail (mkFault 0x15 (madAddr img))
  else
    let q := parseSeq image
    let rec_ ← kvRead c buf 8192
    if !mordantSigned binding rec_ then kvFail (mkFault 0x26 buf)
    else
    let l := bytesAt rec_ 8 8
    let ps ← kvAreaPages c (geomDh (bytesAt rec_ 16 8)) (bytesAt rec_ 24 8) (buf + 8192)
    let area := ps.flatMap fun p => p.2.1 ++ p.2.2
    if !mordantArea rec_ area q ps then kvFail (mkFault 0x26 buf)
    else
      let q := { q with len := l, tent := 0 }
      let per := 2 * q.halves
      -- one plan for each page index, layer and head, in the order of the page area
      let places := (List.range ((l + 63) / 64)).flatMap fun i => q.lanes.map fun lh => q.entryAt lh.1 lh.2 i
      let plan (acc : List Plan × Taken) (x : Nat × Nat) : KvM (List Plan × Taken) := do
        let page (j : Nat) : Page × List Byte × List Byte := ps.getD (per * x.2 + j) default
        let (p, t) ← kvPlanNew c q [] acc.2 x.1 (fun j => slotsOf (page j).1.format q.dh) fun j f s =>
          ({ (page j).1 with
              refcount := 1, state := 1, tier := 0, frame := f, slot := s, cls := q.cls, age := 0, ready := 0, target := 0, lmod := 0 },
            (page j).2.2, none)
        return (acc.1 ++ [p], t)
      let (plans, _) ← (places.zipIdx).foldlM plan ([], Taken.none)
      match ← kvFreeIndex c pool pool.nseq 0 with
      | none => kvFull (mkFault 0x25 0)
      | some _ =>
        (List.range q.entries).forM fun i => kvWrite c (q.btbase + 8 * i) (List.replicate 8 0)
        plans.forM fun p => kvApply c q p
        kvNewSeq c q

/-! ## Lending (R414, R415, R450) -/

/-- A lending control packet (log entry 12): 1 offers a frame, 2 accepts it, 3 returns it, 4 recalls it with a notice. -/
def lendingControl (dst what frame notice : Nat) : Packet :=
  ⟨dst, 0, 8, 0, 0, 0, padTo 48 (bytesOfNat 4 frame ++ bytesOfNat 1 0 ++ bytesOfNat 1 what ++ bytesOfNat 4 notice), []⟩

/-- Takes n whole frames, marks a record LENT_OUT for each, and offers them to the module beyond a port. -/
def kvLendStep (c : KvCtx) (port dst n : Nat) : KvM (List Nat) := do
  let step (acc : List (Nat × Nat) × Taken) (_ : Nat) : KvM (List (Nat × Nat) × Taken) := do
    let (r, t) ← kvTakeIds c acc.2 1
    let (f, _, t) ← kvTakeFrame c [] t 4
    return (acc.1 ++ [(r, f)], t)
  let (rs, _) ← (List.range n).foldlM step ([], Taken.none)
  rs.forM fun r => do
    kvPutPage c r.1 { (default : Page) with
      state := 4, frame := r.2, lmod := dst, scales := List.replicate 256 0, swatch := List.replicate 512 0 }
    kvOnPool c fun p => { p with lent := p.lent ++ [⟨r.2, [], [], dst, port, false, none, 0⟩] }
    kvSend c port (lendingControl dst 1 r.2 0)
  return rs.map (·.2)

/-- The cause at the start of a lending command: no job, no module of the job beyond the port, or no lane group of the port that is up
(R414, R429, R451). -/
def State.lendFault (s : State) (port : Fin 6) : Option EngineFault :=
  let p := s.mod.parts[s.partNo]
  if p.pool.isNone then some (mkFault 0x20 0)
  else if p.jobId = 0 then some (mkFault 0x41 0)
  else if (p.beyond port).isNone || (lanesUp s.mod p port).isEmpty then some (mkFault 0x15 port.val)
  else none

/-- R414: lends frames; it waits for the borrower's answers. -/
def kvLendWork : Work := fun s c =>
  let port : Fin 6 := Fin.ofNat 6 (madArg0 c.image)
  let p := s.mod.parts[s.partNo]
  match s.madPlace c with
  | some f => (s, c, .fault f)
  | none =>
    if c.aux = 0 then
      match State.lendFault s port with
      | some f => (s, c, .fault f)
      | none =>
        match s.runKv (kvLendStep s.kvCtx port.val (p.neighbour port) (madArg1 c.image)) with
        | .error (f, t) => (t, c, .fault (madFault c.image f))
        | .ok (fs, t) =>
          let c := { c with aux := 1, places := fs.map fun f => (f, 0) }
          if t.madWaiting c then (t, c, .pause) else t.madDone c (bytesOfNat 8 fs.length) madCycles
    else
      let kept := c.places.filter fun r => (p.pool.map fun q => q.lent.any fun l => l.frame = r.1).getD false
      -- every lane group of the port went down before the answers came (R450)
      if kept.isEmpty && !c.places.isEmpty && (lanesUp s.mod p port).isEmpty then
        let tag := (List.range 4).any fun g => s.mod.lanes[(Fin.ofNat 24 (4 * port.val + g) : Fin 24)].tagFailed
        (s, { c with aux := 0, places := [] }, .fault (mkFault (if tag then 0x41 else 0x40) 0))
      else s.madDone c (bytesOfNat 8 kept.length) madCycles

/-- R415: recalls the frames lent last over a port; it retires once they have returned. -/
def kvRecallWork : Work := fun s c =>
  let port : Fin 6 := Fin.ofNat 6 (madArg0 c.image)
  let p := s.mod.parts[s.partNo]
  match s.madPlace c with
  | some f => (s, c, .fault f)
  | none =>
    if c.aux = 0 then
      match State.lendFault s port with
      | some f => (s, c, .fault f)
      | none =>
        let dst := p.neighbour port
        let mine := ((p.pool.map (·.lent)).getD []).filter fun l => l.port = port.val && l.recalled.isNone
        let fs := (mine.reverse.take (madArg1 c.image)).map (·.frame)
        let step : KvM Unit := do
          let mark (l : Loan) : Loan :=
            if fs.contains l.frame then { l with recalled := some s.cycle, notice := madHandle c.image } else l
          kvOnPool s.kvCtx fun q => { q with lent := q.lent.map mark }
          fs.forM fun f => kvSend s.kvCtx port.val (lendingControl dst 4 f (madHandle c.image))
        match s.runKv step with
        | .error (f, t) => (t, c, .fault f)
        | .ok (_, t) =>
          let c := { c with aux := 1, places := fs.map fun f => (f, 0) }
          if t.madWaiting c then (t, c, .pause) else t.madDone c (bytesOfNat 8 fs.length) madCycles
    else s.madDone c (bytesOfNat 8 c.places.length) madCycles

/-! ## Moves, releases and returns as events -/

/-- The context of a partition whose event takes place: the first die on which it holds a cluster. -/
def State.kvCtxOf (s : State) (n : Fin 16) : KvCtx := s.kvCtxAt (Fin.ofNat 24 ((s.mod.parts[n].dies).headD 0)) n

/-- The first partition whose pool has something of a kind. -/
def State.poolWith {α : Type} (s : State) (f : Fin 16 → Pool → Option α) : Option (Fin 16 × α) :=
  (List.finRange 16).findSome? fun n => match s.mod.parts[n].pool with
    | some p => (f n p).map fun a => (n, a)
    | none => none

/-- A step of the store as an event; one that fails leaves what `other` leaves. -/
def State.kvEvent (s : State) (x : KvM Unit) (other : KvM Unit) : Answer :=
  match s.runKv x with
  | .ok (_, t) => .next t
  | .error _ => match s.runKv other with
    | .ok (_, t) => .next t
    | .error _ => .next s

def Pool.dropMove (p : Pool) (m : Move) : Pool := { p with moves := p.moves.filter (· != m) }

/-- The value of the pool's ready counter, read as an acquire at module scope (R413); none where it cannot be read. -/
def kvCounter (c : KvCtx) (va : Nat) : KvM (Option Nat) := do
  let m ← get
  match checkAccess m c.die none c.part accCounterRead (BitVec.ofNat 64 va) 8 with
  | .error _ => return none
  | .ok pl => return if poisonedIn m.poison pl.pa 8 then none else some (m.mem.nat pl.pa 8)

/-- R413, R415: starts the next move of a page out of a recalled frame, one at a time: the page carries rkpool and the value it is to
reach. Pages whose class's path is 3 become ABSENT. -/
def kvOwnMove (c : KvCtx) : KvM Unit := do
  let p ← kvPool c
  if p.moves.any (·.own) then return ()
  else
    let recalled (g : Page) : Bool := p.borrowed.any fun l => l.module = g.lmod && l.frame = g.frame && l.recalled.isSome
    let rs := (← kvRecords c).filter fun r => r.2.state = 5 && recalled r.2
    (rs.filter fun r => p.path r.2.cls = 3).forM fun r => kvPutPage c r.1 r.2.drop
    match (rs.filter fun r => p.path r.2.cls != 3).head? with
    | none => return ()
    | some r =>
      match ← kvCounter c p.rkpool with
      | none => return ()
      | some v =>
        kvPutPage c r.1 { r.2 with ready := p.rkpool, target := v + 1 }
        kvOnPool c fun q => { q with moves := q.moves ++ [{
          record := r.1, tier := 2, frame := r.2.frame, slot := r.2.slot, module := r.2.lmod, port := p.portOf r.2.lmod r.2.frame
          due := c.now + moveCycles, data := none, buf := [], bad := [], own := true }] }

/-- The move that ends: its time has come, and the data of a borrowed frame are there. -/
def Pool.endingMove (p : Pool) (now : Nat) : Option Move :=
  p.moves.find? fun m => if m.tier = 2 && !m.own then m.data.isSome else m.due ≤ now

/-- Keeps the byte offset at which the stream of a record that was moved inward is malformed (R357). -/
def kvNoteMalformed (c : KvCtx) (r : Nat) : Option Nat → KvM Unit
  | some o => kvOnPool c fun q => { q with malformed := q.malformed ++ [(r, o)] }
  | none => return ()

/-- A move inward ends (R406, R413): its data are in the HBM frame and the page is RESIDENT. Lines that were poisoned, that a malformed
stream leaves out, or that can no longer be read are poisoned there (R357, R359, log entry 64). -/
def kvEndMove (c : KvCtx) (m : Move) : KvM Unit := do
  let p ← kvPool c
  let g ← kvPage c m.record
  kvOnPool c fun q => q.dropMove m
  if g.state != 2 then return ()
  else
    let n := dataBytes g.format (p.dh m.record)
    let old := { g with tier := m.tier, frame := m.frame, slot := m.slot, lmod := m.module }
    let x : Expansion ← (match m.data with
      | some d => pure ⟨padTo n d, m.bad.filter (· < (n + 127) / 128), none⟩
      | none => kvOr (kvFetch c old (p.dh m.record)) (pure ⟨List.replicate n 0, List.range ((n + 127) / 128), none⟩))
    kvOr (kvWriteLines c (p.dataAt g) x.bytes x.bad) (return ())
    kvNoteMalformed c m.record x.malformed
    kvPutPage c m.record { g with state := 1, tier := 0, ready := 0, target := 0, lmod := 0 }

/-- A move out of a recalled frame ends (R415): the page goes by its class's path, path 0 taken as CXL, and becomes ABSENT where no CXL
frame can be had (R412). Answers whether the page was moved; one that has left the frame meanwhile is not. -/
def kvEndOwn (c : KvCtx) (m : Move) : KvM Bool := do
  let p ← kvPool c
  let g ← kvPage c m.record
  kvOnPool c fun q => q.dropMove m
  if !(g.state = 5 && g.lmod = m.module && g.frame = m.frame && g.slot = m.slot) then return false
  else
    let g := { g with ready := 0, target := 0 }
    let format := match p.path g.cls with
      | 1 => if g.format = 0 then 1 else g.format
      | 2 => 3
      | _ => g.format
    if ← kvToCxl c m.record g format then return true
    else
      kvPutPage c m.record g.drop
      return false

/-- Adds 1 to the pool's ready counter, as a release (R413); an add that is refused changes nothing. -/
def State.addReady (s : State) (n : Fin 16) : State :=
  let rk := (s.mod.parts[n].pool.map Pool.rkpool).getD 0
  match checkAccess s.mod (s.kvCtxOf n).die none n accCounterAdd (BitVec.ofNat 64 rk) 8 with
  | .error _ => s
  | .ok pl => match s.addMem n pl.pa 1 with
    | .error _ => s
    | .ok u => u

/-- R413: the end of a move. The pool's own moves count on rkpool once the page has moved, and the next one starts. -/
def execMoveInwardComplete (s : State) : Answer :=
  match s.poolWith fun _ p => p.endingMove s.cycle with
  | none => .fault .notEnabled
  | some (n, m) =>
    let c := s.kvCtxOf n
    let drop : KvM Unit := kvOnPool c fun q => q.dropMove m
    if !m.own then s.kvEvent (kvEndMove c m) drop
    else
      let (t, moved) : State × Bool := match s.runKv (kvOr (kvEndOwn c m) (do drop; return false)) with
        | .ok (b, t) => (t, b)
        | .error (_, t) => (t, false)
      let t := if moved then t.addReady n else t
      t.kvEvent (kvOwnMove (t.kvCtxOf n)) (return ())

/-- The released record that becomes FREE: no walker that read a descriptor before its release remains (R409), and it is not being moved
inward (R406). -/
def State.freeable (s : State) : Option (Fin 16 × Nat × Nat) :=
  s.poolWith fun n p => match p.pending with
    | [] => none
    | _ => let old := s.oldestWalk n; p.pending.find? fun r => !(old.any (· ≤ r.2)) && !p.inward r.1

/-- R409: a released record becomes FREE. -/
def execPageFreeLater (s : State) : Answer :=
  match s.freeable with
  | none => .fault .notEnabled
  | some (n, r, t) =>
    let c := s.kvCtxOf n
    let drop : KvM Unit := kvOnPool c fun p => { p with pending := p.pending.erase (r, t) }
    s.kvEvent (do
      drop
      kvWrite c ((← kvPool c).recAt r) (List.replicate 1024 0)) drop

/-- The borrowed frame whose notice has expired with pages still in it (R415). -/
def State.expiredLoan (s : State) : Option (Fin 16 × Loan) :=
  s.poolWith fun _ p => p.borrowed.find? fun l => l.answered && (match l.recalled with
    | some t => t + 1024 * l.notice ≤ s.cycle
    | none => false)

/-- The records whose data lie in a borrowed frame: REMOTE ones, and those in transit out of it. -/
def kvInFrame (c : KvCtx) (l : Loan) : KvM (List (Nat × Page)) := do
  let moving := ((← kvPool c).moves.filter fun m => m.tier = 2 && m.module = l.module && m.frame = l.frame).map (·.record)
  return (← kvRecords c).filter fun r =>
    (r.2.state = 5 && r.2.lmod = l.module && r.2.frame = l.frame) || (r.2.state = 2 && moving.contains r.1)

/-- R415: every page of the frame not yet moved becomes ABSENT; the frame is then to be returned (`answered` is taken back). -/
def execRecallNoticeExpiry (s : State) : Answer :=
  match s.expiredLoan with
  | none => .fault .notEnabled
  | some (n, l) =>
    let c := s.kvCtxOf n
    let mark : KvM Unit := kvOnPool c fun p => { p with borrowed := p.borrowed.map fun b =>
      if b.module = l.module && b.frame = l.frame then { b with answered := false } else b }
    s.kvEvent (do
      -- a page in transit out of the frame has not moved either (log entry 64)
      let rs ← kvInFrame c l
      rs.forM fun r => do
        kvPutPage c r.1 r.2.drop
        kvOnPool c fun p => { p with moves := p.moves.filter fun m => m.record != r.1 }
      mark) mark

/-- The recalled frame that is empty or whose notice has expired (R415). -/
def State.returnable (s : State) : Option (Fin 16 × Loan) :=
  s.poolWith fun n p => p.borrowed.find? fun l => l.recalled.isSome && (!l.answered || (match s.runKv (kvInFrame (s.kvCtxOf n) l) with
    | .ok (rs, _) => rs.isEmpty
    | .error _ => false))

/-- R415: a recalled frame goes back to its lender. -/
def execFrameReturn (s : State) : Answer :=
  match s.returnable with
  | none => .fault .notEnabled
  | some (n, l) =>
    let c := s.kvCtxOf n
    s.kvEvent (do
      kvOnPool c fun p => { p with borrowed := p.borrowed.filter fun b => !(b.module = l.module && b.frame = l.frame) }
      kvSend c l.port (lendingControl l.module 3 l.frame 0)) (return ())

/-! ## Meanings of engine 5 -/

/-- A step of engine 5 on a command with flag 0 as given. -/
def State.madStep (s : State) (op : Nat) (flag : Option Bool) (f : Work) : Answer :=
  match (s.headState 5).command with
  | some c => if flag.all fun b => flagOf c.image 0 = b then s.engineStep 5 5 op f else .fault .notEnabled
  | none => .fault .notEnabled

/-- R420. -/
def execKvNew (s : State) : Answer := s.madStep 0x00 (some false) kvNewWork
/-- R399. -/
def execKvNewPool (s : State) : Answer := s.madStep 0x00 (some true) kvNewPoolWork
/-- R421. -/
def execKvFork (s : State) : Answer := s.madStep 0x01 none (madOne kvForkStep)
/-- R422. -/
def execKvFree (s : State) : Answer := s.madStep 0x02 none (madOne kvFreeStep)
/-- R410. -/
def execKvTrunc (s : State) : Answer := s.madStep 0x03 none (madOne kvTruncStep)
/-- R410. -/
def execKvCommit (s : State) : Answer := s.madStep 0x04 none (madOne kvCommitStep)
/-- R422. -/
def execKvClass (s : State) : Answer := s.madStep 0x05 none (madOne kvClassStep)
/-- R423. -/
def execKvPromote (s : State) : Answer := s.madStep 0x06 none kvPromoteWork
/-- R424. -/
def execKvDemote (s : State) : Answer :=
  s.madStep 0x07 none (madOverRange fun c q img i => kvDemoteStep c q (hwBits img 0 0 6) i)
/-- R425. -/
def execKvExport (s : State) : Answer := s.madStep 0x08 none kvExportWork
/-- R425. -/
def execKvImport (s : State) : Answer :=
  let binding := s.mod.parts[s.partNo].binding
  s.madStep 0x09 none fun t c =>
    if binding.isEmpty then (t, c, .fault (mkFault 0x26 (madArg0 c.image + madArg1 c.image * 2 ^ 32)))
    else madOne (kvImportStep binding) t c
/-- R414. -/
def execKvLend (s : State) : Answer := s.madStep 0x0A (some false) kvLendWork
/-- R415. -/
def execKvLendRecall (s : State) : Answer := s.madStep 0x0A (some true) kvRecallWork
/-- R426. -/
def execKvStat (s : State) : Answer := s.madStep 0x0B none kvStatWork
/-- R426. -/
def execKvSwref (s : State) : Answer := s.madStep 0x0C none (madOverRange fun c q _ i => kvSwrefStep c q i)

end Sys2Proof.Machine
end

