-- ==== Sys2Proof/Machine/Fabric.lean ====
section
/-! DEFINITION. The commands of engine 6 and the packets of puts, gets and counter adds (R433 to R438). The spec gives the operation
fields of a packet no layout; the one here is the model's (log entry 12). -/

namespace Sys2Proof

def Packet.field (p : Packet) (o n : Nat) : Nat := natOfBytes ((p.op.drop o).take n)
/-- Address and offset of the part that the packet carries, and the base and length of the whole range. -/
def Packet.base (p : Packet) : Nat := p.field 0 8
def Packet.total (p : Packet) : Nat := p.field 8 8
def Packet.offset (p : Packet) : Nat := p.field 16 4
/-- Flags: 1 a core's scratchpad, 2 a context start, 4 the last part, 8 of a network reduction, 16 of an attestation; and the cause of an
answer. -/
def Packet.flag (p : Packet) (n : Nat) : Bool := bitOf (p.field 20 1) n
def Packet.cause (p : Packet) : Nat := p.field 21 1
def Packet.handler (p : Packet) : Nat := p.field 22 2
def Packet.tag (p : Packet) : Nat := p.field 24 2
/-- The partition and the route trust entry that a packet to or from a switch belongs to, as its tag field numbers them. -/
def Packet.entry (p : Packet) : Fin 16 × Fin 64 := (Fin.ofNat 16 (p.tag / 64), Fin.ofNat 64 p.tag)
/-- The command that the packet belongs to, or the collective. -/
def Packet.key (p : Packet) : Nat := p.field 26 10
/-- The time limit of the put that the packet is a part of (R433). -/
def Packet.limit (p : Packet) : Nat := 2 ^ (20 + p.field 40 1 % 16)
/-- The rank that a collective's packet comes from. -/
def Packet.rank (p : Packet) : Nat := p.field 36 4

end Sys2Proof

namespace Sys2Proof.Machine

/-! ## Packets -/

def opBytes (base total offset flags cause handler tag key rank : Nat) : List Byte :=
  padTo 48 (bytesOfNat 8 base ++ bytesOfNat 8 total ++ bytesOfNat 4 offset ++ bytesOfNat 1 flags ++ bytesOfNat 1 cause ++
    bytesOfNat 2 handler ++ bytesOfNat 2 tag ++ bytesOfNat 10 key ++ bytesOfNat 4 rank)

/-- The operation fields of a part of a put, with the t of its command. -/
def putBytes (base total offset flags handler tag key t : Nat) : List Byte :=
  (opBytes base total offset flags 0 handler tag key 0).set 40 (BitVec.ofNat 8 t)

/-- The number of a core's command, as packets carry it. -/
def commandKey (k : Core) (seq : Nat) : Nat := ((k.die.val * 6 + k.cluster.val) * 8 + k.number.val) * 2 ^ 64 + seq % 2 ^ 64

def FabricOp.key (o : FabricOp) : Nat := ((o.die.val * 6 + o.cluster.val) * 8 + o.core.val) * 2 ^ 64 + o.seq % 2 ^ 64

/-! ## Commands of another core -/

/-- Runs a step with a core in the focus. -/
def State.atCore (s : State) (die : Fin 24) (cl : Fin 6) (n : Fin 8) (f : State → State) : State :=
  let is (k : Core) : Bool := k.die = die && k.cluster = cl && k.number = n
  if is s.core then f s
  else match s.parked.find? is with
    | none => s
    | some k =>
      let t := f { s with core := k }
      { t with core := s.core, parked := t.parked.map fun q => if is q then t.core else q }

/-- Changes the started command of an operation. -/
def State.onFabricCommand (s : State) (o : FabricOp) (g : Command → Command) : State :=
  s.onCoreAt o.die o.cluster o.core fun k =>
    let q := k.queue[(6 : Fin 8)]
    { k with queue := k.queue.set 6 { q with started := q.started.map fun c => if c.seq = o.seq then g c else c } }

/-- Forgets an operation. -/
def State.dropOp (s : State) (o : FabricOp) : State :=
  { s with mod := { s.mod with ops := s.mod.ops.filter fun x => !(x.key = o.key && x.network = o.network && x.id = o.id) } }

/-- The operation's command has performed its accesses: it retires in the next cycle. -/
def State.finishOp (s : State) (o : FabricOp) (fl : Flags) (range nan : Bool) : State :=
  (s.dropOp o).onFabricCommand o fun c =>
    { c with due := s.cycle + 1, flags := c.flags ||| fl, range := c.range || range, nan := c.nan || nan }

/-- A command of a queue of a core faults while it waits (R434, R450): it is cut at its cursor as `g` leaves it. -/
def State.faultWaiting (s : State) (die : Fin 24) (cl : Fin 6) (n : Fin 8) (q : Fin 8) (seq : Nat) (f : EngineFault)
    (g : Command → Command) : State :=
  s.atCore die cl n fun t =>
    match (t.core.queue[q]).started.find? fun c => c.seq = seq with
    | none => t
    | some c => (t.putQueue false q ((t.core.queue[q]).remove seq)).faultCommand false q (g c) f true

/-- The operation's command faults; its cursor is at its start (R434). The joins of a collective that reached its die are forgotten. -/
def State.faultOp (s : State) (o : FabricOp) (f : EngineFault) : State :=
  let s := { s with mod := { s.mod with joins := s.mod.joins.filter fun j =>
    !(j.part = o.part && j.die = o.die.val && j.id = o.id && j.hash = o.hash) } }
  (s.dropOp o).faultWaiting o.die o.cluster o.core 6 o.seq f fun c => { c with cursor := .start, records := [] }

/-- Whether an operation's command is still started: a cancelled one awaits nothing, and one that is cut is not. -/
def State.opAlive (s : State) (o : FabricOp) : Bool :=
  !o.cut && (s.core :: s.parked).any fun k => k.die = o.die && k.cluster = o.cluster && k.number = o.core &&
    k.queue[(6 : Fin 8)].started.any fun c => c.seq = o.seq && c.fault.isNone

/-- The operation of queue 6 of a partition that a key names: packets of another's traffic name none (R451). -/
def State.opOfKey (s : State) (n : Fin 16) (key : Nat) : Option FabricOp :=
  s.mod.ops.find? fun o => o.network && o.part = n && o.key = key && s.opAlive o

/-! ## The target's side (R435 to R437) -/

/-- The context in which a partition's memory is read and written for a packet. -/
def State.netCtx (s : State) (n : Fin 16) : KvCtx := ⟨Fin.ofNat 24 ((s.mod.parts[n].dies).headD 0), n, s.cycle, none, [], false⟩

/-- Writes units of a put; a poisoned line that is not wholly written keeps its poison (R359). -/
def netWrite (m : Module) (c : KvCtx) (va : Nat) (bs : List Byte) : Module :=
  (lineParts va bs.length).foldl (fun m p =>
    match checkAccess m c.die none c.part accWrite (BitVec.ofNat 64 p.2.1) 1 with
    | .error _ => m
    | .ok pl => l2Write (noteAccess m c.die none c.part (BitVec.ofNat 64 p.2.1) pl false c.now) c.part pl.pa ((bs.drop (p.2.1 - va)).take p.2.2)) m

/-- What becomes of a part of a put at its target: it is done, it fails with a cause, or it waits, written or not (R436). -/
inductive PutOutcome where
  | done (s : State)
  | fails (cause addr : Nat)
  | waits (s : State) (written : Bool)

/-- The core that a put with RSP names (R433). -/
def putCore (p : Packet) : Fin 24 × Fin 6 × Fin 8 :=
  (Fin.ofNat 24 (p.die % 32), Fin.ofNat 6 (p.core / 8 % 8), Fin.ofNat 8 (p.core % 8))

/-- The offsets written of the put that a part belongs to, this part among them. -/
def Module.partsWritten (m : Module) (n : Fin 16) (p : Packet) : List Nat :=
  let old := ((m.arrived.find? fun a => a.part = n && a.src = p.src && a.key = p.key).map (·.offsets)).getD []
  p.offset :: old.filter (· != p.offset)

/-- Keeps what has been written of a put, or forgets it. -/
def Module.noteParts (m : Module) (n : Fin 16) (p : Packet) (offsets : List Nat) : Module :=
  let rest := m.arrived.filter fun a => !(a.part = n && a.src = p.src && a.key = p.key)
  { m with arrived := if offsets.isEmpty then rest else ⟨n, p.src, p.key, offsets⟩ :: rest }

/-- Bytes that one packet carries at most (R430). -/
def packetRoom : Nat := 8192

/-- One part of a put at its target; `written` says that its bytes are in place and only the start request is left. The request is made
once the whole payload is written, and a full start queue holds it (R182, R436). -/
def State.performPut (s : State) (n : Fin 16) (p : Packet) (written : Bool) : PutOutcome :=
  if p.flag 0 then
    let (d, cl, no) := putCore p
    match (s.core :: s.parked).find? fun k => k.die = d && k.cluster = cl && k.number = no with
    | none => .waits s written
    | some k =>
      if !written && !(s.mod.parts[n].hasCluster (6 * d.val + cl.val) && k.task.any fun t => t.readyAt ≤ s.cycle) then .waits s false
      else if !written && 262144 * k.ways < p.base + p.total then .fails 0x14 p.base
      else
        let at_ := p.base + p.offset
        let t := if written then s else s.onCoreAt d cl no fun k => { k with
          scratch := k.scratch.write at_ p.payload, scratchPoison := clearPoison k.scratchPoison at_ p.payload.length }
        let offsets := t.mod.partsWritten n p
        if !p.flag 1 then .done t
        else if offsets.length * packetRoom < p.total then .done { t with mod := t.mod.noteParts n p offsets }
        else if 16 ≤ k.starts.length then .waits { t with mod := t.mod.noteParts n p offsets } true
        else
          let start : StartRequest :=
            ⟨4 * p.handler, BitVec.ofNat 64 p.base, BitVec.ofNat 64 p.total, BitVec.ofNat 64 p.tag⟩
          .done (State.onCoreAt { t with mod := t.mod.noteParts n p [] } d cl no fun k => { k with starts := k.starts ++ [start] })
  else
    let c := s.netCtx n
    match rangeRefused s.mod c accWrite p.base p.total with
    | some f => .fails f.1 f.2
    | none => .done { s with mod := netWrite s.mod c (p.base + p.offset) p.payload }

/-- The answer to a packet. -/
def answerTo (p : Packet) (cause addr : Nat) : Packet :=
  ⟨p.src, 0, 5, 0, 0, 0, opBytes addr p.total p.offset 0 cause 0 0 p.key 0, []⟩

/-- The causes that a module answers a put, a get or an add with (R435 to R437, R451). -/
def answerCauses : List Nat := [0x10, 0x11, 0x12, 0x13, 0x14, 0x19, 0x30]

/-- An answer arrives at the command of a partition that it belongs to: a cause faults it; the last one completes it. One with another
cause byte than R451 lets a module answer is none (DESIGN CHOICE, log entry 12). -/
def State.receiveAnswer (s : State) (n : Fin 16) (p : Packet) : State :=
  match s.opOfKey n p.key with
  | none => s
  | some o =>
    if p.cause != 0 then (if answerCauses.contains p.cause then s.faultOp o (mkFault p.cause p.base) else s)
    else
      let o' := { o with received := (p.offset, []) :: o.received.filter fun r => r.1 != p.offset }
      if o.expected ≤ o'.received.length then s.finishOp o 0 false false
      else { s with mod := { s.mod with ops := s.mod.ops.map fun x => if x = o then o' else x } }

/-- Sends a packet to its module, or delivers an answer that is this module's own. -/
def State.sendAnswer (s : State) (n : Fin 16) (p : Packet) : State :=
  if p.dst = s.mod.parts[n].jobSelf then s.receiveAnswer n p else { s with mod := sendOn s.mod n p }

/-- The puts that still wait: one whose time limit has passed is held no longer (R436). -/
def State.heldPuts (s : State) : List HeldPut := s.mod.held.filter fun h => s.cycle < h.limit

/-- A put arrives, or one that has waited is taken up again (R436). The time limit of one that arrives counts from its arrival (DESIGN
CHOICE, log entry 133). -/
def State.receivePut (s : State) (n : Fin 16) (lane : LaneRef) (p : Packet) : State :=
  let mine (h : HeldPut) : Bool := h.part = n && h.packet = p
  let written := s.heldPuts.any fun h => mine h && h.written
  let limit := ((s.heldPuts.find? mine).map (·.limit)).getD (s.cycle + p.limit)
  let s := { s with mod := { s.mod with held := s.heldPuts.filter fun h => !mine h } }
  match s.performPut n p written with
  | .done t => t.sendAnswer n (answerTo p 0 0)
  | .fails c a => s.sendAnswer n (answerTo p c a)
  | .waits t w => { t with mod := { t.mod with held := t.mod.held ++ [⟨n, lane, p, w, limit⟩] } }

/-- The first held put that need not wait any longer. -/
def State.readyPut (s : State) : Option HeldPut :=
  s.heldPuts.find? fun h => match s.performPut h.part h.packet h.written with
    | .waits _ w => w != h.written
    | _ => true

/-- The bytes of a range up to the first poisoned or unreadable unit, the cause that stops there (R435, R436), and the module with the
reads noted. -/
def netRead (m : Module) (c : KvCtx) (va n : Nat) : List Byte × Option (Nat × Nat) × Module :=
  (lineParts va n).foldl (fun (acc : List Byte × Option (Nat × Nat) × Module) p => match acc.2.1 with
    | some _ => acc
    | none =>
      let m := acc.2.2
      match checkAccess m c.die none c.part accRead (BitVec.ofNat 64 p.2.1) 1 with
      | .error k => (acc.1, some (k, p.2.1), m)
      | .ok pl =>
        if poisonedIn m.poison pl.pa p.2.2 then (acc.1, some (0x30, p.2.1), m)
        else (acc.1 ++ physRead m pl.pa p.2.2, none, kvNoteRead c p.2.1 pl m)) ([], none, m)

/-- The parts of n bytes of a run of bytes, with their offsets. -/
def cutIn (n : Nat) (bs : List Byte) : List (Nat × List Byte) :=
  (List.range ((bs.length + n - 1) / n)).map fun j => (n * j, (bs.drop (n * j)).take n)

/-- The parts of a run of bytes that packets carry (R430). -/
def packetParts (bs : List Byte) : List (Nat × List Byte) := cutIn packetRoom bs

/-- What a get finds: a cause before any unit, or the units, and the cause that cuts them; and the state after its reads. -/
def State.performGet (s : State) (c : KvCtx) (va len : Nat) : List Byte × Option (Nat × Nat) × State :=
  match rangeRefused s.mod c accRead va len with
  | some f => ([], some f, s)
  | none =>
    let (bs, f, m) := netRead { s.mod with fetched := [] } c va len
    (bs, f, s.withModule m)

/-- One add of a remote counter (R437): the cause, or the state after it. -/
def State.performAdd (s : State) (n : Fin 16) (va v : Nat) : Except (Nat × Nat) State :=
  match checkAccess s.mod (s.netCtx n).die none n accCounterAdd (BitVec.ofNat 64 va) 8 with
  | .error c => .error (c, va)
  | .ok pl => match s.addMem n pl.pa v with
    | .error c => .error (c, va)
    | .ok t => .ok t

/-! ## The commands -/

def fabModule (img : Image) : Nat := hwBits img 12 0 12
def fabLimit (img : Image) : Nat := 2 ^ (20 + hwBits img 13 0 4)
def fabLen (img : Image) : Nat := hw32 img 14
def fabRes (img : Image) : Nat := hwBits img 14 0 22
def fabWrites (img : Image) : Bool := hwBits img 15 15 1 = 1

/-- The cause at the start of a command that names a module (R429, R433). -/
def State.fabricFault (s : State) (m : Nat) : Option EngineFault :=
  let p := s.mod.parts[s.partNo]
  if p.jobId = 0 then some (mkFault 0x41 0)
  else if !p.isMember m then some (mkFault 0x15 m)
  else match p.firstHop m with
    | none => none
    | some port => if (lanesUp s.mod p port).isEmpty then some (mkFault 0x15 m) else none

/-- An operation of a command that starts now; the rank of one that is no collective is the module it addresses. -/
def State.newOp (s : State) (c : Command) (expected : Nat) : FabricOp where
  die := s.core.die
  cluster := s.core.cluster
  core := s.core.number
  part := s.partNo
  seq := c.seq
  started := s.cycle
  limit := fabLimit c.image
  id := 0
  hash := []
  ranks := []
  rank := fabModule c.image
  desc := []
  expected := expected
  received := []
  reduced := []
  bad := []
  met := false
  innet := false
  fb := false
  lost := false
  network := true
  lanes := []
  cut := false

/-- The operation with the lane groups that take its packets to modules noted (R431). -/
def FabricOp.across (o : FabricOp) (m : Module) (dsts : List Nat) : FabricOp :=
  { o with lanes := (o.lanes ++ dsts.filterMap fun d => (m.laneTo o.part d).map (·.val)).eraseDups }

/-- The command waits for its packets; they are sent on. -/
def State.launchOp (s : State) (o : FabricOp) (ps : List Packet) : State :=
  let m := { s.mod with ops := s.mod.ops ++ [o.across s.mod (ps.map (·.dst))] }
  { s with mod := ps.foldl (fun m p => sendOn m o.part p) m }

/-- The duration of a command that awaits an answer: `finishOp` shortens it. -/
def untilAnswered : Nat := 2 ^ 64

/-- The local source of a put (R436). -/
def State.fabricRead (s : State) (scratch : Bool) (a n : Nat) : Except EngineFault (List Byte × State) :=
  if scratch then (s.engRead a n).map fun bs => (bs, s)
  else match s.runKv (kvRead s.kvCtx a n) with
    | .error (f, _) => .error f
    | .ok r => .ok r

/-- Writes at the local destination of a get or a collective, on the focus core's die. -/
def State.fabricWrite (s : State) (scratch : Bool) (a : Nat) (bs : List Byte) : Except EngineFault State :=
  if scratch then s.engWrite a bs
  else match rangeRefused s.mod s.kvCtx accWrite a bs.length with
    | some f => .error (mkFault f.1 f.2)
    | none => .ok { s with mod := netWrite s.mod s.kvCtx a bs }

/-- R436: a put to a module. -/
def fputWork : Work := fun s c =>
  let img := c.image
  let q2 := quarter img 2
  match s.fabricFault (fabModule img) with
  | some f => (s, c, .fault f)
  | none =>
    match s.fabricRead (flagOf img 0) (quarter img 1) (fabLen img) with
    | .error f => (s, c, .fault f)
    | .ok (bs, s) =>
      let rsp := flagOf img 1
      let base := if rsp then bitsOf q2 0 22 else q2
      let pieces := packetParts bs
      let packet (x : Nat × List Byte) : Packet :=
        let flags := (if rsp then 1 else 0) + (if flagOf img 2 then 2 else 0) + (if bs.length ≤ x.1 + 8192 then 4 else 0)
        ⟨fabModule img, s.mod.parts[s.partNo].jobSelf, 1, if rsp then bitsOf q2 28 5 else 0, if rsp then bitsOf q2 22 6 else 0, 0,
          putBytes base bs.length x.1 flags (bitsOf q2 48 16) (hwBits img 13 4 12) (commandKey s.core c.seq) (hwBits img 13 0 4), x.2⟩
      if fabModule img = s.mod.parts[s.partNo].jobSelf then
        -- this module is its own target: the parts are performed, or wait, at once
        let go (acc : State × Nat × Option (Nat × Nat)) (x : Nat × List Byte) : State × Nat × Option (Nat × Nat) :=
          match acc.2.2 with
          | some _ => acc
          | none => match acc.1.performPut acc.1.partNo (packet x) false with
            | .done t => (t, acc.2.1, none)
            | .fails k a => (acc.1, acc.2.1, some (k, a))
            | .waits t w => ({ t with mod := { t.mod with
                held := t.mod.held ++ [⟨t.partNo, default, packet x, w, s.cycle + fabLimit img⟩] } }, acc.2.1 + 1, none)
        match pieces.foldl go (s, 0, none) with
        | (t, _, some f) => (t, c, .fault (mkFault f.1 f.2))
        | (t, 0, none) => (t, c, .done 1)
        | (t, n, none) => (t.launchOp (s.newOp c n) [], c, .done untilAnswered)
      else (s.launchOp (s.newOp c pieces.length) (pieces.map packet), c, .done untilAnswered)

/-- R436: a get from a module. -/
def fgetWork : Work := fun s c =>
  let img := c.image
  match s.fabricFault (fabModule img) with
  | some f => (s, c, .fault f)
  | none =>
    if fabModule img = s.mod.parts[s.partNo].jobSelf then
      -- the engine reads its own module's memory (R169)
      let (bs, f, s) := s.performGet { s.netCtx s.partNo with core := true } (quarter img 1) (fabLen img)
      match s.fabricWrite (flagOf img 0) (quarter img 2) bs with
      | .error g => (s, c, .fault g)
      | .ok t => (t, c, match f with
        | some f => .fault (mkFault f.1 f.2)
        | none => .done 1)
    else
      let p : Packet := ⟨fabModule img, 0, 2, 0, 0, 0,
        opBytes (quarter img 1) (fabLen img) 0 0 0 0 0 (commandKey s.core c.seq) 0, []⟩
      let o := { s.newOp c (fabLen img) with ranks := [quarter img 2, if flagOf img 0 then 1 else 0] }
      (s.launchOp o [p], c, .done untilAnswered)

/-- R437: an add to a counter of a module. -/
def fcaddWork : Work := fun s c =>
  let img := c.image
  match s.fabricFault (fabModule img) with
  | some f => (s, c, .fault f)
  | none =>
    if fabModule img = s.mod.parts[s.partNo].jobSelf then
      match s.performAdd s.partNo (quarter img 1) (quarter img 2) with
      | .error f => (s, c, .fault (mkFault f.1 f.2))
      | .ok t => (t, c, .done 1)
    else
      let p : Packet := ⟨fabModule img, 0, 4, 0, 0, 0, opBytes (quarter img 1) (quarter img 2) 0 0 0 0 0 (commandKey s.core c.seq) 0, []⟩
      (s.launchOp (s.newOp c 1) [p], c, .done untilAnswered)

/-- R436. -/
def execFput (s : State) : Answer := s.engineStep 6 6 2 fputWork
/-- R436. -/
def execFget (s : State) : Answer := s.engineStep 6 6 3 fgetWork
/-- R437. -/
def execFcadd (s : State) : Answer := s.engineStep 6 6 4 fcaddWork

/-! ## Packets that arrive (R430, R431) -/

/-- A packet of a kind on a lane group: it is taken in, passed on towards its module, or dropped (a lane group that is down, or that no
live partition owns). -/
def State.onPacket (s : State) (kind : Nat) (l : LaneRef) (p : Packet) (f : State → Fin 16 → State) : Answer :=
  let i := LaneRef.index l
  if p.kind != kind then .fault .notEnabled
  else if !s.mod.lanes[i].up then .next s
  else
    let lane := s.mod.lanes[i]
    let s := { s with mod := { s.mod with lanes := s.mod.lanes.set i { lane.ready with
      received := lane.ready.received + 1, retries := 0, heard := s.cycle } } }
    match laneOwner s.mod i with
    | none => .next s
    | some n =>
      if s.mod.parts[n].jobId = 0 then .next s
      else if p.dst = s.mod.parts[n].jobSelf then .next (f s n)
      else .next { s with mod := forwardOn s.mod n p }

/-- R436: a part of a put; one that has waited is taken up again. -/
def execPacketWrite (lane : LaneRef) (p : Packet) (s : State) : Answer :=
  match s.heldPuts.find? fun h => h.lane = lane && h.packet = p with
  | some h => .next (s.receivePut h.part lane p)
  | none => s.onPacket 1 lane p fun s n => s.receivePut n lane p

/-- R436: a request for data; they go back in parts, with the cause that cuts them. -/
def execPacketReadRequest (lane : LaneRef) (p : Packet) (s : State) : Answer :=
  s.onPacket 2 lane p fun s n =>
    let (bs, f, s) := s.performGet (s.netCtx n) p.base p.total
    let data := (packetParts bs).map fun x => (⟨p.src, 0, 3, 0, 0, 0, opBytes p.base p.total x.1 0 0 0 0 p.key 0, x.2⟩ : Packet)
    let s := { s with mod := data.foldl (fun m q => sendOn m n q) s.mod }
    match f with
    | some f => { s with mod := sendOn s.mod n (answerTo p f.1 f.2) }
    | none => s

/-- R436: data of a get are written at its destination; the last of them complete it. -/
def execPacketReadData (lane : LaneRef) (p : Packet) (s : State) : Answer :=
  s.onPacket 3 lane p fun s n =>
    match s.opOfKey n p.key with
    | none => s
    | some o =>
      let dst := o.ranks.headD 0 + p.offset
      let scratch := o.ranks.getD 1 0 = 1
      match (s.core :: s.parked).find? fun k => k.die = o.die && k.cluster = o.cluster && k.number = o.core with
      | none => s
      | some k =>
        match ({ s with core := k } : State).fabricWrite scratch dst p.payload with
        | .error f => s.faultOp o f
        | .ok _ =>
          let s := s.atCore o.die o.cluster o.core fun t => match t.fabricWrite scratch dst p.payload with
            | .ok u => u
            | .error _ => t
          let o' := { o with received := (p.offset, p.payload) :: o.received.filter fun r => r.1 != p.offset }
          if o.expected ≤ (o'.received.map fun r => r.2.length).sum then s.finishOp o 0 false false
          else { s with mod := { s.mod with ops := s.mod.ops.map fun x => if x = o then o' else x } }

/-- R437: an add to a counter of this module. -/
def execPacketCounterAdd (lane : LaneRef) (p : Packet) (s : State) : Answer :=
  s.onPacket 4 lane p fun s n =>
    match s.performAdd n p.base p.total with
    | .error f => { s with mod := sendOn s.mod n (answerTo p f.1 f.2) }
    | .ok t => { t with mod := sendOn t.mod n (answerTo p 0 0) }

end Sys2Proof.Machine
end

