-- ==== Sys2Proof/Machine/Debug.lean ====
section
/-! DEFINITION. The debugger, and uncorrectable errors of the stores (R175, R275 to R277, R359). A core is named by its number in
the module (R377). -/

namespace Sys2Proof.Machine

/-- Runs a step with a cluster of the module in the focus. -/
def State.atCluster (s : State) (g : Nat) (f : State → State) : State :=
  let is (c : Cluster) : Bool := 6 * c.die.val + c.number.val = g
  if is s.ctl then f s
  else match s.parkedCl.find? is with
    | none => s
    | some c =>
      let t := f { s with ctl := c }
      { t with ctl := s.ctl, parkedCl := t.parkedCl.map fun q => if is q then t.ctl else q }

/-- Runs a step with a core of the module and its cluster in the focus. -/
def State.atGlobal (s : State) (n : Nat) (f : State → State) : State :=
  s.atCluster (n / 8) fun s => s.atCore (Fin.ofNat 24 (n / 48)) (Fin.ofNat 6 (n / 8)) (Fin.ofNat 8 n) f

/-- The partition of a core. -/
def State.partOfCore (s : State) (k : Core) : Option (Fin 16) := s.partOfCluster (6 * k.die.val + k.cluster.val)

/-- Whether the debugger may halt a core: its partition's DEBUG flag is 1 (R275, R382). -/
def State.debuggable (s : State) (k : Core) : Bool := (s.partOfCore k).any fun n => (s.mod.parts[n]).debug

/-! ## Halt, step and resumption (R275, R277) -/

/-- A core halted by the debugger: every context stops at its boundary. -/
def Core.haltedBy (k : Core) (drain : Bool) : Core := { k with halt := some ⟨drain, none, .a, none, [], contexts⟩ }

/-- R275: the debugger stops a core in the mode it selects; a core of a partition without DEBUG never halts. -/
def execDebugHalt (core : Nat) (drain : Bool) (s : State) : Answer :=
  .next (s.atGlobal core fun s =>
    if s.debuggable s.core && s.core.halt.isNone then { s with core := s.core.haltedBy drain } else s)

/-! ## What the debugger reads (R276) -/

def wordOf (v part : Nat) : Word := BitVec.ofNat 64 (v / 2 ^ (64 * part))

/-- A number with one of its 64-bit parts replaced. -/
def withPart (v part : Nat) (w : Word) : Nat := v - bitsOf v (64 * part) 64 * 2 ^ (64 * part) + w.toNat * 2 ^ (64 * part)

/-- The ctl word of a counter: L in bit 7, M in bits 5 to 0 (R189). -/
def linkWord (l : Link) : Word := BitVec.ofNat 64 ((if l.linked then 2 ^ 7 else 0) + l.target.val)

/-- The state of a data queue's entry: free, reserved, full, poisoned (R188). -/
def entryWord (e : Option QEntry) : Word :=
  match e with
  | none => 0
  | some x => if x.reserved then 1 else if x.poison then 3 else 2

/-- The phase of a command: its wait phase, its claims, its engine, its accesses, its signal (R191). -/
def phaseWord (c : Command) (started : Bool) : Word :=
  if c.cursor.signal then 4 else if started then 3 else if c.claimed then 2 else if c.passed.isSome then 1 else 0

def Queue.commands (q : Queue) : List Command := q.started ++ q.waiting

/-- The planes of the block that an `MMA` was cut in. -/
def State.cutMma (s : State) (c : Command) : List Nat :=
  if c.fault.isSome && opOf c.image = 0 && c.cursor.k != 0 && !c.cursor.signal then
    let (n, p) := s.holder c.image (flagOf c.image 2) c.cursor.block
    if n = s.core.number.val then (List.range (planeWidth c.image)).map (· + p) else []
  else []

/-- The planes of an attention command on the OPA that was cut before its last entry: each of its blocks takes every entry. -/
def State.cutAttention (s : State) (c : Command) : List Nat :=
  let j := attJob c
  if attOpa c.image && c.aux = 1 && c.due = 0 && !c.cursor.signal && c.cursor.entry < j.list.length then
    (List.range (4 * (((j.rows s.core).2 - (j.rows s.core).1) / 128) * j.cb)).map (· + j.plane)
  else []

/-- The planes that hold a block of a command that was cut before it finished the block. -/
def State.incompletePlanes (s : State) : List Nat :=
  (s.core.queue[(0 : Fin 8)]).commands.flatMap s.cutMma ++ (s.core.queue[(2 : Fin 8)]).commands.flatMap s.cutAttention

/-- A field of a start request: its handler, x1, x2 and x3 (R182). -/
def StartRequest.field (r : StartRequest) (f : Nat) : Word :=
  match f with
  | 0 => BitVec.ofNat 64 r.handler
  | 1 => r.x1
  | 2 => r.x2
  | _ => r.x3

/-- The waiters of the core's partition on a memory counter. -/
def State.waitersOn (s : State) (va : Nat) : List Waiter :=
  match s.part, s.place accCounterRead (BitVec.ofNat 64 va) 8 with
  | some n, .ok pl => s.mod.waiters.filter fun w => w.part = n && w.pa = pl.pa
  | _, _ => []

/-- The cluster that a waiter's continuation runs on; 7 for a waiting controller. -/
def Waiter.cluster (w : Waiter) : Nat :=
  match w.who with
  | .continuation _ cl _ => cl.val
  | .controller _ _ => 7

/-- What the debugger reads of the core in the focus. -/
def State.debugRead (s : State) (t : DebugTarget) : Word :=
  let of (w : Who) : Strand := Core.strand s.core w
  match t with
  | .x w r => (of w).xr r
  | .v w r part => wordOf ((of w).v[r]).toNat part.val
  | .p w r => if (of w).p[r] then 1 else 0
  | .mask d part => wordOf ((of .x).masks.getD d.val 0).toNat part.val
  | .maskDepth => BitVec.ofNat 64 (of .x).masks.length
  | .startCount => BitVec.ofNat 64 s.core.starts.length
  | .startRequest i f => ((s.core.starts[i.val]?).map fun r => r.field f.val).getD 0
  | .pc w => BitVec.ofNat 64 (of w).pc
  | .sysreg w n => State.sysreg { s with who := w } n.val
  | .template w r q => wordOf ((Core.unit s.core w).w[r]).toNat q.val
  | .replayCount w => BitVec.ofNat 64 (of w).replays.length
  | .descriptor w i high => match (of w).replays[i.val]? with
    | some e => BitVec.ofNat 64 (bytesAt (descriptorBytes e) (if high then 8 else 0) 8)
    | none => 0
  | .replayValue w i part => match ((of w).replays[i.val]?).bind fun e => e.eff.wide with
    | some (v, _) => wordOf v.toNat part.val
    | none => 0
  | .replayStore w i part => match (of w).replayStore.find? fun e => e.1 = i.val with
    | some (_, v, _) => wordOf v.toNat part.val
    | none => 0
  | .nestState w part => match (of w).nest with
    | some n => BitVec.ofNat 64 (bytesAt (nestBytes n) (8 * part.val) 8)
    | none => 0
  | .maskMode => s.core.maskMode
  | .maskBase => s.core.maskBase
  | .slot n => match s.core.slots[n] with
    | some h => BitVec.ofNat 64 (h.toNat + 2 ^ 32)
    | none => 0
  | .lut w part => wordOf (Core.unit s.core w).lut.toNat part.val
  | .counter n => (s.counter false n).count
  | .link n => linkWord ((s.counter false n).linkAt s.cycle)
  | .slack n => ((s.counter false n).linkAt s.cycle).slack
  | .tile n => s.core.tile[n]
  | .ring n => (s.core.ring[n]).latest
  | .dataEntry q e part => match (s.core.q[q]).entries[e.val]? with
    | some x => wordOf x.data.toNat part.val
    | none => 0
  | .queueState q =>
    let d := s.core.q[q]
    let held := (d.entries.filter (·.reserved)).length
    let bad := (d.entries.filter fun e => !e.reserved && e.poison).length
    BitVec.ofNat 64 (d.head.val + (d.head.val + d.entries.length) % 16 * 2 ^ 8 + (d.entries.length - held - bad) * 2 ^ 16 +
      held * 2 ^ 24 + bad * 2 ^ 32 + (16 - d.entries.length) * 2 ^ 40)
  | .entryState q e => entryWord (s.core.q[q]).entries[e.val]?
  | .branchState toX =>
    let b := if toX then s.core.bqAX else s.core.bqXA
    BitVec.ofNat 64 (b.head.val + (b.head.val + b.entries.length) % 32 * 2 ^ 8 +
      (b.entries.zipIdx).foldl (fun acc e => acc + if e.1.1 then 2 ^ (32 + e.2) else 0) 0)
  | .queueStatus q => (s.core.queue[q]).status
  | .command q i part => match (s.core.queue[q]).commands[i]? with
    | some c => wordOf (c.image.toNat + c.nest.toNat * 2 ^ 512) part.val
    | none => 0
  | .cursor q i high => match (s.core.queue[q]).commands[i]? with
    | some c => wordOf (cursorBits c.image c.cursor) (if high then 1 else 0)
    | none => 0
  | .commandPhase q i => match (s.core.queue[q]).commands[i]? with
    | some c => phaseWord c (i < (s.core.queue[q]).started.length)
    | none => 0
  | .scratch a => BitVec.ofNat 64 (s.core.scratch.nat a 8)
  | .accumulator a => BitVec.ofNat 64 (s.core.acc.nat a 4)
  | .blockFlags p =>
    let b := s.core.blocks[p]
    BitVec.ofNat 64 (b.f32.toNat + (if b.x.nx then 2 ^ 8 else 0) + (if b.x.range then 2 ^ 9 else 0) + (if b.x.nan then 2 ^ 10 else 0))
  | .incompleteMap => BitVec.ofNat 64 ((List.range 32).foldl (fun acc j => acc + if s.incompletePlanes.contains j then 2 ^ j else 0) 0)
  | .memoryCounter va => match s.place accCounterRead (BitVec.ofNat 64 va) 8 with
    | .ok pl => BitVec.ofNat 64 (s.mod.mem.nat pl.pa 8)
    | .error _ => 0
  | .waiterTarget va i => ((s.waitersOn va)[i]?.map (·.target)).getD 0
  | .waiterCluster va i => BitVec.ofNat 64 (((s.waitersOn va)[i]?.map Waiter.cluster).getD 0)

/-! ## What the debugger writes -/

/-- A cursor from the bits of a fault record. -/
def cursorOf (img : Image) (v : Nat) : Cursor :=
  { c := (List.range 6).map fun d => if engineOfImage img = 1 then bitsOf v (20 * d) 20 else 0
    block := if engineOfImage img = 0 then (if opOf img = 0 then bitsOf v 0 16 else bitsOf v 0 6) else 0
    k := if engineOfImage img = 0 && opOf img = 0 then bitsOf v 16 16 else 0
    entry := if 2 ≤ engineOfImage img then bitsOf v 0 127 else 0
    signal := bitOf v 127 }

/-- A replay entry with one word of its descriptor replaced; a descriptor that `ERET` would refuse is not written. -/
def ReplayEntry.describe (e : ReplayEntry) (high : Bool) (v : Word) : ReplayEntry :=
  let bs := descriptorBytes e
  let lo := if high then bytesAt bs 0 8 else v.toNat
  let hi := if high then v.toNat else bytesAt bs 8 8
  match effectOf (bitsOf hi 16 4) (bitsOf hi 20 12) lo (some (e.eff.wide.getD (0, BitVec.allOnes 1024))) with
  | some eff => ⟨eff, BitVec.ofNat 6 (bitsOf hi 32 6), max 1 (bitsOf hi 0 8)⟩
  | none => e

/-- A replay entry with one word of its wide value replaced. -/
def ReplayEntry.revalue (e : ReplayEntry) (part : Nat) (v : Word) : ReplayEntry :=
  match e.eff.wide with
  | none => e
  | some (x, m) =>
    match effectOf e.eff.kind e.eff.index e.eff.word (some (BitVec.ofNat 16384 (withPart x.toNat part v), m)) with
    | some eff => { e with eff := eff }
    | none => e

/-- A nest with one word of its saved state replaced (R262). -/
def Nest.patch (n : Nest) (part : Nat) (v : Word) : Nest :=
  let bs := nestBytes n
  let bs := bs.take (8 * part) ++ bytesOfNat 8 v.toNat ++ bs.drop (8 * part + 8)
  let m := readNest (List.replicate 0x80 0 ++ bs) n.base
  { m with body := n.body, base := n.base }

/-- Changes the command at a place of a queue. -/
def Queue.onCommand (q : Queue) (i : Nat) (f : Command → Command) : Queue :=
  match q.commands[i]? with
  | none => q
  | some c =>
    let g (x : Command) : Command := if x.seq = c.seq then f x else x
    { q with started := q.started.map g, waiting := q.waiting.map g }

/-- A tile register as the debugger writes it: every field, C among them, where R276 lets it write what it reads; the reserved bits stay zero
(R176). -/
def writtenTile (v : Word) : Word := v &&& 0xE0007FFF003FFF80

/-- A ring as the debugger writes it: every field, head and tail among them (R179, R276). -/
def writtenRing (v : Word) : Word := v &&& 0x800FFF3F

/-- The first n of a list, filled up with a value. -/
def resized {α : Type} (n : Nat) (fill : α) (l : List α) : List α := l.take n ++ List.replicate (n - l.length) fill

/-- A replay entry that changes nothing, as the debugger adds it. -/
def emptyReplay : ReplayEntry := ⟨.flagsOnly, 0, 1⟩

/-- A full entry of zeros, as the debugger adds it to a data queue. -/
def emptyEntry : QEntry := ⟨0, 0, false, false, 0, 0⟩

/-- A start request with a field replaced (R182). -/
def StartRequest.withField (r : StartRequest) (f : Nat) (v : Word) : StartRequest :=
  match f with
  | 0 => { r with handler := v.toNat }
  | 1 => { r with x1 := v }
  | 2 => { r with x2 := v }
  | _ => { r with x3 := v }

/-- A data queue with an entry in another state (R188); the last one can be freed. -/
def DataQueue.setState (d : DataQueue) (e v : Nat) (f : QEntry → QEntry) : DataQueue :=
  if v = 0 && e + 1 = d.entries.length then { d with entries := d.entries.take e } else { d with entries := mapNth e f d.entries }

/-- A branch-outcome queue as its state word gives it: the head, the tail and the outcomes; equal ones mean a full queue where it was full. -/
def BranchQueue.written (b : BranchQueue) (now : Nat) (v : Word) : BranchQueue :=
  let head := v.toNat % 32
  let n := (v.toNat / 2 ^ 8 % 32 + 32 - head) % 32
  let n := if n = 0 && b.entries.length = 32 then 32 else n
  ⟨Fin.ofNat 32 head, ((resized n (false, now) b.entries).zipIdx).map fun e => (v.getLsbD (32 + e.2), e.1.2)⟩

/-- The strand that issues to a queue (R190). -/
def issuerOf (q : Fin 8) : Who := if q = 0 || q = 2 || q = 3 || q = 7 then .x else .a

/-- A queue with a command behind its last one, as the debugger adds it: with the image given and the state of one just issued. -/
def State.addedCommand (s : State) (q : Fin 8) (img : Image) : State :=
  let t : State := { s with who := issuerOf q }
  let v := s.core.queue[q]
  { s with core := { s.core with
      queue := s.core.queue.set q { v with waiting := v.waiting ++ [t.command 0 img (Core.unit s.core (issuerOf q))] }, seq := s.core.seq + 1 } }

/-- A data queue's entry in another state (R188). -/
def QEntry.inState (e : QEntry) (v : Nat) : QEntry :=
  match v with
  | 1 => { e with reserved := true, poison := false }
  | 2 => { e with reserved := false, poison := false }
  | 3 => { e with reserved := false, poison := true }
  | _ => e

/-- A command in another phase (R191): one that waits has its wait phase before or behind it; a started one stands at its signal phase
or not. -/
def Command.inPhase (c : Command) (now v : Nat) : Command :=
  { c with
    passed := if c.claimed then c.passed else if v = 0 then none else some (c.passed.getD now)
    cursor := { c.cursor with signal := v = 4 } }

/-- What a write of the debugger does to the core in the focus; the incomplete map and the waiters are not written. A tile that would
overlap another is not written (R176). -/
def State.debugWrite (s : State) (t : DebugTarget) (v : Word) : State :=
  let k := s.core
  let on (w : Who) (f : Strand → Strand) : State := { s with core := Core.setStrand k w (f (Core.strand k w)) }
  let onQ (q : Fin 8) (f : Queue → Queue) : State := { s with core := { k with queue := k.queue.set q (f k.queue[q]) } }
  let onD (q : Fin 8) (f : DataQueue → DataQueue) : State := { s with core := { k with q := k.q.set q (f k.q[q]) } }
  match t with
  | .x w r => if r = 0 then s else on w fun f => { f with x := f.x.set r v }
  | .v w r part => on w fun f => { f with v := f.v.set r (BitVec.ofNat 4096 (withPart (f.v[r]).toNat part.val v)) }
  | .p w r => on w fun f => { f with p := f.p.set r (v.getLsbD 0) }
  | .mask d part => on .x fun f => { f with masks := mapNth d.val (fun m => BitVec.ofNat 1024 (withPart m.toNat part.val v)) f.masks }
  | .maskDepth => on .x fun f => { f with masks := resized (min 16 v.toNat) 0 f.masks }
  | .startCount => { s with core := { k with starts := resized (min 16 v.toNat) ⟨0, 0, 0, 0⟩ k.starts } }
  | .startRequest i f => { s with core := { k with starts := mapNth i.val (fun r => r.withField f.val v) k.starts } }
  | .pc w => on w fun f => { f with pc := v.toNat }
  | .sysreg w n =>
    if n.val = 3 then on w fun f => { f with vrb := BitVec.ofNat 5 v.toNat, prb := BitVec.ofNat 3 (v.toNat / 2 ^ 8) }
    else writeSysreg w n.val v s
  | .template w r q =>
    let u := Core.unit k w
    { s with core := Core.setUnit k w { u with w := u.w.set r (BitVec.ofNat 256 (withPart (u.w[r]).toNat q.val v)) } }
  | .replayCount w => on w fun f => { f with replays := resized (min 24 v.toNat) emptyReplay f.replays }
  | .descriptor w i high => on w fun f => { f with replays := mapNth i.val (fun e => e.describe high v) f.replays }
  | .replayValue w i part => on w fun f => { f with replays := mapNth i.val (fun e => e.revalue part.val v) f.replays }
  | .replayStore w i part => on w fun f =>
      { f with replayStore := f.replayStore.map fun e =>
          if e.1 = i.val then (e.1, BitVec.ofNat 16384 (withPart e.2.1.toNat part.val v), e.2.2) else e }
  | .nestState w part => on w fun f => { f with nest := f.nest.map fun n => n.patch part.val v }
  | .maskMode => { s with core := { k with maskMode := v } }
  | .maskBase => { s with core := { k with maskBase := v } }
  | .slot n => { s with core := { k with slots := k.slots.set n (if v.getLsbD 32 then some (BitVec.ofNat 32 v.toNat) else none) } }
  | .lut w part =>
    let u := Core.unit k w
    { s with core := Core.setUnit k w { u with lut := BitVec.ofNat 4096 (withPart u.lut.toNat part.val v) } }
  | .counter n => s.setCounter false n { s.counter false n with count := v, recent := [] }
  | .link n =>
    let c := s.counter false n
    s.setCounter false n { c with newLink := none, link := ⟨v.getLsbD 7, Fin.ofNat 64 v.toNat, (c.linkAt s.cycle).slack⟩ }
  | .slack n =>
    let c := s.counter false n
    s.setCounter false n { c with newLink := none, link := { c.linkAt s.cycle with slack := v } }
  | .tile n =>
    let w := writtenTile v
    if s.tileOverlaps n w then s else { s with core := setTile k n w }
  | .ring n =>
    { s with core := { k with ring := k.ring.set n ⟨writtenRing v, []⟩ } }
  | .dataEntry q e part => onD q fun d =>
      { d with entries := mapNth e.val (fun x => { x with data := BitVec.ofNat 512 (withPart x.data.toNat part.val v) }) d.entries }
  | .queueState q => onD q fun d => { d with
      head := Fin.ofNat 16 v.toNat
      entries := resized (min 16 (bitsOf v.toNat 16 5 + bitsOf v.toNat 24 5 + bitsOf v.toNat 32 5)) emptyEntry d.entries }
  | .entryState q e => onD q fun d => d.setState e.val v.toNat (fun x => x.inState v.toNat)
  | .branchState toX =>
    { s with core := if toX then { k with bqAX := k.bqAX.written s.cycle v } else { k with bqXA := k.bqXA.written s.cycle v } }
  | .queueStatus q => onQ q fun q => { q with last := BitVec.ofNat 8 (v.toNat / 2 ^ 8), range := v.getLsbD 7, nan := v.getLsbD 6
                                              flags := BitVec.ofNat 6 v.toNat }
  | .command q i part =>
    if i = (k.queue[q]).commands.length then s.addedCommand q (BitVec.ofNat 512 (withPart 0 part.val v))
    else onQ q fun x => x.onCommand i fun c =>
      let all := withPart (c.image.toNat + c.nest.toNat * 2 ^ 512) part.val v
      { c with image := BitVec.ofNat 512 all, nest := BitVec.ofNat 512 (all / 2 ^ 512) }
  | .cursor q i high => onQ q fun x => x.onCommand i fun c =>
      { c with cursor := cursorOf c.image (withPart (cursorBits c.image c.cursor) (if high then 1 else 0) v) }
  | .commandPhase q i => onQ q fun x => x.onCommand i fun c => c.inPhase s.cycle v.toNat
  | .scratch a => { s with core := { k with scratch := k.scratch.writeNat a 8 v.toNat } }
  | .accumulator a => { s with core := { k with acc := k.acc.writeNat a 4 v.toNat } }
  | .blockFlags p =>
    { s with core := { k with blocks := k.blocks.set p ⟨BitVec.ofNat 6 v.toNat, ⟨v.getLsbD 8, v.getLsbD 9, v.getLsbD 10⟩⟩ } }
  | .memoryCounter va => match s.place accCounterRead (BitVec.ofNat 64 va) 8 with
    | .ok pl => { s with mod := { s.mod with mem := s.mod.mem.writeNat pl.pa 8 v.toNat } }
    | .error _ => s
  | .incompleteMap | .waiterTarget _ _ | .waiterCluster _ _ => s

/-- What the debugger has written takes effect (R276). -/
def State.settleWrites (s : State) : State :=
  match s.core.halt with
  | none => s
  | some h => h.writes.foldl (fun t w => t.debugWrite w.1 w.2) { s with core := { s.core with halt := some { h with writes := [] } } }

/-- R277: one strand of a halted core is to issue one group. -/
def execDebugStep (core : Nat) (w : Who) (s : State) : Answer :=
  .next (s.atGlobal core fun s =>
    let s := s.settleWrites
    { s with core := { s.core with halt := s.core.halt.map fun h => { h with step := some w, stopping := h.stopping.filter (· != w) } } })

/-- R277: ends a halt; engines go on from their cursors and each strand issues its group again. -/
def execDebugResume (core : Nat) (s : State) : Answer :=
  .next (s.atGlobal core fun s =>
    let s := s.settleWrites
    { s with core := { s.core with halt := none } })

/-- R276: the debugger reads or writes a halted core; it reaches no core that is not halted. A write takes effect on resumption, and
the debugger reads it as if it had (DESIGN CHOICE, log entry 120). -/
def execDebugAccess (core : Nat) (t : DebugTarget) (write : Option Word) (s : State) : Answer :=
  let reply (s : State) (v : Word) (dropped : Bool) : State := { s with mod := { s.mod with reply := ⟨v, false, dropped, [], .complete⟩ } }
  .next (State.atGlobal { s with who := .a, mod := { s.mod with reply := ⟨0, false, true, [], .complete⟩ } } core fun s =>
    match s.core.halt, write with
    | none, _ => s
    | some _, none => reply s (s.settleWrites.debugRead t) false
    | some h, some v => reply { s with core := { s.core with halt := some { h with writes := h.writes ++ [(t, v)] } } } 0 false)

/-! ## Uncorrectable errors -/

def dropNth {α : Type} (i : Nat) (l : List α) : List α := l.take i ++ l.drop (i + 1)

/-- R175: an uncorrectable error poisons a line of the scratchpad or of the accumulators; a cached line is invalidated. -/
def execLocalStoreEccError (core : Nat) (place : LocalPlace) (s : State) : Answer :=
  .next (s.atGlobal core fun s =>
    let k := s.core
    match place with
    | .scratch l => if l < 2048 * k.ways then { s with core := { k with scratchPoison := insertNat l k.scratchPoison } } else s
    | .accumulator l => if l < 16384 then { s with core := { k with accPoison := insertNat l k.accPoison } } else s
    | .cache i => { s with core := { k with cache := dropNth i k.cache } })

/-- A report of `UNCORRECTABLE` for an owner, or without one. -/
def Module.uncorrectable (m : Module) (owner : Option (Fin 16)) : Module :=
  { m with controllerReports := (owner, 0x31) :: m.controllerReports }

/-- The partition that owns a physical line. -/
def Module.ownerOf (m : Module) (line : Nat) : Option (Fin 16) :=
  let pa := 128 * line
  (List.finRange 16).find? fun n =>
    let p := m.parts[n]
    p.state = .live &&
    (if pa < statusBase then p.hasGroup (pa / 0x200000000)
     else cxlBase ≤ pa && p.poolBase ≤ (pa - cxlBase) / 2 ^ 30 && (pa - cxlBase) / 2 ^ 30 < p.poolBase + p.poolSize)

/-- A line is poisoned with the owner tag of its partition; without an owner the error is reported. -/
def Module.poisonLine (m : Module) (line : Nat) : Module :=
  match m.ownerOf line with
  | some _ => { m with poison := insertNat line m.poison }
  | none => m.uncorrectable none

/-- R359: an uncorrectable error of the die or of HBM, by where it falls. A lost status word reads as a free value. -/
def execMemoryEccError (place : EccPlace) (s : State) : Answer :=
  let m := s.mod
  let go (m : Module) : Answer := .next { s with mod := m }
  match place with
  | .cleanL2 i => match m.l2[i]? with
    | some l => if l.dirty then go m else go (Module.noteGone { m with l2 := dropNth i m.l2 } (l.part, l.id, l.coord))
    | none => go m
  | .rdcLine i => go { m with rdc := dropNth i m.rdc }
  | .translation i => go { m with tlb := dropNth i m.tlb }
  | .dirtyTagged i => go { m with l2 := mapNth i (fun l => if l.dirty && l.id != 0 then { l with poison := true } else l) m.l2 }
  | .dirtyFlat l => go (m.poisonLine l)
  | .hbm l =>
    if m.l2.any fun x => x.id = 0 && x.line = l && x.dirty then
      go { m with l2 := m.l2.map fun x => if x.id = 0 && x.line = l && x.dirty then { x with poison := true } else x }
    else go (m.poisonLine l)
  | .counterLine l => go (m.poisonLine l)
  | .waiter i =>
    let owner := (m.waiters[i]?).map fun (w : Waiter) => w.part
    go (Module.uncorrectable { m with waiters := dropNth i m.waiters } owner)
  | .statusWord d n =>
    let v : BitVec 7 := BitVec.ofNat 7 (Config.freeWord s.draw).toNat
    .next { s with draw := s.draw + 1, mod := Module.uncorrectable { m with status := m.status.set (statusIndex d.val n.val) v } (some n) }
  | .unowned => go (m.uncorrectable none)

end Sys2Proof.Machine
end

