-- ==== Sys2Proof/Machine/Collective.lean ====
section
/-! DEFINITION. Collectives, sampling over shards and the route trust table (R439 to R449). -/

namespace Sys2Proof.Machine

/-! ## Descriptor and group (R439 to R441) -/

/-- The fields of a collective descriptor (R440). -/
structure Coll where
  argmax : Bool
  src : Nat
  dst : Nat
  group : Nat
  n : Nat
  kind : Nat
  op : Nat
  typ : Nat
  ctlHigh : Nat
  anchor : Int
  anchorHigh : Nat
  root : Nat
  route : Nat
  routeMid : Nat
  torus : Bool
  out : Nat
  invT : Nat
  nbest : Nat
  nbestHigh : Nat
  reserved : Nat
  seed : Nat
  sid : Nat
  deriving DecidableEq, Repr, Inhabited

def parseColl (argmax : Bool) (bs : List Byte) : Coll :=
  let w (o n : Nat) : Nat := bytesAt bs o n
  { argmax := argmax, src := w 0 8, dst := w 8 8, group := w 16 8, n := w 24 4
    kind := bitsOf (w 28 2) 0 4, op := bitsOf (w 28 2) 4 4, typ := bitsOf (w 28 2) 8 4, ctlHigh := bitsOf (w 28 2) 12 4
    anchor := signedOf 10 (w 30 2), anchorHigh := w 30 2 / 2 ^ 10, root := w 32 2
    route := bitsOf (w 34 2) 0 6, routeMid := bitsOf (w 34 2) 6 9, torus := bitOf (w 34 2) 15
    out := w 36 4, invT := w 40 4, nbest := bitsOf (w 44 1) 0 3, nbestHigh := bitsOf (w 44 1) 3 5, reserved := w 45 3
    seed := w 48 8, sid := w 56 8 }

/-- Bytes of an element, and whether it is a floating-point or an integer lane (R440). -/
def Coll.esize (d : Coll) : Nat := match d.typ with
  | 0 => 16 | 1 | 3 | 5 => 4 | 2 => 2 | _ => 8

def Coll.elem (d : Coll) : ElemType := if d.typ = 1 then .f32 else .bf16

def Coll.ofmt (d : Coll) : Nat := bitsOf d.out 0 2

/-- Bytes of an output element (R440). -/
def Coll.osize (d : Coll) : Nat := match d.ofmt with
  | 0 => d.esize | 1 => 16 | 2 => 4 | _ => 2

/-- The conditions of R440, R441 and R449 on a descriptor, for a group of P. -/
def Coll.ok (d : Coll) (p : Nat) : Bool :=
  d.src < 2 ^ 57 && d.src % 8 = 0 && d.dst < 2 ^ 57 && d.dst % 8 = 0 && d.group < 2 ^ 57 && d.group % 64 = 0 &&
  1 ≤ d.n && d.n ≤ 2 ^ 28 && d.kind ≤ 4 && d.op ≤ 5 && d.typ ≤ 6 && d.ctlHigh = 0 && d.anchorHigh = 0 && d.routeMid = 0 &&
  d.reserved = 0 && d.nbestHigh = 0 &&
  if d.argmax then
    d.kind = 0 && d.op = 0 && (d.typ = 1 || d.typ = 2) && 1 ≤ d.root && d.root ≤ 256 && d.invT < 0x7F800000 &&
    d.out + d.n ≤ 2 ^ 26 && d.out < 2 ^ 26
  else
    let rm := bitsOf d.out 2 3
    d.root < p && d.out < 64 && rm != 4 && rm < 6 && d.invT = 0 && d.nbest = 0 && d.seed = 0 && d.sid = 0 &&
    (d.op < 3 || 3 ≤ d.typ) && !((d.op = 1 || d.op = 2) && d.typ = 0) &&
    (d.ofmt = 0 || (d.op = 0 && d.typ ≤ 2)) && !(d.ofmt = 1 && (d.typ = 1 || d.typ = 2) && d.kind != 0 && d.kind != 1 && d.kind != 4) &&
    (!(d.kind = 2 || d.kind = 3) || (d.op = 0 && d.ofmt = 0))

/-- The members of a group record: (module, die) words; none where the record is invalid (R439). -/
def groupMembers (bs : List Byte) (self : Nat) (member : Nat → Bool) : Option (List Nat) :=
  let p := bytesAt bs 0 2
  let ms := (List.range p).map fun r => bytesAt bs (64 + 4 * r) 4
  if 1 ≤ p && p ≤ 1024 && ((bs.drop 2).take 62).all (· = 0) &&
    (ms.all fun m => bitsOf m 17 15 = 0 && bitsOf m 12 5 ≤ 23 && member (m % 2 ^ 12)) &&
    ms.eraseDups.length = ms.length && ms.contains self then some ms else none

/-- The bytes that joins must agree on (R443): every field but src, dst, count and base; and for `COLL` the count. -/
def collShape (argmax : Bool) (bs : List Byte) : List Byte :=
  [if argmax then 1 else 0] ++ (bs.drop 16).take 8 ++ (if argmax then [] else (bs.drop 24).take 4) ++ (bs.drop 28).take 8 ++
    (if argmax then [] else (bs.drop 36).take 4) ++ (bs.drop 40).take 24

/-! ## Combining (R442) -/

/-- Every element lane of a participant: a signed sum with its flags, or the element's bits. -/
def collLane (d : Coll) (bits : Nat) : Int × AccFlags :=
  match d.typ with
  | 0 => (signedOf 128 bits, .none)
  | 1 | 2 => if d.op = 0 then accxAdd 0 (decodeElem d.elem bits) d.anchor .none else ((bits : Int), .none)
  | _ => ((bits : Int), .none)

/-- Two lanes combined: saturating sums of ACCX lanes, sums modulo the width, maxima, minima and bitwise operations. -/
def collCombine (d : Coll) (a b : Int × AccFlags) : (Int × AccFlags) × Flags :=
  let f := a.2.or b.2
  let w := 8 * d.esize
  let signed (x : Int) : Int := if d.typ = 3 || d.typ = 4 then signedOf w x.toNat else x
  match d.op with
  | 0 =>
    if d.typ ≤ 2 then
      let (t, sat) := accxSat (a.1 + b.1)
      ((t, { f with range := f.range || sat }), 0)
    else (((unsignedOf w (a.1 + b.1) : Nat), f), 0)
  | 1 | 2 =>
    if d.typ ≤ 2 then
      let (v, fl) := fpPick d.elem (d.op = 1) a.1.toNat b.1.toNat
      (((v : Int), f), fl)
    else if (d.op = 1) = decide (signed b.1 < signed a.1) then ((a.1, f), 0) else ((b.1, f), 0)
  | 3 => ((((a.1.toNat &&& b.1.toNat : Nat) : Int), f), 0)
  | 4 => ((((a.1.toNat ||| b.1.toNat : Nat) : Int), f), 0)
  | _ => ((((a.1.toNat ^^^ b.1.toNat : Nat) : Int), f), 0)

/-- The output of a combined lane: its bytes and flags. -/
def collOutput (d : Coll) (v : Int × AccFlags) : List Byte × Flags :=
  if d.op = 0 && d.typ ≤ 2 then
    if d.ofmt = 1 || (d.ofmt = 0 && d.typ = 0) then (bytesOfNat 16 (unsignedOf 128 (if v.2.nan then 0 else v.1)), 0)
    else
      let t : ElemType := match d.ofmt with
        | 2 => .f32 | 3 => .bf16 | _ => d.elem
      let rm := (Rm.ofCode (bitsOf d.out 2 3)).getD .rne
      let (b, f) := if v.2.nan then (qnan t, flagIV) else roundTo t rm (bitOf d.out 5) 0 (accxVal v.1 d.anchor)
      (bytesOfNat (t.width / 8) b, f)
  else (bytesOfNat d.esize v.1.toNat, 0)

/-- Element k of a participant's source. -/
def srcElem (d : Coll) (bs : List Byte) (k : Nat) : Nat := bytesAt bs (d.esize * k) d.esize

/-- The lanes of the elements from `lo` on, n of them, over the participants in rank order. -/
def collReduce (d : Coll) (datas : List (List Byte)) (lo n : Nat) : List ((Int × AccFlags) × Flags) :=
  (List.range n).map fun k =>
    match datas.map fun bs => collLane d (srcElem d bs (lo + k)) with
    | [] => ((0, .none), 0)
    | v :: vs => vs.foldl (fun acc w => let (x, f) := collCombine d acc.1 w; (x, acc.2 ||| f)) (v, 0)

/-- The flags, RANGE and NAN of reduced lanes; the conversions of every rank raise NX (R442, R445). -/
def laneFlags (ls : List ((Int × AccFlags) × Flags)) : Flags × Bool × Bool :=
  ls.foldl (fun acc l => (acc.1 ||| l.2 ||| (if l.1.2.nx then flagNX else 0), acc.2.1 || l.1.2.range, acc.2.2 || l.1.2.nan)) (0, false, false)

/-- What a rank writes, with flags, RANGE and NAN; `datas` are the sources in rank order (R441). -/
def collResult (d : Coll) (p rank : Nat) (datas : List (List Byte)) : List Byte × Flags × Bool × Bool :=
  match d.kind with
  | 2 => (datas.flatMap id, 0, false, false)
  | 3 => (datas.getD d.root [], 0, false, false)
  | _ =>
    let ls := if d.kind = 1 then collReduce d datas (rank * d.n) d.n else collReduce d datas 0 d.n
    let (f, r, nn) := laneFlags (if d.kind = 1 then collReduce d datas 0 (p * d.n) else ls)
    let os := ls.map fun l => collOutput d l.1
    if d.kind = 4 && rank != d.root then ([], f, r, nn)
    else (os.flatMap (·.1), os.foldl (fun acc o => acc ||| o.2) f, r, nn)

/-! ## Sampling (R449) -/

/-- A candidate: the index and the key's bits. -/
abbrev Candidate := Nat × Nat

def keyVal (c : Candidate) : Val := decodeElem .f32 c.2

/-- Whether a candidate ranks above another. -/
def ranksAbove (a b : Candidate) : Bool :=
  (keyVal b).lt (keyVal a) || ((keyVal a).eqv (keyVal b) && a.1 < b.1)

/-- The best n candidates, best first. -/
def insertBest (n : Nat) (c : Candidate) (cs : List Candidate) : List Candidate :=
  ((cs.takeWhile fun x => !ranksAbove c x) ++ [c] ++ cs.dropWhile fun x => !ranksAbove c x).take n

/-- The key of an element with its flags; none where it is a NaN (R449). -/
def sampleKey (d : Coll) (id row g bits : Nat) : Option Nat × Flags :=
  let x := decodeElem d.elem bits
  if x.isNan then (none, flagIV)
  else if d.invT = 0 then (some (roundTo .f32 .rne false 0 x).1, 0)
  else
    let w := srWord (BitVec.ofNat 64 d.seed) (BitVec.ofNat 64 d.sid) (id % 2 ^ 16) (row * 2 ^ 26 + g)
    let (prod, f1) := exactMul x (decodeElem .f32 d.invT)
    let (sum, f2) := exactAdd .rne prod (decodeElem .f32 (gumbel2 w))
    let (k, f3) := roundTo .f32 .rne false 0 sum
    (some k, f1 ||| f2 ||| f3)

/-- A rank's candidates of every row, with the flags. -/
def sampleLocal (d : Coll) (id : Nat) (bs : List Byte) : List (List Candidate) × Flags :=
  ((List.range d.root).map fun b => (List.range d.n).foldl (fun (acc : List Candidate × Flags) j =>
    let (k, f) := sampleKey d id b (d.out + j) (srcElem d bs (b * d.n + j))
    (match k with
      | some k => insertBest (d.nbest + 1) (d.out + j, k) acc.1
      | none => acc.1, acc.2 ||| f)) ([], 0)).foldl (fun acc r => (acc.1 ++ [r.1], acc.2 ||| r.2)) ([], 0)

def candidateBytes (c : Candidate) : List Byte := bytesOfNat 4 c.1 ++ bytesOfNat 4 c.2

/-- The slots of a row, those without a candidate filled. -/
def rowBytesOf (n : Nat) (cs : List Candidate) : List Byte :=
  ((cs ++ List.replicate (n - cs.length) (0xFFFFFFFF, 0xFF800000)).take n).flatMap candidateBytes

/-- What a rank sends: its flags, and its best candidates of each row. -/
def sampleBytes (d : Coll) (id : Nat) (bs : List Byte) : List Byte :=
  let (rows, f) := sampleLocal d id bs
  bytesOfNat 8 f.toNat ++ rows.flatMap (rowBytesOf (d.nbest + 1))

/-- The merged rows and the OR of the flags. -/
def sampleResult (d : Coll) (datas : List (List Byte)) : List Byte × Flags :=
  let n := d.nbest + 1
  let row (b : Nat) : List Candidate := datas.foldl (fun cs bs => (List.range n).foldl (fun cs i =>
    let o := 8 + 8 * (b * n + i)
    let c : Candidate := (bytesAt bs o 4, bytesAt bs (o + 4) 4)
    if c.1 = 0xFFFFFFFF then cs else insertBest n c cs) cs) []
  ((List.range d.root).flatMap fun b => rowBytesOf n (row b), datas.foldl (fun f bs => f ||| BitVec.ofNat 6 (bytesAt bs 0 1)) 0)

/-! ## Course of a collective (R443, R448) -/

def FabricOp.coll (o : FabricOp) : Coll := parseColl (o.desc.headD 0 = 1) (o.desc.drop 1)

/-- Bytes that a rank contributes (R441, R449). -/
def Coll.bytes (d : Coll) (p : Nat) : Nat :=
  if d.argmax then 8 + 8 * d.root * (d.nbest + 1) else if d.kind = 1 then d.n * p * d.esize else d.n * d.esize

/-- The ranks whose data are needed. -/
def FabricOp.needed (o : FabricOp) : List Nat := if o.coll.kind = 3 && !o.coll.argmax then [o.coll.root] else List.range o.ranks.length

/-- Bytes of the source that a rank reads; the root alone reads it in a broadcast. -/
def Coll.sourceBytes (d : Coll) (p rank : Nat) : Nat :=
  if d.argmax then d.root * d.n * d.esize else if d.kind = 3 && rank != d.root then 0 else d.bytes p

/-- Adds an arriving part of a rank's data. -/
def FabricOp.take (o : FabricOp) (rank : Nat) (bs : List Byte) : FabricOp :=
  if o.received.any fun r => r.1 = rank then
    { o with received := o.received.map fun r => if r.1 = rank then (r.1, r.2 ++ bs) else r }
  else { o with received := o.received ++ [(rank, bs)] }

/-- The data of every rank, in rank order. -/
def FabricOp.datas (o : FabricOp) : List (List Byte) :=
  (List.range o.ranks.length).map fun r => ((o.received.find? fun x => x.1 = r).map (·.2)).getD []

/-- Bytes of a lane as the switches combine it: an ACCX lane, or the element. -/
def Coll.laneSize (d : Coll) : Nat := if d.op = 0 && d.typ ≤ 2 then 16 else d.esize

/-- Bytes of n lanes as ranks and switches exchange them: the flags, the lanes, and a NaN bit for each (log entry 12). -/
def Coll.innetSize (d : Coll) (n : Nat) : Nat := 8 + n * d.laneSize + (n + 7) / 8

/-- Whether everything has come: the reduced lanes of the switches, or the data of every rank that is needed. -/
def FabricOp.full (o : FabricOp) : Bool :=
  let d := o.coll
  if o.innet then d.innetSize d.n ≤ o.reduced.length
  else o.needed.all fun r => o.received.any fun x => x.1 = r && d.bytes o.ranks.length ≤ x.2.length

/-- The result from the switches: the header's flags, then this rank's lanes (R448). -/
def innetResult (d : Coll) (rank : Nat) (bs : List Byte) : List Byte × Flags × Bool × Bool :=
  let h := bytesAt bs 0 8
  let w := d.laneSize
  let nanOf (k : Nat) : Bool := bitOf (bytesAt bs (8 + d.n * w + k / 8) 1) (k % 8)
  let os := (List.range d.n).map fun k =>
    let v := bytesAt bs (8 + w * k) w
    collOutput d ((if w = 16 then signedOf 128 v else (v : Int)), ⟨false, false, nanOf k⟩)
  if d.kind = 4 && rank != d.root then ([], BitVec.ofNat 6 h, bitOf h 16, bitOf h 17)
  else (os.flatMap (·.1), os.foldl (fun f o => f ||| o.2) (BitVec.ofNat 6 h), bitOf h 16, bitOf h 17)

/-- The 8-byte result of R445. -/
def resultWord (o : FabricOp) (f : Flags) (range nan : Bool) : Nat :=
  (if o.innet then 2 ^ 8 else 0) + (if o.fb then 2 ^ 9 else 0) + f.toNat * 2 ^ 10 + (if range then 2 ^ 16 else 0) +
    (if nan then 2 ^ 17 else 0) + o.ranks.length * 2 ^ 32

/-- Completes an operation whose data are all there: the destination, the result word, the flags. -/
def State.completeColl (s : State) (o : FabricOp) : State :=
  let d := o.coll
  let (bs, f, range, nan) :=
    if d.argmax then (let (b, f) := sampleResult d o.datas; (b, f, false, false))
    else if o.innet then innetResult d o.rank o.reduced
    else collResult d o.ranks.length o.rank o.datas
  let s := { s with mod := { s.mod with joins := s.mod.joins.filter fun j =>
    !(j.part = o.part && j.die = o.die.val && j.id = o.id && j.hash = o.hash) } }
  let img := ((s.core :: s.parked).findSome? fun k =>
    if k.die = o.die && k.cluster = o.cluster && k.number = o.core then
      (k.queue[(6 : Fin 8)].started.find? fun c => c.seq = o.seq).map (·.image) else none).getD 0
  -- the destination, then the result
  let put (t : State) : Except EngineFault State :=
    match (if bs.isEmpty then .ok t else t.fabricWrite false d.dst bs) with
    | .error g => .error g
    | .ok t => if fabWrites img then t.engWrite (fabRes img) (bytesOfNat 8 (resultWord o f range nan)) else .ok t
  match (s.core :: s.parked).find? fun k => k.die = o.die && k.cluster = o.cluster && k.number = o.core with
  | none => s.dropOp o
  | some k =>
    match put { s with core := k } with
    | .error g => s.faultOp o g
    | .ok _ =>
      (s.atCore o.die o.cluster o.core fun t => match put t with
        | .ok u => u
        | .error _ => t).finishOp o f range nan

/-- Changes an operation. -/
def State.setOp (s : State) (o o' : FabricOp) : State :=
  { s with mod := { s.mod with ops := s.mod.ops.map fun x => if x = o then o' else x } }

/-- The operations of this module, in a partition, of a collective. -/
def State.collOps (s : State) (n : Fin 16) (id : Nat) (hash : List Byte) : List FabricOp :=
  s.mod.ops.filter fun o => o.isColl && o.part = n && o.id = id && o.hash = hash && s.opAlive o

/-- Delivers a part of a rank's data to the operation of a member die. -/
def State.deliver (s : State) (n : Fin 16) (die id : Nat) (hash : List Byte) (rank : Nat) (bs : List Byte) : State :=
  match (s.collOps n id hash).find? fun o => o.die.val = die with
  | none => s
  | some o => s.setOp o (o.take rank bs)

/-- Notes the lane groups that take an operation's packets to the members on other modules. -/
def State.noteLanes (s : State) (o : FabricOp) : State :=
  let far := (o.ranks.map (· % 2 ^ 12)).filter (· != s.mod.parts[o.part].jobSelf)
  s.setOp o (o.across s.mod far)

/-- Sends a rank's data to every member: over the torus, or to the members of this module at once (R443, R448). -/
def State.spread (s : State) (o : FabricOp) (bs : List Byte) : State :=
  let self := s.mod.parts[o.part].jobSelf
  o.ranks.foldl (fun s m =>
    let module := m % 2 ^ 12
    let die := bitsOf m 12 5
    if module = self then s.deliver o.part die o.id o.hash o.rank bs
    else
      -- a packet also carries 8 bytes of the group hash
      let packet (x : Nat × List Byte) : Packet :=
        ⟨module, self, 7, die, 0, 0, opBytes 0 bs.length x.1 0 0 0 0 o.id o.rank, o.hash.take 8 ++ x.2⟩
      { s with mod := (cutIn (packetRoom - 8) bs).foldl (fun md x => sendOn md o.part (packet x)) s.mod }) (s.noteLanes o)

/-- Runs a read of the core of an operation, whose local store keeps its lines (R169). -/
def State.readOnCore {α : Type} (s : State) (k : Core) (f : State → Except EngineFault (α × State)) : Except EngineFault (α × State) :=
  let is (q : Core) : Bool := q.die = k.die && q.cluster = k.cluster && q.number = k.number
  if is s.core then f s
  else (f { s with core := k }).map fun r =>
    (r.1, { r.2 with core := s.core, parked := r.2.parked.map fun q => if is q then r.2.core else q })

/-- The source of an operation. -/
def State.collSource (s : State) (o : FabricOp) : Except EngineFault (List Byte × State) :=
  let d := o.coll
  match (s.core :: s.parked).find? fun k => k.die = o.die && k.cluster = o.cluster && k.number = o.core with
  | none => .ok ([], s)
  | some k => s.readOnCore k fun t => t.fabricRead false d.src (d.sourceBytes o.ranks.length o.rank)

/-- The NaN bits of lanes, eight to a byte. -/
def nanBytes (nans : List Bool) : List Byte :=
  (List.range ((nans.length + 7) / 8)).map fun j =>
    BitVec.ofNat 8 (((List.range 8).filter fun b => nans.getD (8 * j + b) false).foldl (fun v b => v + 2 ^ b) 0)

/-- The lanes that a rank sends to the switches: flags, then a lane for each element, then their NaN bits (R448). -/
def innetBytes (d : Coll) (bs : List Byte) : List Byte :=
  let n := bs.length / d.esize
  let ls := (List.range n).map fun k => (collLane d (srcElem d bs k), (0 : Flags))
  let (f, r, nn) := laneFlags ls
  let w := d.laneSize
  bytesOfNat 8 (f.toNat + (if r then 2 ^ 16 else 0) + (if nn then 2 ^ 17 else 0)) ++
    (ls.flatMap fun l => bytesOfNat w (unsignedOf (8 * w) l.1.1)) ++ nanBytes (ls.map fun l => l.1.2.nan)

/-- The identifier by which packets name the switches of an entry: one beyond the 12 bits of a module (log entry 12). -/
def switches : Nat := 0x1000

/-- The number of a partition's route trust entry, as packets to and from its switches carry it. -/
def entryTag (n : Fin 16) (i : Fin 64) : Nat := 64 * n.val + i.val

/-- Sends packets over the Ethernet port of a route trust entry to a switch of its path, numbered under the key of its epoch; each awaits
its acknowledgement (R432, R448). -/
def State.sendEth (s : State) (n : Fin 16) (i : Fin 64) (switch : Nat) (ps : List Packet) : State :=
  let part := s.mod.parts[n]
  let r := part.routes[i]
  let ps := ps.zipIdx.map fun p => { p.1 with number := r.sent + p.2 }
  let from_ := s.mod.ethPorts[(Fin.ofNat 8 r.port : Fin 8)]
  { s with mod := { s.mod with
    sent := s.mod.sent ++ ps, eth := s.mod.eth ++ ps.map fun p => ⟨n, i, p, from_, r.path.getD switch [], s.cycle, 0⟩
    parts := s.mod.parts.set n { part with routes := part.routes.set i { r with sent := r.sent + ps.length } } } }

/-- Whether an unacknowledged packet is one of a collective of a die. -/
def EthPacket.isOf (e : EthPacket) (o : FabricOp) : Bool :=
  o.isColl && o.part = e.part && o.die.val = e.packet.die && o.id = e.packet.key && o.hash.take 8 = e.packet.payload.take 8

/-- The packets of a collective are acknowledged, or no longer awaited. -/
def State.dropEth (s : State) (o : FabricOp) : State :=
  { s with mod := { s.mod with eth := s.mod.eth.filter fun e => !e.isOf o } }

/-- Changes a route trust entry. -/
def State.onRoute (s : State) (n : Fin 16) (i : Fin 64) (g : Route → Route) : State :=
  { s with mod := { s.mod with parts := s.mod.parts.set n { s.mod.parts[n] with
    routes := s.mod.parts[n].routes.set i (g s.mod.parts[n].routes[i]) } } }

/-- Changes an entry away from TRUSTED: each in-network collective of the partition on it has lost its route (R447, R448). -/
def State.leaveTrust (s : State) (n : Fin 16) (i : Fin 64) (g : Route → Route) : State :=
  let lost (o : FabricOp) : FabricOp :=
    if o.isColl && o.innet && o.part = n && (Fin.ofNat 64 o.coll.route : Fin 64) = i then { o with lost := true } else o
  let s := s.onRoute n i g
  { s with mod := { s.mod with ops := s.mod.ops.map lost } }

/-- The endpoint mode: the rank's data go to every member. -/
def State.runEndpoint (s : State) (o : FabricOp) : State :=
  match s.collSource o with
  | .error f => s.faultOp o f
  | .ok (bs, s) =>
    let d := o.coll
    let o' := { o with met := true, innet := false }
    let s := s.setOp o o'
    if d.argmax then s.spread o' (sampleBytes d o.id bs)
    else if bs.isEmpty then s
    else s.spread o' bs

/-- The joins that have reached an operation's die. -/
def State.joinsOf (s : State) (o : FabricOp) : List Join :=
  s.mod.joins.filter fun j => j.part = o.part && j.die = o.die.val && j.id = o.id && j.hash = o.hash

/-- Whether joins disagree, or two come from one participant (R443). -/
def joinsClash (js : List Join) : Bool :=
  (js.map (·.rank)).eraseDups.length != js.length || (match js with
    | [] => false
    | j :: rest => rest.any fun k => k.shape != j.shape)

/-- Whether a collective runs in network (R448): for all ranks alike. -/
def runsInNetwork (d : Coll) (js : List Join) : Bool :=
  !d.argmax && !d.torus && (d.kind = 0 || d.kind = 1 || d.kind = 4) && js.all (·.trusted) &&
  (match js with
    | [] => false
    | j :: rest => rest.all fun k => k.epoch = j.epoch)

/-- The collective whose joins have met or clash, or whose data are complete. -/
def State.meeting (s : State) : Option FabricOp :=
  s.mod.ops.find? fun o => o.isColl && s.opAlive o &&
    (if o.met then o.full
     else let js := s.joinsOf o; joinsClash js || js.length = o.ranks.length)

/-- R443, R448: the joins of a collective have met: it proceeds in network or at the endpoints; joins that clash fault it. Once its
data are complete it writes its destination (R441, R442). -/
def execCollJoinsMet (s : State) : Answer :=
  match s.meeting with
  | none => .fault .notEnabled
  | some o =>
    if o.met then .next (s.completeColl o)
    else
      let js := s.joinsOf o
      if joinsClash js then .next (s.faultOp o (mkFault 0x42 0))
      else if runsInNetwork o.coll js then
        match s.collSource o with
        | .error f => .next (s.faultOp o f)
        | .ok (bs, s) =>
          let o' := { o with met := true, innet := true }
          let i : Fin 64 := Fin.ofNat 64 o.coll.route
          let packets := (cutIn (packetRoom - 8) (innetBytes o.coll bs)).map fun x =>
            (⟨switches, s.mod.parts[o.part].jobSelf, 7, o.die.val, 0, 0,
              opBytes 0 bs.length x.1 8 0 0 (entryTag o.part i) o.id o.rank, o.hash.take 8 ++ x.2⟩ : Packet)
          .next ((s.setOp o o').sendEth o.part i 0 packets)
      else .next (s.runEndpoint o)

/-- An in-network collective that has lost its route (R447, R448), or another rank of which has: its data come over the torus. -/
def State.fallingBack (s : State) : Option FabricOp :=
  s.mod.ops.find? fun o => o.isColl && o.met && o.innet && s.opAlive o && !o.full && (o.lost || !o.received.isEmpty)

/-- R448: the partial reduction is discarded and the collective restarts at the endpoints. The data of the ranks that have fallen back
before it stay. A rank that holds its whole result does not restart (DESIGN CHOICE, log entry 142). -/
def execCollFallback (s : State) : Answer :=
  match s.fallingBack with
  | none => .fault .notEnabled
  | some o =>
    let o' := { o with innet := false, fb := true, reduced := [] }
    .next (((s.setOp o o').dropEth o).runEndpoint o')

/-- The collective that a forced pre-emption cut, whose joins stand: its command takes it up again and does not join twice (R269, R443). -/
def State.cutCollective (s : State) (c : Command) (o : FabricOp) : Option FabricOp :=
  if c.paused then s.mod.ops.find? fun p => p.cut && p.part = o.part && p.die = o.die && p.id = o.id && p.hash = o.hash && p.rank = o.rank
  else none

/-- R439, R440, R443: a collective reads its descriptor and its group, and joins. -/
def collWork (argmax : Bool) : Work := fun s c =>
  let img := c.image
  let part := s.mod.parts[s.partNo]
  let prepared : Except EngineFault (List Byte × List Byte × List Nat × State) := do
    if part.jobId = 0 then throw (mkFault 0x41 0)
    if fabWrites img && 262144 * s.core.ways < fabRes img + 8 then throw (mkFault 0x14 (fabRes img))
    let (desc, s) ← s.fabricRead false (quarter img 1) 64
    let d := parseColl argmax desc
    if 2 ^ 57 ≤ d.group || d.group % 64 != 0 then throw (mkFault 0x15 (quarter img 1))
    let (head, s) ← s.fabricRead false d.group 64
    let p := bytesAt head 0 2
    let (grp, s) ← s.fabricRead false d.group (64 + 4 * min p 1024)
    match groupMembers grp (part.jobSelf + s.core.die.val * 2 ^ 12) part.isMember with
    | none => throw (mkFault 0x15 d.group)
    | some ms =>
      if !d.ok p then throw (mkFault 0x15 (quarter img 1))
      match ms.findSome? fun m => s.fabricFault (m % 2 ^ 12) with
      | some f => throw f
      | none => return (desc, grp, ms, s)
  match prepared with
  | .error f => (s, c, .fault f)
  | .ok (desc, grp, ms, s) =>
    let hash := sha3 grp
    let rank := (ms.findIdx? fun m => m = part.jobSelf + s.core.die.val * 2 ^ 12).getD 0
    let id := quarter img 2
    let o := { s.newOp c ms.length with
      id := id, hash := hash, ranks := ms, rank := rank, desc := [if argmax then 1 else 0] ++ desc }
    match s.cutCollective c o with
    | some p => (s.setOp p { p with cluster := o.cluster, core := o.core, seq := o.seq, cut := false }, c, .done untilAnswered)
    | none =>
    let route := part.routes[(Fin.ofNat 64 o.coll.route : Fin 64)]
    let shape := collShape argmax desc
    let s := { s with mod := { s.mod with ops := s.mod.ops ++ [o] } }
    let join (s : State) (m : Nat) : State :=
      let module := m % 2 ^ 12
      if module = part.jobSelf then
        { s with mod := { s.mod with joins := s.mod.joins ++
          [⟨s.partNo, bitsOf m 12 5, id, hash, rank, shape, route.state = .trusted, route.epoch⟩] } }
      else { s with mod := sendOn s.mod s.partNo ⟨module, 0, 6, bitsOf m 12 5, 0, 0,
        opBytes route.epoch 0 0 (if route.state = .trusted then 1 else 0) 0 0 0 id rank, hash ++ shape⟩ }
    (ms.foldl join (s.noteLanes o), c, .done untilAnswered)

/-- R439 to R443. -/
def execColl (s : State) : Answer := s.engineStep 6 6 0 (collWork false)
/-- R449. -/
def execCollArgmaxn (s : State) : Answer := s.engineStep 6 6 1 (collWork true)

/-- R443: a join arrives at a member die. -/
def execPacketCollectiveJoin (lane : LaneRef) (p : Packet) (s : State) : Answer :=
  s.onPacket 6 lane p fun s n =>
    { s with mod := { s.mod with joins := s.mod.joins ++
      [⟨n, p.die, p.key, p.payload.take 64, p.rank, p.payload.drop 64, p.flag 0, p.base⟩] } }

/-- The in-network collective that a switch's packet is for: of the partition and entry that it names, by die, id and hash. -/
def State.reductionOf (s : State) (p : Packet) : Option FabricOp :=
  s.mod.ops.find? fun o => o.isColl && o.innet && o.part = p.entry.1 && (Fin.ofNat 64 o.coll.route : Fin 64) = p.entry.2 &&
    o.die.val = p.die && o.id = p.key && o.hash.take 8 = p.payload.take 8 && s.opAlive o

/-- R430, R448: data of a rank, or reduced lanes of the switches over an Ethernet port. -/
def execPacketCollectiveData (lane : LaneRef) (p : Packet) (s : State) : Answer :=
  if p.kind != 7 then .fault .notEnabled
  else if p.flag 3 then
    match s.reductionOf p with
    | none => .next s
    | some o => .next ((s.setOp o { o with reduced := o.reduced ++ p.payload.drop 8 }).dropEth o)
  else s.onPacket 7 lane p fun s n =>
    match s.mod.ops.find? fun o => o.isColl && o.part = n && o.die.val = p.die && o.id = p.key && o.hash.take 8 = p.payload.take 8 with
    | none => s
    | some o => s.setOp o (o.take p.rank (p.payload.drop 8))

/-! ## Route trust (R446, R447) -/

/-- The 64 bytes of an entry (R446). -/
def routeBytes (r : Route) : List Byte :=
  let st := match r.state with
    | .empty => 0 | .attesting => 1 | .trusted => 2 | .failed => 3
  padTo 64 (bytesOfNat 8 (st + r.port * 2 ^ 3 + r.switches * 2 ^ 6 + r.fail * 2 ^ 9) ++ bytesOfNat 8 r.epoch)

def routeIndex (img : Image) : Fin 64 := Fin.ofNat 64 (quarter img 2)

def frouteReadWork : Work := fun s c =>
  if s.mod.parts[s.partNo].jobId = 0 then (s, c, .fault (mkFault 0x41 0))
  else match s.engWrite (fabRes c.image) (routeBytes s.mod.parts[s.partNo].routes[routeIndex c.image]) with
    | .error f => (s, c, .fault f)
    | .ok t => (t, c, .done 1)

/-- Whether a path descriptor keeps R447. -/
def pathOk (bs : List Byte) : Bool :=
  bytesAt bs 0 1 < 8 && bytesAt bs 1 1 < 8 && ((bs.drop 2).take 62).all (· = 0) &&
  (bs.drop (64 + 16 * (bytesAt bs 1 1 + 1))).all (· = 0)

/-- The reduction key of an entry and an epoch (R447). -/
def Partition.reduceKey (p : Partition) (i : Fin 64) (epoch : Nat) : List Byte :=
  match p.jobKey with
  | none => []
  | some k => kdf k reduceLabel (bytesOfNat 8 i.val ++ bytesOfNat 8 epoch)

/-- The addresses of a path descriptor, from the nearest switch to the root. -/
def pathAddresses (bs : List Byte) : List (List Byte) := (List.range (bytesAt bs 1 1 + 1)).map fun i => (bs.drop (64 + 16 * i)).take 16

/-- The next request of an attestation to a switch (R389, R447): one opens the session and asks for its certificates and measurements, the
other delivers the reduction key in it (log entry 71). -/
def State.askSwitch (s : State) (o : FabricOp) : State :=
  let i : Fin 64 := Fin.ofNat 64 o.id
  let part := s.mod.parts[o.part]
  let deliver : Bool := o.received.length % 2 = 1
  s.sendEth o.part i (o.received.length / 2) [⟨switches, part.jobSelf, if deliver then 1 else 2, 0, 0, 0,
    opBytes 0 0 0 16 0 0 (entryTag o.part i) o.key (o.received.length / 2), if deliver then part.routes[i].key else []⟩]

/-- R447: the entry is being attested; the switches are asked one after another. The port must be one of the partition's (DEDUCED from
R446, log entry 143). -/
def frouteAttestWork : Work := fun s c =>
  let i := routeIndex c.image
  if s.mod.parts[s.partNo].jobId = 0 then (s, c, .fault (mkFault 0x41 0))
  else match s.runKv (kvRead s.kvCtx (quarter c.image 1) 256) with
    | .error (f, _) => (s, c, .fault f)
    | .ok (bs, s) =>
      if !(pathOk bs && s.mod.parts[s.partNo].hasEthernet (bytesAt bs 0 1)) then (s, c, .fault (mkFault 0x15 (quarter c.image 1)))
      else
        let s := s.leaveTrust s.partNo i fun r =>
          { r with
            state := .attesting, epoch := r.epoch + 1, key := (s.mod.parts[s.partNo]).reduceKey i (r.epoch + 1), sent := 0
            port := bytesAt bs 0 1, switches := bytesAt bs 1 1, fail := 0, path := pathAddresses bs }
        let o := { s.newOp c (2 * (bytesAt bs 1 1 + 1)) with id := i.val, desc := bs }
        (State.askSwitch { s with mod := { s.mod with ops := s.mod.ops ++ [o] } } o, c, .done untilAnswered)

def frouteRevokeWork : Work := fun s c =>
  if s.mod.parts[s.partNo].jobId = 0 then (s, c, .fault (mkFault 0x41 0))
  else (s.leaveTrust s.partNo (routeIndex c.image) fun r => { r with state := .empty }, c, .done 1)

/-- A step of `FROUTE` whose action bits are as given; one whose action is none of the three only fails its check (R194). -/
def State.routeStep (s : State) (action : Nat) (f : Work) : Answer :=
  match (s.headState 6).command with
  | some c => if hwBits c.image 0 0 2 % 3 = action then s.engineStep 6 6 5 f else .fault .notEnabled
  | none => .fault .notEnabled

/-- R446. -/
def execFrouteRead (s : State) : Answer := s.routeStep 0 frouteReadWork
/-- R447. -/
def execFrouteAttest (s : State) : Answer := s.routeStep 1 frouteAttestWork
/-- R447. -/
def execFrouteRevoke (s : State) : Answer := s.routeStep 2 frouteRevokeWork

/-- Whether an operation is an attestation: it has a path descriptor and no group. -/
def FabricOp.isAttest (o : FabricOp) : Bool := o.network && o.hash.isEmpty && !o.desc.isEmpty

/-- The answer of a switch of an attestation to the request that it was sent last (R447): the digest of its certificate chain's root and
that of its measurements, which must be accepted ones, or that it has taken the key; a cause says that the exchange failed. -/
def State.receiveSwitch (s : State) (o : FabricOp) (p : Packet) : State :=
  let i : Fin 64 := Fin.ofNat 64 o.id
  let part := s.mod.parts[o.part]
  let real (ds : List (List Byte)) : List (List Byte) := ds.filter fun d => d.any (· != 0)
  let n := o.received.length
  let accepted : Bool := (real part.roots).contains (p.payload.take 64) && (real part.accepted).contains ((p.payload.drop 64).take 64)
  let o' := { o with received := o.received ++ [(n, [])] }
  -- an answer also acknowledges its request
  let s := { s with mod := { s.mod with eth := s.mod.eth.filter fun e => !(e.part = o.part && e.route = i && e.packet.key = o.key) } }
  if !(p.cause = 0 && (n % 2 = 1 || accepted)) then
    (s.onRoute o.part i fun r => { r with state := .failed, fail := n / 2 }).faultOp o (mkFault 0x41 0)
  else if o.expected ≤ n + 1 then (s.onRoute o.part i fun r => { r with state := .trusted }).finishOp o 0 false false
  else (s.setOp o o').askSwitch o'

/-- R432, R436, R447: an answer: of a module to a put, a get or an add; of a switch of an entry to an attestation, where flag 4 says so, or
to a packet on its Ethernet port, which its number names within the entry. -/
def execPacketAcknowledge (lane : LaneRef) (p : Packet) (s : State) : Answer :=
  let (n, i) := p.entry
  let acknowledged (e : EthPacket) : Bool := e.part = n && e.route = i && e.packet.key = p.key && e.packet.number = p.number
  if p.kind != 5 then .fault .notEnabled
  else if p.src != switches then s.onPacket 5 lane p fun t n => t.receiveAnswer n p
  else if !p.flag 4 then .next { s with mod := { s.mod with eth := s.mod.eth.filter fun e => !acknowledged e } }
  else match (s.opOfKey n p.key).filter fun o => o.isAttest && o.id = i.val with
    | some o => .next (s.receiveSwitch o p)
    | none => .next s

/-! ## Limits (R434, R443, R447, R450) -/

/-- The operation of queue 6 whose limit has expired; that of a command cut by a forced pre-emption expires when it has been restored. -/
def State.overdueOp (s : State) : Option FabricOp := s.mod.ops.find? fun o => o.network && !o.cut && o.started + o.limit ≤ s.cycle

/-- R434, R443, R447: the limit of a fabric command expires. -/
def execFabricTimeLimit (s : State) : Answer :=
  match s.overdueOp with
  | none => .fault .notEnabled
  | some o =>
    let s := if o.isAttest then s.onRoute o.part (Fin.ofNat 64 o.id) fun r => { r with state := .failed, fail := o.received.length / 2 }
      else s
    .next (s.faultOp o (mkFault 0x40 0))

/-- What has waited for a lender's answer for too long: a walker's page, or a move. -/
inductive Overdue where
  | page (o : FabricOp)
  | move (n : Fin 16) (m : Move)

def State.overdueRead (s : State) : Option Overdue :=
  match s.mod.ops.find? fun o => !o.network && !o.met && o.started + o.limit ≤ s.cycle with
  | some o => some (.page o)
  | none => (s.poolWith fun _ p => p.moves.find? fun m => m.tier = 2 && !m.own && m.data.isNone && m.due ≤ s.cycle).map
      fun x => .move x.1 x.2

/-- The queue of a core that holds a started command. -/
def queueHolding (k : Core) (seq : Nat) : Fin 8 :=
  if k.queue[(7 : Fin 8)].started.any fun c => c.seq = seq then 7 else 2

/-- The promotions that wait for records of a partition are cut with a cause, each at its lowest page index among them (R427). -/
def State.faultPromotions (s : State) (n : Fin 16) (records : List Nat) (cause : Nat) : State :=
  let hit (c : Command) : List (Nat × Nat) :=
    if opOf c.image = 6 && c.fault.isNone then c.places.filter fun r => records.contains r.1 else []
  ((s.coresOf n).flatMap fun k => k.queue[(5 : Fin 8)].started.map fun c => (k, c)).foldl (fun t x =>
    match hit x.2 with
    | [] => t
    | rs =>
      let i := rs.foldl (fun i r => min i r.2) (2 ^ 32)
      t.faultWaiting x.1.die x.1.cluster x.1.number 5 x.2.seq (mkFault cause 0) fun c => { c with cursor := { c.cursor with entry := i } }) s

/-- A move out of a lender's frame asks for its page again (log entry 64). -/
def kvAskAgain (c : KvCtx) (m : Move) : KvM Unit := do
  kvOnPool c fun p => { p with moves := p.moves.map fun x => if x.record = m.record then { x with due := c.now + 2 ^ 24, buf := [], bad := [] } else x }
  (lendingData m.module 0 m.frame m.slot [] []).forM (kvSend c m.port)

/-- R450: a read of a REMOTE page has not been answered for 2^24 cycles: the walker's command faults at its entry, or a promotion at
its page index. The page stays in transit, and its data are asked for again (R406). -/
def execRemoteReadTimeout (s : State) : Answer :=
  match s.overdueRead with
  | none => .fault .notEnabled
  | some (.page o) =>
    let s := { s with mod := { s.mod with ops := s.mod.ops.filter fun x => !(!x.network && x.key = o.key) } }
    let q := match (s.core :: s.parked).find? fun k => k.die = o.die && k.cluster = o.cluster && k.number = o.core with
      | some k => queueHolding k o.seq
      | none => 7
    .next (s.faultWaiting o.die o.cluster o.core q o.seq (mkFault 0x40 0) id)
  | some (.move n m) =>
    match s.runKv (kvAskAgain (s.kvCtxOf n) m) with
    | .ok (_, t) => .next (t.faultPromotions n [m.record] 0x40)
    | .error _ => .next s

end Sys2Proof.Machine
end

