-- ==== Sys2Proof/Machine/Links.lean ====
section
/-! DEFINITION. Lending packets, lane groups that go down and come back, key ratchets and Ethernet resends (R388, R414, R415, R431,
R432, R450, R451). -/

namespace Sys2Proof.Machine

/-! ## Lending packets (R414, R415, R450) -/

/-- Fields of a lending packet (log entry 12). -/
def lendFrame (p : Packet) : Nat := p.field 0 4
def lendSlot (p : Packet) : Nat := p.field 4 1
def lendWhat (p : Packet) : Nat := p.field 5 1
def lendNotice (p : Packet) : Nat := p.field 6 4
def lendOffset (p : Packet) : Nat := p.field 8 4
def lendTotal (p : Packet) : Nat := p.field 12 4
/-- The poisoned 128-byte lines of its payload. -/
def lendBad (p : Packet) : List Nat := (List.range 64).filter (bitOf (p.field 16 8))

/-- A lent frame is the lender's again: its LENT_OUT record becomes FREE. -/
def kvTakeBack (c : KvCtx) (module frame : Nat) : KvM Unit := do
  let p ← kvPool c
  let rs := (← kvRecords c).filter fun r => r.2.state = 4 && r.2.lmod = module && r.2.frame = frame
  rs.forM fun r => kvWrite c (p.recAt r.1) (List.replicate 1024 0)
  kvOnPool c fun p => { p with lent := p.lent.filter fun l => !(l.module = module && l.frame = frame) }

/-- What a lending control packet that came in on a port does at the pool of its partition (R414, R415). -/
def kvLendingControl (c : KvCtx) (port : Nat) (p : Packet) : KvM Unit := do
  let frame := lendFrame p
  match (← get).parts[c.part].pool with
  | none => if lendWhat p = 1 || lendWhat p = 4 then kvSend c port (lendingControl p.src 3 frame 0) else return ()
  | some pool =>
    let mine (l : Loan) : Bool := l.module = p.src && l.frame = frame
    match lendWhat p with
    | 1 =>
      if pool.borrowed.length < pool.borrow then
        kvOnPool c fun q => { q with borrowed := q.borrowed ++ [⟨frame, [], [], p.src, port, true, none, 0⟩] }
        kvSend c port (lendingControl p.src 2 frame 0)
      else kvSend c port (lendingControl p.src 3 frame 0)
    | 2 => kvOnPool c fun q => { q with lent := q.lent.map fun l => if mine l then { l with answered := true } else l }
    | 3 => kvTakeBack c p.src frame
    | 4 =>
      if pool.borrowed.any mine then
        let mark (l : Loan) : Loan := if mine l then { l with recalled := some c.now, notice := lendNotice p } else l
        kvOnPool c fun q => { q with borrowed := q.borrowed.map mark }
        if lendNotice p = 0 then return () else kvOwnMove c
      else kvSend c port (lendingControl p.src 3 frame 0)
    | _ => return ()

/-- R450: a lending control packet. -/
def execPacketLendingControl (lane : LaneRef) (p : Packet) (s : State) : Answer :=
  s.onPacket 8 lane p fun s n =>
    match s.runKv (kvLendingControl (s.kvCtxOf n) lane.port.val p) with
    | .ok (_, t) => t
    | .error _ => s

/-- A part of a page of a borrowed frame comes to the walkers that read it, and to the move that brings it back, its poison with it
(R359). -/
def State.bringPage (s : State) (n : Fin 16) (p : Packet) : State :=
  let hit (m f sl : Nat) : Bool := m = p.src && f = lendFrame p && sl = lendSlot p
  let grow (old : List Byte) : List Byte := if old.length = lendOffset p then old ++ p.payload else old
  let worse (old : List Byte) (bad : List Nat) : List Nat :=
    if old.length = lendOffset p then bad ++ (lendBad p).map (lendOffset p / 128 + ·) else bad
  let op (o : FabricOp) : FabricOp :=
    if !o.network && o.part = n && !o.met && hit (o.ranks.getD 0 0) (o.ranks.getD 1 0) (o.ranks.getD 2 0) then
      let old := (o.received.headD (0, [])).2
      let bs := grow old
      { o with received := [(0, bs)], bad := worse old o.bad, met := lendTotal p ≤ bs.length }
    else o
  let move (m : Move) : Move :=
    if m.tier = 2 && !m.own && m.data.isNone && hit m.module m.frame m.slot then
      let bs := grow m.buf
      { m with buf := bs, bad := worse m.buf m.bad, data := if lendTotal p ≤ bs.length then some bs else none }
    else m
  let part := s.mod.parts[n]
  let pool := part.pool.map fun (q : Pool) => { q with moves := q.moves.map move }
  { s with mod := { s.mod with ops := s.mod.ops.map op, parts := s.mod.parts.set n { part with pool := pool } } }

/-- R450: lending data: a read of a lent frame is answered, data for one are placed, data of a borrowed one are taken in. -/
def execPacketLendingData (lane : LaneRef) (p : Packet) (s : State) : Answer :=
  s.onPacket 9 lane p fun s n =>
    let c := s.kvCtxOf n
    let lent : Bool := (s.mod.parts[n].pool.map fun q => q.lent.any fun l => l.module = p.src && l.frame = lendFrame p).getD false
    let step : KvM Unit := do
      let q ← kvPool c
      let at_ := q.frameAt (lendFrame p) + 4608 * lendSlot p
      if lendWhat p = 0 then
        let (bs, bad) ← kvReadLines c at_ (4608 * (4 - lendSlot p))
        (lendingData p.src 2 (lendFrame p) (lendSlot p) bs bad).forM (kvSend c lane.port.val)
      else kvWriteLines c (at_ + lendOffset p) p.payload (lendBad p)
    if lendWhat p = 2 then s.bringPage n p
    else if !lent then s
    else match s.runKv step with
      | .ok (_, t) => t
      | .error _ => s

/-! ## Lane groups (R431, R450, R451) -/

def State.onLane (s : State) (l : LaneRef) (g : Lane → Lane) : State :=
  let i := LaneRef.index l
  { s with mod := { s.mod with lanes := s.mod.lanes.set i (g s.mod.lanes[i]) } }

/-- Every lane group of a port is down (R450): the pages in frames that the port lent become ABSENT, those in transit out of one too
(log entry 64), and the frames lent over it are free again. -/
def kvPortDown (c : KvCtx) (port : Nat) : KvM Unit := do
  let p ← kvPool c
  (p.borrowed.filter fun l => l.port = port).forM fun l => do
    (← kvInFrame c l).forM fun r => kvPutPage c r.1 r.2.drop
  kvOnPool c fun q => { q with
    borrowed := q.borrowed.filter fun l => l.port != port
    moves := q.moves.filter fun m => !(m.tier = 2 && m.port = port) }
  (p.lent.filter fun l => l.port = port).forM fun l => kvTakeBack c l.module l.frame

/-- The moves that await a lender's answer over a port. -/
def State.awaiting (s : State) (n : Fin 16) (port : Fin 6) : List Move :=
  ((s.mod.parts[n].pool.map (·.moves)).getD []).filter fun m => m.tier = 2 && !m.own && m.data.isNone && m.port = port.val

/-- The commands that have lost packets on a lane group are faulted with a cause (R431, R451): the fabric commands whose packets it took
and that are not answered; and, where its key is destroyed, the walkers and promotions that await a page over its port (R427). An
in-network collective falls back instead where no tag failed (R448). Which packets were delivered cannot be told at this end: all that are
unanswered count as lost (DESIGN CHOICE, log entry 128). -/
def State.faultLost (s : State) (n : Fin 16) (l : LaneRef) (tag : Bool) (cause : Nat) : State :=
  let f := mkFault cause 0
  let i := (LaneRef.index l).val
  let s := (s.mod.ops.filter fun o => o.network && o.part = n && o.lanes.contains i).foldl (fun t o =>
    if cause != 0x41 && o.innet then t.setOp o { o with lost := true } else t.faultOp o f) s
  if !tag then s
  else
    let port (o : FabricOp) : Nat :=
      (s.mod.parts[n].pool.map fun p => p.portOf (o.ranks.getD 0 0) (o.ranks.getD 1 0)).getD 0
    let reads := s.mod.ops.filter fun o => !o.network && o.part = n && !o.met && port o = l.port.val
    let s := reads.foldl (fun t o =>
      let q := match (t.core :: t.parked).find? fun k => k.die = o.die && k.cluster = o.cluster && k.number = o.core with
        | some k => queueHolding k o.seq
        | none => 7
      State.faultWaiting { t with mod := { t.mod with ops := t.mod.ops.filter fun x => !(!x.network && x.key = o.key) } }
        o.die o.cluster o.core q o.seq f id) s
    let ms := s.awaiting n l.port
    let s := ms.foldl (fun t m => match t.runKv (kvAskAgain (t.kvCtxOf n) m) with
      | .ok (_, u) => u
      | .error _ => t) s
    s.faultPromotions n (ms.map (·.record)) cause

/-- A lane group goes down with a cause, and with `tag` loses its key until a new job key comes (R431): it is reported to its owner, and
the lending over its port ends when it was the last (R450, R451). -/
def State.laneDown (s : State) (l : LaneRef) (tag : Bool) (cause : Nat) : State :=
  let i := LaneRef.index l
  let s := s.onLane l fun x =>
    { x with up := false, tagFailed := x.tagFailed || tag, key := if tag then [] else x.key, retries := 0 }
  match laneOwner s.mod i with
  | none => s
  | some n =>
    let s := { s with mod := { s.mod with
      controllerReports := (some n, BitVec.ofNat 8 cause) :: s.mod.controllerReports } }
    let s := s.faultLost n l tag cause
    if (lanesUp s.mod s.mod.parts[n] l.port).isEmpty && s.mod.parts[n].pool.isSome then
      let waiting := (s.awaiting n l.port).map (·.record)
      match s.runKv (kvPortDown (s.kvCtxOf n) l.port.val) with
      | .ok (_, t) => t.faultPromotions n waiting cause
      | .error _ => s
    else s

/-- The tag of a switch's reduction packet fails: its entry, where it is TRUSTED, becomes FAILED with fail = 7 (R447). -/
def State.failReduction (s : State) (p : Packet) : State :=
  let (n, i) := p.entry
  if s.mod.parts[n].routes[i].state = .trusted then s.leaveTrust n i fun r => { r with state := .failed, fail := 7 } else s

/-- Whether a command of partition n has lost a packet of its lane group that came for this module (R431, R451): an answer to it, or a
join or data of its collective. -/
def State.losesPacket (s : State) (n : Fin 16) (p : Packet) (o : FabricOp) : Bool :=
  o.network && o.part = n && p.dst = s.mod.parts[n].jobSelf &&
    ((p.kind = 3 || p.kind = 5) && o.key = p.key ||
      (p.kind = 6 || p.kind = 7) && o.isColl && o.die.val = p.die && o.id = p.key && o.hash.take 8 = p.payload.take 8)

/-- R431, R447: a packet whose tag fails, or whose type is reserved, is dropped. A switch's fails its route trust entry. Another's takes its
lane group down, whose link key is destroyed; a command that has lost it faults `FABRIC_AUTH` for a tag and `FABRIC_TIMEOUT` for a
type. Without its key a lane group comes back only under a new job key (for a type DESIGN CHOICE, log entry 128). -/
def execPacketAuthFail (lane : LanePacket) (s : State) : Answer :=
  let p := lane.packet
  let cause := if p.kind = 0 || 9 < p.kind then 0x40 else 0x41
  if p.kind = 7 && p.flag 3 then .next (s.failReduction p)
  else
    let t := s.laneDown lane.lane true cause
    match laneOwner s.mod (LaneRef.index lane.lane) with
    | none => .next t
    | some n => .next ((t.mod.ops.filter (t.losesPacket n p)).foldl (fun t o => t.faultOp o (mkFault cause 0)) t)

/-- R431: a flit's CRC fails and it is resent; the sixteenth failure in a row takes the lane group down. -/
def execFlitRetry (lane : LaneRef) (s : State) : Answer :=
  let x := s.mod.lanes[LaneRef.index lane]
  if !x.up then .next s
  else if 16 ≤ x.retries + 1 then .next (s.laneDown lane false 0x40)
  else .next (s.onLane lane fun x => { x with retries := x.retries + 1 })

/-- R431: no valid flit has come for 2^20 cycles while the other end owes one. -/
def execLaneIdleTimeout (lane : LaneRef) (s : State) : Answer :=
  let x := s.mod.lanes[LaneRef.index lane]
  if x.up && x.heard + 2 ^ 20 ≤ s.cycle then .next (s.laneDown lane false 0x40) else .next s

/-- R431: a lane group comes back: after retraining with its ratchet state, or, after a tag failure, only under a new job key. -/
def execLaneGroupUp (lane : LaneRef) (s : State) : Answer :=
  let x := s.mod.lanes[LaneRef.index lane]
  if x.tagFailed && x.key.isEmpty then .next s
  else .next (s.onLane lane fun x => { x with up := true, tagFailed := false, retries := 0, heard := s.cycle })

/-- R388: the link key is ratcheted after packet 2^32 − 1 of its epoch, sent or received; the key before it is destroyed. -/
def execLinkKeyRatchet (lane : LaneRef) (s : State) : Answer :=
  if s.mod.lanes[LaneRef.index lane].ended then .next (s.onLane lane Lane.ratchet) else .fault .notEnabled

/-- The lane group whose key is to be ratcheted. -/
def State.ratchetDue (s : State) : Option LaneRef :=
  ((List.finRange 6).flatMap fun p => (List.finRange 4).map fun g => (⟨p, g⟩ : LaneRef)).find? fun l =>
    s.mod.lanes[LaneRef.index l].ended

/-- The first packet of an Ethernet port that has not been acknowledged for 2^16 cycles (R432). -/
def State.unacknowledged (s : State) (port : Fin 8) : Option EthPacket :=
  s.mod.eth.find? fun e => s.mod.parts[e.part].routes[e.route].port = port.val && e.sentAt + 2 ^ 16 ≤ s.cycle

/-- R432, R448: an unacknowledged Ethernet packet is resent, up to 8 times; then its collective has lost its route. -/
def execEthResendTimeout (port : Fin 8) (s : State) : Answer :=
  match s.unacknowledged port with
  | none => .fault .notEnabled
  | some e =>
    if e.resends < 8 then
      .next { s with mod := { s.mod with
        sent := s.mod.sent ++ [e.packet]
        eth := s.mod.eth.map fun x => if x = e then { e with sentAt := s.cycle, resends := e.resends + 1 } else x } }
    else
      let lost (o : FabricOp) : FabricOp := if e.isOf o && o.innet then { o with lost := true } else o
      .next { s with mod := { s.mod with eth := s.mod.eth.filter (· != e), ops := s.mod.ops.map lost } }

end Sys2Proof.Machine
end

