-- ==== Sys2Proof/Machine/Partition.lean ====
section
/-! DEFINITION. Partitions: creation, teardown, reset and scrub; the job record and the mordant binding (R381 to R383, R386, R390,
R399, R416, R428, R446, R458). -/

namespace Sys2Proof.Machine

def State.onPart (s : State) (n : Fin 16) (g : Partition → Partition) : State :=
  { s with mod := { s.mod with parts := s.mod.parts.set n (g s.mod.parts[n]) } }

/-! ## Descriptors (R382, R383) -/

/-- A field of the descriptor, as a number. -/
def Partition.descField (p : Partition) (o n : Nat) : Nat := natOfBytes ((p.desc.drop o).take n)

/-- How many of the first n bits of a number are set. -/
def popcount (n v : Nat) : Nat := ((List.range n).filter (bitOf v)).length

def Partition.clusterCount (p : Partition) : Nat := popcount 144 (p.descField 0 18)
def Partition.groupCount (p : Partition) : Nat := popcount 384 (p.descField 24 48)

/-- Bytes of the save area of R386. -/
def Partition.saveArea (p : Partition) : Nat :=
  2 * 6352768 * (8 * p.clusterCount) + 4288 * p.quota * 48 + 72 * (8 * p.clusterCount) + 65536 * p.clusterCount

/-- Whether two descriptors name a resource in common: clusters, channel groups, lane groups and ports, virtual functions, granules. -/
def Partition.clashes (p q : Partition) : Bool :=
  (p.descField 0 18 &&& q.descField 0 18) != 0 || (p.descField 24 48 &&& q.descField 24 48) != 0 ||
  (p.descField 72 8 &&& q.descField 72 8) != 0 || (p.descField 80 16 &&& q.descField 80 16) != 0 ||
  (p.poolSize != 0 && q.poolSize != 0 && p.poolBase < q.poolBase + q.poolSize && q.poolBase < p.poolBase + p.poolSize)

/-- What R382 asks of a descriptor by itself: reserved bits zero, DEBUG only without PROT, channel groups only on dies with a cluster of
the partition, a quota and a pool share within their bounds, room for the save area, and the root in a channel group of its own. -/
def Partition.descOk (p : Partition) : Bool :=
  p.descField 18 6 = 0 && p.descField 98 1 = 0 && p.descField 112 16 = 0 && p.descField 76 4 = 0 && p.flagsByte < 4 && p.descField 102 2 = 0 &&
  !(p.prot && p.debug) &&
  (List.range 384).all (fun g => !p.hasGroup g || p.onDie (g / 16)) &&
  p.quota ≤ 4096 && (p.poolSize = 0 || p.poolBase + p.poolSize ≤ 65536) &&
  p.saveArea ≤ p.groupCount * 0x200000000 &&
  p.proot.toNat < 0x30000000000 && p.hasGroup (p.proot.toNat / 0x200000000)

/-- Whether CREATE may take a partition's descriptor: nothing that it names is held, and the waiter quotas of a base die sum to at most
4,096. -/
def Module.creatable (m : Module) (n : Fin 16) : Bool :=
  let p := m.parts[n]
  let held := ((List.finRange 16).filter fun q => q != n && m.parts[q].state != .free).map fun q => m.parts[q]
  p.descOk && held.all (fun q => !p.clashes q) && (held.map Partition.quota).foldl (· + ·) p.quota ≤ 4096

/-! ## Resources -/

/-- The channel group of HBM that a physical address lies in belongs to the partition. -/
def Partition.ownsHbm (p : Partition) (pa : Nat) : Bool := pa < statusBase && p.hasGroup (pa / 0x200000000)
/-- An address lies in the partition's CXL pool share (R458). -/
def Partition.ownsCxl (p : Partition) (pa : Nat) : Bool :=
  cxlBase ≤ pa && p.poolBase ≤ (pa - cxlBase) / 2 ^ 30 && (pa - cxlBase) / 2 ^ 30 < p.poolBase + p.poolSize

/-- Removes the contents of the addresses that a test names: they read as zero. -/
def Module.erase (m : Module) (hit : Nat → Bool) : Module :=
  { m with mem := m.mem.filter fun c => !hit c.1, poison := m.poison.filter fun l => !hit (128 * l) }

/-- Scrubs HBM: what a test names reads as zero, under no key. -/
def Module.scrubHbm (m : Module) (hit : Nat → Bool) : Module :=
  { m.erase hit with restored := m.restored.filter fun r => !hit (r.1 * 0x200000000) }

/-- Resets every cluster of the partition, its cores and controllers. -/
def State.resetClusters (s : State) (p : Partition) : State :=
  let fix (k : Core) : Core :=
    if p.hasCluster (6 * k.die.val + k.cluster.val) then { Core.reset k.die k.cluster k.number with since := k.since } else k
  let fixC (c : Cluster) : Cluster :=
    if p.hasCluster (6 * c.die.val + c.number.val) then { Cluster.reset c.die c.number with since := c.since } else c
  { s with core := fix s.core, parked := s.parked.map fix, ctl := fixC s.ctl, parkedCl := s.parkedCl.map fixC }

/-- Drops the waiters, cached translations and fabric operations of a partition (R383, R390). -/
def Module.dropWork (m : Module) (n : Fin 16) : Module :=
  { m with
    waiters := m.waiters.filter fun w => w.part != n
    tlb := m.tlb.filter fun t => t.part != n
    ops := m.ops.filter fun o => o.part != n
    joins := m.joins.filter fun j => j.part != n
    held := m.held.filter fun h => h.part != n
    arrived := m.arrived.filter fun a => a.part != n
    eth := m.eth.filter fun e => e.part != n }

/-- The pool ends (R399): every frame lent out is recalled with zero notice, and every borrowed one is returned. -/
def State.endPool (s : State) (n : Fin 16) : State :=
  match s.mod.parts[n].pool with
  | none => s
  | some q =>
    let out := (q.lent.map fun l => (l.port, lendingControl l.module 4 l.frame 0)) ++
      q.borrowed.map fun l => (l.port, lendingControl l.module 3 l.frame 0)
    let s := { s with mod := out.foldl (fun m (p : Nat × Packet) => sendVia m n (Fin.ofNat 6 p.1) p.2) s.mod }
    s.onPart n fun p => { p with pool := none }

def emptyRoutes : Vector Route 64 := Vector.replicate 64 ⟨.empty, 0, 0, 0, 0, 0, [], []⟩

/-- A partition leaves its job: its routes are reset (R446), and each in-network collective of it has lost its own (R447). -/
def State.leaveJob (s : State) (n : Fin 16) : State :=
  let s := s.onPart n fun p => { p with routes := emptyRoutes }
  { s with mod := { s.mod with ops := s.mod.ops.map fun o => if o.isColl && o.innet && o.part = n then { o with lost := true } else o } }

/-- The pool, the binding, the job record and the routes of a partition end (R399, R416, R428, R446). -/
def State.endJob (s : State) (n : Fin 16) : State :=
  (s.endPool n).onPart n fun p => { p with binding := [], job := [], routes := emptyRoutes }

/-! ## Commands of the physical function (R383) -/

/-- The result of a command in the state word. -/
def State.partResult (s : State) (n : Fin 16) (r : Byte) : State := s.onPart n fun p => { p with result := r }

/-! ## Ciphertext (R385) -/

/-- Bytes of a channel group (R336). -/
def groupBytes : Nat := 0x200000000

/-- The channel groups of a partition, in ascending order. -/
def Partition.groups (p : Partition) : List Nat := (List.range 384).filter p.hasGroup

/-- The ciphertext of the sector at a physical address under a key, which is a draw of the DRBG. The model's tweak is the sector's place in
HBM: R385's page identifier belongs to a mapping, which a channel group outside a LIVE partition has not (DESIGN CHOICE, log entry 130). -/
def sealSector (key pa : Nat) (plain : List Byte) : List Byte := padTo 512 (Config.sectorCipher (Config.drbg key) (pa / 512) plain)

/-- What a sector of ciphertext reads as under a key. `before` is the plaintext where the ciphertext was made from it. -/
def openSector (key pa : Nat) (cipher before : List Byte) : List Byte :=
  if sealSector key pa before = cipher then before else padTo 512 (Config.sectorPlain (Config.drbg key) (pa / 512) cipher)

/-- Rewrites the sectors of a channel group by a function of each sector's address and bytes. -/
def Module.mapGroup (m : Module) (g : Nat) (f : Nat → List Byte → List Byte) : Module :=
  (List.range (groupBytes / 512)).foldl (fun m i =>
    let pa := g * groupBytes + 512 * i
    { m with mem := m.mem.write pa (f pa (m.mem.read pa 512)) }) m

/-- A channel group that a RESTORE left sealed under one key is read under another. -/
def Module.rekey (m : Module) (g old new : Nat) : Module :=
  if old = new then m else m.mapGroup g fun pa bs => openSector new pa (sealSector old pa bs) bs

/-- The restored channel groups among a partition's come under its key. -/
def Module.takeRestored (m : Module) (p : Partition) (key : Nat) : Module :=
  let m := (m.restored.filter fun r => p.hasGroup r.1).foldl (fun m r => m.rekey r.1 r.2 key) m
  { m with restored := m.restored.filter fun r => !p.hasGroup r.1 }

/-- CREATE: new keys, but for a partition that a RESTORE filled, whose memory is under the key restored (R393, log entry 108). -/
def State.createPartition (s : State) (n : Fin 16) : State :=
  if s.mod.parts[n].state != .free then s.partResult n 0x02
  else if !s.mod.creatable n then s.partResult n 0x01
  else
    let p := s.mod.parts[n]
    let key := p.dataKey.getD s.mod.draws
    let m := (s.mod.erase p.ownsCxl).takeRestored p key
    let vfs := Vector.ofFn fun (v : Fin 128) => if p.hasVf v.val then .reset else m.vfs[v]
    let status := Vector.ofFn fun (i : Fin 384) => if i.val % 16 = n.val then 0 else m.status[i]
    { s with mod := { m with
        vfs := vfs, status := status, raised := m.raised.filter fun r => r.1.val % 16 != n.val, draws := m.draws + 2
        parts := m.parts.set n { Partition.reset with
          state := .live, desc := p.desc, proot := p.proot
          dataKey := some key, attestKey := some (m.draws + 1) } } }

/-- The stacks in which a partition has channel groups, as die × 2 + stack. -/
def Partition.stacks (p : Partition) : List Nat := (List.range 48).filter fun i => (List.range 8).any fun g => p.hasGroup (8 * i + g)
/-- The channels of a partition in a stack. -/
def Partition.channels (p : Partition) (i : Nat) : Nat := 4 * ((List.range 8).filter fun g => p.hasGroup (8 * i + g)).length

/-- After a conventional reset, and after power-up, the physical function waits for the last scrub (R396). -/
def State.scrubOver (s : State) : State :=
  { s with mod := { s.mod with
      scrubbed := s.mod.scrubbed || (s.mod.powered && s.mod.powerScrub.isEmpty && s.mod.parts.toList.all fun p => p.state != .scrubbing) } }

/-- The last channel of every stack is complete: the resources are released, and what was scrubbed reads as zero (R390). -/
def State.endScrub (s : State) (n : Fin 16) : State :=
  let p := s.mod.parts[n]
  if p.state = .scrubbing && p.scrub.all fun r => p.channels r.1 ≤ r.2 then
    let s := ({ s with mod := s.mod.scrubHbm p.ownsHbm } : State).onPart n fun p => { p with state := .free, scrub := [] }
    s.scrubOver
  else s

/-- The lane groups of a partition lose their link keys, which live as long as its job (R387). -/
def Module.unkeyLanes (m : Module) (p : Partition) : Module :=
  { m with lanes := Vector.ofFn fun (i : Fin 24) => if p.hasLane i.val then { m.lanes[i] with key := [] } else m.lanes[i] }

/-- A LIVE partition's keys are destroyed, what it held is removed, and its scrub starts (R390). -/
def State.tearDown (s : State) (n : Fin 16) : State :=
  let s := s.onPart n fun p => { p with dataKey := none, attestKey := none, jobKey := none }
  let s := { s with mod := s.mod.unkeyLanes s.mod.parts[n] }
  let s := s.endJob n
  let p := s.mod.parts[n]
  let s := s.resetClusters p
  let m := s.mod.dropWork n
  let s := { s with mod := { m with
    l2 := m.l2.filter fun l => l.part != n
    gone := m.gone.filter fun t => t.1 != n
    rdc := m.rdc.filter fun r => !(p.ownsHbm (128 * r.line) || p.ownsCxl (128 * r.line)) } }
  (s.onPart n fun p => { p with state := .scrubbing, scrub := p.stacks.map fun i => (i, 0) }).endScrub n

def State.teardownPartition (s : State) (n : Fin 16) : State :=
  if s.mod.parts[n].state != .live then s.partResult n 0x02 else (s.partResult n 0x00).tearDown n

/-- The lane groups of a partition come up again; one whose tag failed stays down until a new job key (R431). -/
def Module.resetLanes (m : Module) (p : Partition) : Module :=
  { m with lanes := Vector.ofFn fun (i : Fin 24) =>
    let x := m.lanes[i]
    if p.hasLane i.val && !x.tagFailed then { x with up := true, retries := 0 } else x }

def State.resetPartition (s : State) (n : Fin 16) : State :=
  if s.mod.parts[n].state != .live then s.partResult n 0x02
  else
    let s := ((s.partResult n 0x00).endJob n).resetClusters s.mod.parts[n]
    { s with mod := (s.mod.dropWork n).resetLanes s.mod.parts[n] }

/-- Whether the module answers its physical function: it is powered, and the scrub of its last reset is complete (R396). -/
def Module.ready (m : Module) : Bool := m.powered && m.scrubbed

/-- R383: CREATE. -/
def execPartitionCreate (part : Fin 16) (s : State) : Answer := .next (if s.mod.ready then s.createPartition part else s)

/-- R383, R390: TEARDOWN. -/
def execPartitionTeardown (part : Fin 16) (s : State) : Answer := .next (if s.mod.ready then s.teardownPartition part else s)

/-- R383: RESET. -/
def execPartitionReset (part : Fin 16) (s : State) : Answer := .next (if s.mod.ready then s.resetPartition part else s)

/-- The scrub after power-up covers the 32 channels of every stack of the module (R391, R396). -/
def allStacks : List (Nat × Nat) := (List.range 48).map fun i => (i, 0)

/-- A channel more of a stack is complete in the scrub after power-up; a stack that is complete leaves the list. -/
def powerScrubAfter (l : List (Nat × Nat)) (i : Nat) : List (Nat × Nat) :=
  (l.map fun r => if r.1 = i then (i, r.2 + 1) else r).filter fun r => r.2 < 32

/-- R390, R391: the next channel of a stack is scrubbed, for a partition that is SCRUBBING or, with no partition concerned, in the scrub that
follows power-up. -/
def execChannelScrubDone (part : Fin 16) (die : Fin 24) (stack : Fin 2) (s : State) : Answer :=
  let i := 2 * die.val + stack.val
  let p := s.mod.parts[part]
  if p.state = .scrubbing && p.scrub.any fun r => r.1 = i && r.2 < p.channels i then
    .next ((s.onPart part fun p => { p with scrub := p.scrub.map fun r => if r.1 = i then (i, r.2 + 1) else r }).endScrub part)
  else if s.mod.powerScrub.any fun r => r.1 = i then
    .next (State.scrubOver { s with mod := { s.mod with powerScrub := powerScrubAfter s.mod.powerScrub i } })
  else .fault .notEnabled

/-! ## The key service (R416, R428) -/

/-- The lane groups of a partition take the link keys K(0) of a new job key (R387, R388). -/
def Module.keyLanes (m : Module) (p : Partition) : Module :=
  { m with lanes := Vector.ofFn fun (i : Fin 24) =>
    let x := m.lanes[i]
    if p.hasLane i.val then { x with key := p.linkKey i, epoch := 0, sent := 0, received := 0 } else x }

/-- R428: the job record and the job key, in the partition's secured session; a record of another job, or of none, leaves the old one. -/
def execJobRecordWrite (part : Fin 16) (record : List Byte) (key : List Byte) (s : State) : Answer :=
  if s.mod.parts[part].state != .live then .next s
  else
    let r := padTo 2048 record
    if bytesAt r 0 8 = 0 then
      let s := (s.leaveJob part).onPart part fun p => { p with job := [], jobKey := none }
      .next { s with mod := s.mod.unkeyLanes s.mod.parts[part] }
    else
      let fresh : Bool := s.mod.parts[part].jobKey != some (padTo 32 key)
      let s := if s.mod.parts[part].jobId = bytesAt r 0 8 then s else s.leaveJob part
      let s := s.onPart part fun p => { p with job := r, jobKey := some (padTo 32 key) }
      .next (if fresh then { s with mod := s.mod.keyLanes s.mod.parts[part] } else s)

/-- R416: the mordant binding, in the partition's secured session. -/
def execMordantBindingWrite (part : Fin 16) (binding : List Byte) (s : State) : Answer :=
  .next (if s.mod.parts[part].state = .live then s.onPart part fun p => { p with binding := padTo 624 binding } else s)

end Sys2Proof.Machine
end

