-- ==== Sys2Proof/Machine/Checkpoint.lean ====
section
/-! DEFINITION. The checkpoint engine (R392, R393). -/

namespace Sys2Proof.Machine

def State.onCkpt (s : State) (g : Checkpoint → Checkpoint) : State := { s with mod := { s.mod with ckpt := g s.mod.ckpt } }

/-- The partition that ckctl names. -/
def Checkpoint.part (c : Checkpoint) : Fin 16 := Fin.ofNat 16 (bitsOf c.ctl.toNat 4 4)
def Checkpoint.op (c : Checkpoint) : Nat := bitsOf c.ctl.toNat 0 2

/-- ckctl as an operation on a partition sets it. -/
def ckctlOf (op : Nat) (n : Fin 16) : Word := BitVec.ofNat 64 (op + 16 * n.val)

/-- The engine fails with a code, nothing copied. -/
def State.ckptFail (s : State) (code : Byte) : State := s.onCkpt fun c => { c with phase := 3, code := code, done := 0 }

/-- The causes of R7 that can be reported of a failure: not 0x31 and 0x50, which R7 has in reports to the partition controller and in
completion records only. -/
def failureCodes : List Byte :=
  [0x01, 0x02, 0x03, 0x04, 0x05, 0x06, 0x07, 0x08, 0x09, 0x0A, 0x0B, 0x0C, 0x10, 0x11, 0x12, 0x13, 0x14, 0x15, 0x18, 0x19, 0x1A, 0x20, 0x21,
   0x22, 0x23, 0x24, 0x25, 0x26, 0x28, 0x29, 0x30, 0x38, 0x39, 0x40, 0x41, 0x42]

/-- A failure whose cause the spec does not state: a free one of R7's (log entry 2). -/
def State.ckptFailFree (s : State) : State :=
  let i := (Config.freeWord s.draw).toNat % failureCodes.length
  { s.ckptFail (failureCodes.getD i 0x15) with draw := s.draw + 1 }

/-- Every core of the partition is free, and every controller is stopped or idle (R393). -/
def State.quiesced (s : State) (p : Partition) : Bool :=
  s.cores.all (fun k => !p.hasCluster (6 * k.die.val + k.cluster.val) || k.task.isNone) &&
  s.clusters.all fun c => !p.hasCluster (6 * c.die.val + c.number.val) || c.stopped || c.c.run = .idle

/-! ## The region of the safe tier (R393) -/

/-- The physical address of a region: pool addresses count from the start of the pool window (DESIGN CHOICE, log entry 130). -/
def Checkpoint.base (c : Checkpoint) : Nat := cxlBase + c.dst.toNat

/-- Writes a run of whole lines, with the poison of the lines that it comes from. -/
def Module.putSector (m : Module) (pa : Nat) (bs : List Byte) (bad : List Nat) : Module :=
  let m := m.erase fun a => pa ≤ a && a < pa + bs.length
  { m with mem := m.mem.write pa bs, poison := bad.foldl (fun p l => insertNat l p) m.poison }

/-- The poisoned lines of a run of bytes, moved to another place. -/
def movedPoison (bad : List Nat) (src dst n : Nat) : List Nat :=
  (bad.filter fun l => src ≤ 128 * l && 128 * l < src + n).map fun l => l + dst / 128 - src / 128

/-- Copies a channel group to its place in a region as ciphertext under a key (R385, R393). -/
def Module.sealGroup (m : Module) (key g dst : Nat) : Module :=
  (List.range (groupBytes / 512)).foldl (fun m i =>
    let pa := g * groupBytes + 512 * i
    m.putSector (dst + 512 * i) (sealSector key pa (m.mem.read pa 512)) (movedPoison m.poison pa (dst + 512 * i) 512)) m

/-- Copies the first k channel groups of a partition to a region. -/
def Module.copyOut (m : Module) (p : Partition) (base k : Nat) : Module :=
  ((p.groups.take k).zipIdx).foldl (fun m g => m.sealGroup (p.dataKey.getD 0) g.1 (base + g.2 * groupBytes)) m

/-- Copies a group of a region back: it reads under the key handed for it, `r` being what the region was made from. -/
def Module.openGroup (m : Module) (key g src : Nat) (r : SafeRegion) : Module :=
  (List.range (groupBytes / 512)).foldl (fun m i =>
    let pa := g * groupBytes + 512 * i
    let bs := openSector key pa (m.mem.read (src + 512 * i) 512) (r.plain.read pa 512)
    m.putSector pa bs (movedPoison m.poison (src + 512 * i) pa 512)) m

/-- Copies a region back; its groups stay under the key that was restored until a CREATE takes them. -/
def Module.copyBack (m : Module) (p : Partition) (base key : Nat) (r : SafeRegion) : Module :=
  let m := p.groups.zipIdx.foldl (fun m g => m.openGroup key g.1 (base + g.2 * groupBytes) r) m
  { m with restored := p.groups.map (fun g => (g, key)) ++ m.restored.filter fun x => !p.hasGroup x.1 }

/-- The digest of a channel group as a region holds it. -/
def Module.groupDigest (m : Module) (base i : Nat) : List Byte := sha3 (m.mem.read (base + i * groupBytes) groupBytes)

/-- What a manifest signs: the descriptor, the digests, the data key encapsulated to the recipient's key, and the signer's public key. The
spec gives it no layout (log entry 130). -/
def State.manifestBody (s : State) (n : Fin 16) (base : Nat) : List Byte :=
  let p := s.mod.parts[n]
  let recipient := s.mod.mem.read (cxlBase + s.mod.ckpt.rcpt.toNat) 1568
  padTo 128 p.desc ++ (List.range p.groups.length).flatMap (s.mod.groupDigest base) ++
    padTo 1568 (Config.encapsulate recipient (bytesOfNat 64 ((p.dataKey.map fun k => (Config.drbg k).toNat).getD 0))) ++
    padTo 2592 (Config.publicKey p.attestSeed)

/-- Bytes of what a manifest of k groups signs. -/
def manifestBytes (k : Nat) : Nat := 128 + 64 * k + 1568 + 2592

/-- The manifest: what is signed, and the signature. -/
def State.manifest (s : State) (n : Fin 16) (base : Nat) : List Byte :=
  let body := s.manifestBody n base
  body ++ padTo 4627 (Config.sign s.mod.parts[n].attestSeed body)

/-- Where the manifest of a region stands: after the groups. -/
def manifestAt (p : Partition) (base : Nat) : Nat := base + p.groups.length * groupBytes

/-- Whether a region and its manifest lie in the pool window. -/
def Partition.fits (p : Partition) (dst : Nat) : Bool :=
  dst + p.groups.length * groupBytes + manifestBytes p.groups.length + 4627 ≤ 2 ^ 46

/-- HBM of a FREE partition's descriptor that no other partition holds. -/
def Module.unheld (m : Module) (n : Fin 16) (pa : Nat) : Bool :=
  m.parts[n].ownsHbm pa && (List.finRange 16).all fun q => q = n || m.parts[q].state = .free || !m.parts[q].ownsHbm pa

/-- A target's memory after a failed restore: scrubbed (R393). -/
def State.scrubTarget (s : State) (n : Fin 16) : State :=
  if s.mod.parts[n].state = .free then { s with mod := s.mod.scrubHbm (s.mod.unheld n) } else s

/-- The start of an operation on a partition; one that runs goes on. A restore needs a FREE partition with the region's descriptor whose
resources nothing holds. -/
def State.ckptStart (s : State) (op : Nat) (n : Fin 16) : State :=
  if s.mod.ckpt.phase = 1 then s else
  let s := s.onCkpt fun c => { c with ctl := ckctlOf op n, phase := 1, code := 0, done := 0 }
  let p := s.mod.parts[n]
  if op = 1 then (if p.state = .live && s.quiesced p then (if p.fits s.mod.ckpt.dst.toNat then s else s.ckptFailFree) else s.ckptFail 0x38)
  else if p.state = .free && s.mod.creatable n && p.fits s.mod.ckpt.dst.toNat &&
      s.mod.mem.read (manifestAt p s.mod.ckpt.base) 128 = padTo 128 p.desc then s
  else (s.scrubTarget n).ckptFailFree

/-- What the memory and the save area of a partition hold, for a region. -/
def State.savedWork (s : State) (n : Fin 16) : SafeRegion :=
  let mine := s.clusters.filter fun c => s.mod.parts[n].hasCluster (6 * c.die.val + c.number.val)
  let own := s.mod.parts[n].ownsHbm
  ⟨s.mod.ckpt.dst.toNat, s.mod.mem.filter fun c => own c.1, s.mod.poison.filter fun l => own (128 * l), mine.map fun c => (6 * c.die.val + c.number.val, c.resumed), mine.map fun c => (6 * c.die.val + c.number.val, c.conts)⟩

/-- Ends an operation: its phase, its code, and the channel groups copied. -/
def State.ckptEnd (s : State) (phase : Nat) (code : Byte) (done : Nat) : State :=
  s.onCkpt fun c => { c with phase := phase, code := code, done := done }

/-- A region no longer stands for a save area. -/
def State.dropRegion (s : State) : State := s.onCkpt fun c => { c with regions := c.regions.filter fun r => r.dst != c.dst.toNat }

/-- The save of a partition: its groups, then the manifest, and with them its save area. -/
def State.saveRegion (s : State) (n : Fin 16) : State :=
  let p := s.mod.parts[n]
  let base := s.mod.ckpt.base
  let work := s.savedWork n
  let s := { s.dropRegion with mod := s.dropRegion.mod.copyOut p base p.groups.length }
  let bs := s.manifest n base
  let m := s.mod.erase fun a => manifestAt p base ≤ a && a < manifestAt p base + bs.length
  let s := { s with mod := { m with mem := m.mem.write (manifestAt p base) bs } }
  s.onCkpt fun c => { c with regions := work :: c.regions }

/-- What a restore finds: 0, `KV_MORDANT` for a bad signature, `STREAM_MALFORMED` for a bad digest. -/
def State.verifyRegion (s : State) (n : Fin 16) : Byte :=
  let p := s.mod.parts[n]
  let base := s.mod.ckpt.base
  let k := p.groups.length
  let body := s.mod.mem.read (manifestAt p base) (manifestBytes k)
  let signature := s.mod.mem.read (manifestAt p base + manifestBytes k) 4627
  if !Config.verify (body.drop (manifestBytes k - 2592)) body signature then 0x26
  else if (List.range k).any fun i => s.mod.groupDigest base i != (body.drop (128 + 64 * i)).take 64 then 0x29
  else 0

/-- Puts a verified region back into a FREE partition: its data, its key, and its save area. -/
def State.restoreRegion (s : State) (n : Fin 16) : State :=
  let p := s.mod.parts[n]
  let base := s.mod.ckpt.base
  let k := p.groups.length
  let capsule := (s.mod.mem.read (manifestAt p base + 128 + 64 * k) 1568)
  let work := (s.mod.ckpt.regions.find? fun r => r.dst = s.mod.ckpt.dst.toNat).getD ⟨0, [], [], [], []⟩
  let key := Config.decapsulate capsule
  let at_ {α : Type} (xs : List (Nat × List α)) (c : Cluster) : List α :=
    ((xs.find? fun w => w.1 = 6 * c.die.val + c.number.val).map (·.2)).getD []
  let fix (c : Cluster) : Cluster := { c with resumed := c.resumed ++ at_ work.work c, conts := c.conts ++ at_ work.conts c }
  let s := { s with mod := s.mod.copyBack p base key work, ctl := fix s.ctl, parkedCl := s.parkedCl.map fix }
  s.onPart n fun p => { p with dataKey := some key }

/-- R392: an operation ends, with the code that its copy or its checks give; with another code there is no such end. A SAVE of a partition
that is no longer LIVE and quiesced fails with `PREEMPT` (R393). -/
def execCheckpointDone (code : Byte) (s : State) : Answer :=
  let c := s.mod.ckpt
  let n := c.part
  let k := s.mod.parts[n].groups.length
  if c.phase != 1 then .fault .notEnabled
  else if c.op = 1 then
    if !(s.mod.parts[n].state = .live && s.quiesced s.mod.parts[n]) then .next (s.ckptFail 0x38)
    else if code = 0 then .next ((s.saveRegion n).ckptEnd 2 0 k) else .fault .notEnabled
  else if !(s.mod.parts[n].state = .free && s.mod.creatable n) then .next (State.ckptFailFree (s.scrubTarget n))
  else if code != s.verifyRegion n then .fault .notEnabled
  else if code = 0 then .next ((s.restoreRegion n).ckptEnd 2 0 k)
  else .next ((s.scrubTarget n).ckptEnd 3 code 0)

/-- R393: stops the operation at the next group boundary; the region stays incomplete, with the groups copied so far. How many they are
is a free value (log entry 2). -/
def State.ckptAbort (s : State) : State :=
  let c := s.mod.ckpt
  if c.phase != 1 then s
  else
    let p := s.mod.parts[c.part]
    let done := (Config.freeWord s.draw).toNat % (p.groups.length + 1)
    let s := if c.op = 2 then s.scrubTarget c.part
      else { s.dropRegion with mod := s.dropRegion.mod.copyOut p c.base done }
    { s.onCkpt fun k => { k with ctl := ckctlOf 3 c.part, phase := 3, done := done } with draw := s.draw + 1 }

/-- R393: SAVE. -/
def execCheckpointSave (part : Fin 16) (s : State) : Answer := .next (if s.mod.ready then s.ckptStart 1 part else s)

/-- R393: RESTORE. -/
def execCheckpointRestore (part : Fin 16) (s : State) : Answer := .next (if s.mod.ready then s.ckptStart 2 part else s)

/-- R393: ABORT. -/
def execCheckpointAbort (s : State) : Answer := .next s.ckptAbort

end Sys2Proof.Machine
end

