-- ==== Sys2Proof/Machine/Power.lean ====
section
/-! DEFINITION. Reset, power, duty, and the trust controller's answers (R346, R387, R389, R391, R394 to R396). -/

namespace Sys2Proof.Machine

/-! ## Reset and power (R391, R395, R396) -/

/-- Every core and every cluster of the module is reset. -/
def State.resetAll (s : State) : State :=
  let fix (k : Core) : Core := { Core.reset k.die k.cluster k.number with since := s.cycle }
  let fixC (c : Cluster) : Cluster := { Cluster.reset c.die c.number with since := s.cycle }
  { s with core := fix s.core, parked := s.parked.map fix, ctl := fixC s.ctl, parkedCl := s.parkedCl.map fixC }

/-- The modes in which the ports train, from the boot configuration of the boot that `n` numbers (R375). -/
def bootModes (n : Nat) : Vector PortMode 8 := Vector.ofFn fun p => match Config.bootMode n p with
  | 0 => .pcie
  | 1 => .cxlHost
  | 2 => .cxlPool

/-- A conventional reset: the keys are destroyed, every LIVE partition is torn down, a SCRUBBING one goes on after the channels recorded;
the ports train again in the modes of the boot configuration and the registers take their reset values. The physical function waits until
no partition scrubs (R396). -/
def State.conventionalReset (s : State) : State :=
  let s := (List.finRange 16).foldl (fun (s : State) n =>
    if s.mod.parts[n].state = .live then s.tearDown n
    else s.onPart n fun p => { p with dataKey := none, attestKey := none, jobKey := none }) s
  let s := s.resetAll
  let m := s.mod
  { s with
    mod := { Module.reset with
      mem := m.mem, poison := m.poison, powered := m.powered, draws := m.draws, serial := m.serial, modes := bootModes s.draw
      ethPorts := m.ethPorts, powerScrub := m.powerScrub, restored := m.restored
      scrubbed := m.scrubbed && m.parts.toList.all fun p => p.state != .scrubbing
      ckpt := { Module.reset.ckpt with regions := m.ckpt.regions }
      hot := m.hot, overCap := m.overCap
      parts := m.parts.map fun p => if p.state = .free then { Partition.reset with measured := [] } else { p with result := 0 } }
    draw := s.draw + 1 }

/-- A power loss: every key and record is lost, and all of HBM counts as unscrubbed. -/
def State.losePower (s : State) : State :=
  let s := s.resetAll
  let m := s.mod
  { s with mod := { Module.reset with
      mem := m.mem.filter fun c => cxlBase ≤ c.1, poison := m.poison.filter fun l => cxlBase ≤ 128 * l
      powered := false, scrubbed := false, draws := m.draws, serial := m.serial
      ckpt := { Module.reset.ckpt with regions := m.ckpt.regions } } }

/-- R391, R396. -/
def execConventionalReset (s : State) : Answer := .next s.conventionalReset

/-- R391. -/
def execPowerLoss (s : State) : Answer := .next s.losePower

/-- R395: a shutdown is treated as a power loss. -/
def execShutdown (s : State) : Answer := .next (State.losePower s)

/-- R396: power-up: with firmware that verifies, new keys are drawn, the scrub of every channel starts and the ports train; otherwise the
module stops with no host link. -/
def execPowerUp (firmwareOk : Bool) (s : State) : Answer :=
  if s.mod.powered || !firmwareOk then .next s
  else .next { s with
    mod := { s.mod with powered := true, scrubbed := false, powerScrub := allStacks, draws := s.mod.draws + 1, modes := bootModes s.draw }
    draw := s.draw + 1 }

/-! ## Duty (R394, R395) -/

/-- R395: a die has reached 95 °C, or has fallen below 92 °C. -/
def execThermalLimit (die : Fin 24) (hot : Bool) (s : State) : Answer :=
  .next { s with mod := { s.mod with hot := s.mod.hot.set die hot } }

/-- R395: the module has been above its cap for 1 ms, or is under it again. -/
def execPowerCapExceeded (exceeded : Bool) (s : State) : Answer := .next { s with mod := { s.mod with overCap := exceeded } }

/-- The duty of a die 100 µs later: a sixteenth lower under a limit, but not below 1, else a sixteenth higher up to 16. -/
def dutyAfter (limited : Bool) (k : Fin 17) : Fin 17 :=
  if limited then Fin.ofNat 17 (max 1 (k.val - 1)) else Fin.ofNat 17 (min 16 (k.val + 1))

/-- R395: the duty of every die moves by a sixteenth. -/
def execDutyStep (s : State) : Answer :=
  .next { s with mod := { s.mod with duty := Vector.ofFn fun d => dutyAfter (s.mod.hot[d] || s.mod.overCap) s.mod.duty[d] } }

/-! ## The RDC (R346) -/

/-- A line whose lease has run for 2,048 cycles. -/
def RdcLine.expired (now : Nat) (l : RdcLine) : Bool := l.granted + 2048 ≤ now

/-- R346: such lines are dropped. -/
def execRdcLeaseExpiry (s : State) : Answer :=
  if s.mod.rdc.any (RdcLine.expired s.cycle) then .next { s with mod := { s.mod with rdc := s.mod.rdc.filter fun l => !l.expired s.cycle } }
  else .fault .notEnabled

/-! ## SPDM (R387, R389) -/

/-- "hkg-alias" in ASCII. -/
def aliasLabel : List Byte := [0x68, 0x6B, 0x67, 0x2D, 0x61, 0x6C, 0x69, 0x61, 0x73]
/-- "hkg-id" in ASCII. -/
def idLabel : List Byte := [0x68, 0x6B, 0x67, 0x2D, 0x69, 0x64]

/-- The seeds of the device identity and of the alias key. -/
def identitySeed : List Byte := kdf Config.deviceSecret idLabel []
def aliasSeed : List Byte := kdf Config.deviceSecret aliasLabel Config.firmwareDigest

/-- The report of a partition (R389): its descriptor, the firmware measurement, and the images in load order. -/
def Partition.report (p : Partition) : List Byte := p.desc ++ Config.firmwareDigest ++ p.measured.flatMap id

/-- The certificate of a key: what it certifies, and the signature of the key above it. -/
def certificate (seed body : List Byte) : List Byte := body ++ Config.sign seed body

/-- What the trust controller answers, or nothing where the slot or the partition has no key. -/
def State.spdmAnswer (s : State) : SpdmRequest → Option (List Byte)
  | .getMeasurements n =>
    let p := s.mod.parts[n]
    if p.state = .live then some (certificate p.attestSeed p.report) else none
  | .getCertificate slot =>
    if slot.val = 0 then some Config.identityCertificate
    else if slot.val = 1 then some (certificate identitySeed (Config.publicKey aliasSeed))
    else
      let p := s.mod.parts[(Fin.ofNat 16 (slot.val - 2) : Fin 16)]
      if p.state = .live then some (certificate aliasSeed (Config.publicKey p.attestSeed ++ p.report)) else none
  | .keyExchange => some (Config.spdmAnswer 0 s.mod.draws)
  | .finish => some (Config.spdmAnswer 1 s.mod.draws)
  | .keyUpdate => some (Config.spdmAnswer 2 s.mod.draws)

/-- R389: the answer to a request. A key exchange draws from the DRBG. -/
def execSpdmRequest (request : SpdmRequest) (s : State) : Answer :=
  let reply : HostReply := match s.spdmAnswer request with
    | some bs => ⟨0, false, false, bs, .complete⟩
    | none => ⟨0, false, true, [], .complete⟩
  if !s.mod.powered then .next s
  else .next { s with mod := { s.mod with reply := reply, draws := s.mod.draws + (if request = .keyExchange then 1 else 0) } }

end Sys2Proof.Machine
end

