-- ==== Sys2Proof/Machine/HostIf.lean ====
section
/-! DEFINITION. The host's windows, the configuration block of a virtual function and the operator block (R376 to R380, R384). -/

namespace Sys2Proof.Machine

/-! ## Virtual functions (R376, R377) -/

/-- The live partition that owns a virtual function. -/
def Module.vfOwner (m : Module) (v : Fin 128) : Option (Fin 16) :=
  if m.ready then (List.finRange 16).find? fun n => m.parts[n].state = .live && m.parts[n].hasVf v.val else none

def State.onVf (s : State) (v : Fin 128) (g : VirtualFunction → VirtualFunction) : State :=
  { s with mod := { s.mod with vfs := s.mod.vfs.set v (g s.mod.vfs[v]) } }

/-- What the host reads. -/
def State.answerHost (s : State) (r : HostReply) : State := { s with mod := { s.mod with reply := r } }

def hostValue (v : Word) : HostReply := ⟨v, false, false, [], .complete⟩
/-- A dropped read returns all ones (R378, R379); a narrower read takes its bytes from the low end of the answer. -/
def hostDropped : HostReply := ⟨BitVec.allOnes 64, false, true, [], .complete⟩

/-- The answer to a memory request that the module does not carry out: Unsupported Request (R376). That of the physical function before
the module is ready is the same, where R396 says only when it accepts commands (DESIGN CHOICE, log entry 145). -/
def hostRefused : HostReply := ⟨BitVec.allOnes 64, false, true, [], .unsupported⟩

/-- A memory request to a function that no live partition owns, or before the module is ready. Without power there is no host link. -/
def State.refuseHost (s : State) : State := if s.mod.powered then s.answerHost hostRefused else s

/-- The answer to a configuration request (R396), which reads the value given where the module has finished its scrub: none without a host
link, and Request Retry Status while it scrubs. No row of the opcode table makes it an event. -/
def State.configRequest (s : State) (value : Word) : Option HostReply :=
  if !s.mod.powered then none
  else if s.mod.scrubbed then some (hostValue value) else some ⟨BitVec.allOnes 64, false, true, [], .retry⟩

/-- The status of a drop: its bit (0 CDROP, 1 RDROP), and the cause when it is the first. -/
def VirtualFunction.drop (v : VirtualFunction) (bit cause : Nat) : VirtualFunction :=
  let w := v.wstat.toNat
  let first : Bool := w % 4 = 0
  let rest := if first then cause * 2 ^ 8 else bitsOf w 8 8 * 2 ^ 8
  { v with wstat := BitVec.ofNat 64 (rest + (if bit = 0 || bitOf w 0 then 1 else 0) + (if bit = 1 || bitOf w 1 then 2 else 0)) }

def State.dropHost (s : State) (v : Fin 128) (bit cause : Nat) : State := s.onVf v fun f => f.drop bit cause

/-! ## The counter window (R354, R378) -/

def counterVa (f : VirtualFunction) (o : Nat) : Word := f.cbase + BitVec.ofNat 64 o

/-- R378: the host adds to a counter. An add to a poisoned counter also sets POISON in the status word (R354). -/
def execCounterWindowWrite (vf : Fin 128) (offset size : Nat) (value : Word) (s : State) : Answer :=
  match s.mod.vfOwner vf with
  | none => .next s.refuseHost
  | some n =>
    if 2 ^ 24 ≤ offset then .next s
    else if size != 8 || offset % 8 != 0 then .next (s.dropHost vf 0 0x12)
    else match checkHost s.mod n accCounterAdd (counterVa s.mod.vfs[vf] offset) 8 with
      | .error c => .next (s.dropHost vf 0 c)
      | .ok pl =>
        match s.addMem n pl.pa value.toNat with
        | .ok t => .next t
        | .error c =>
          let s := s.dropHost vf 0 c
          .next (if c = 0x30 then { s with mod := orStatus s.mod pl.home n 0x40 } else s)

/-- R378: the host reads a counter. -/
def execCounterWindowRead (vf : Fin 128) (offset size : Nat) (s : State) : Answer :=
  let dropped (c : Nat) : Answer := .next ((s.dropHost vf 0 c).answerHost hostDropped)
  match s.mod.vfOwner vf with
  | none => .next s.refuseHost
  | some n =>
    if 2 ^ 24 ≤ offset then .next (s.answerHost hostDropped)
    else if size != 8 || offset % 8 != 0 then dropped 0x12
    else match checkHost s.mod n accCounterRead (counterVa s.mod.vfs[vf] offset) 8 with
      | .error c => dropped c
      | .ok pl =>
        if poisonedIn s.mod.poison pl.pa 8 then dropped 0x30
        else .next (s.answerHost (hostValue (BitVec.ofNat 64 (s.mod.mem.nat pl.pa 8))))

/-! ## The record window (R379) -/

def recordVa (f : VirtualFunction) (o : Nat) : Word := f.rbase + BitVec.ofNat 64 o

/-- Sizes that an access of the windows to plain memory may have. -/
def hostSizeOk (n : Nat) : Bool := n = 1 || n = 2 || n = 4 || n = 8

/-- The place of a host access to plain memory: ALIGN for a size that it cannot have. -/
def hostPlace (m : Module) (n : Fin 16) (a : Access) (va : Word) (size : Nat) : Except Nat Place :=
  if hostSizeOk size then checkHost m n a va size else .error 0x12

/-- A write of the host to a partition's memory. -/
def State.hostStore (s : State) (n : Fin 16) (pa size : Nat) (v : Word) : State :=
  { s with mod := l2Write s.mod n pa (bytesOfNat size v.toNat) }

/-- R379: the host writes through the aperture. -/
def execRecordWindowWrite (vf : Fin 128) (offset size : Nat) (value : Word) (s : State) : Answer :=
  match s.mod.vfOwner vf with
  | none => .next s.refuseHost
  | some n =>
    if 2 ^ 32 ≤ offset then .next s
    else match hostPlace s.mod n accWrite (recordVa s.mod.vfs[vf] offset) size with
      | .error c => .next (s.dropHost vf 1 c)
      | .ok pl => .next (s.hostStore n pl.pa size value)

/-- R379: the host reads through the aperture. -/
def execRecordWindowRead (vf : Fin 128) (offset size : Nat) (s : State) : Answer :=
  let dropped (c : Nat) : Answer := .next ((s.dropHost vf 1 c).answerHost hostDropped)
  match s.mod.vfOwner vf with
  | none => .next s.refuseHost
  | some n =>
    if 2 ^ 32 ≤ offset then .next (s.answerHost hostDropped)
    else match hostPlace s.mod n accRead (recordVa s.mod.vfs[vf] offset) size with
      | .error c => dropped c
      | .ok pl =>
        let (bs, bad) := s.load pl size
        if bad then dropped 0x30 else .next (s.answerHost (hostValue (BitVec.ofNat 64 (natOfBytes bs))))

/-! ## The coherent window (R380) -/

/-- Fields of an HDM decoder (R384). -/
def Hdm.enabled (h : Hdm) : Bool := h.attr.getLsbD 8
def Hdm.part (h : Hdm) : Fin 16 := Fin.ofNat 16 h.attr.toNat
def Hdm.port (h : Hdm) : Nat := bitsOf h.attr.toNat 4 3
def Hdm.covers (h : Hdm) (port : Fin 8) (a : Nat) : Bool :=
  h.enabled && h.port = port.val && h.base.toNat ≤ a && a < h.base.toNat + h.size.toNat * 2 ^ 28
def Hdm.va (h : Hdm) (a : Nat) : Word := h.virt + BitVec.ofNat 64 (a - h.base.toNat)

/-- A write dropped in the coherent window shows in every function of the partition. -/
def State.dropCoherent (s : State) (n : Fin 16) (cause : Nat) : State :=
  ((List.finRange 128).filter fun (v : Fin 128) => s.mod.parts[n].hasVf v.val).foldl (fun (t : State) v => t.dropHost v 1 cause) s

/-- R375, R380: a host access on a port in CXL mode toward the host, through the first decoder of the port that covers the address; a
faulting read returns poison. -/
def execCoherentWindowAccess (hpa : HostAddress) (size : Nat) (write : Option Word) (s : State) : Answer :=
  let poison : HostReply := ⟨0, true, false, [], .complete⟩
  let decoder := if s.mod.modes[hpa.port] = .cxlHost then s.mod.hdm.toList.find? fun h => h.covers hpa.port hpa.addr else none
  if !s.mod.ready then .next s.refuseHost
  else match decoder with
  | none => .next s.refuseHost
  | some h =>
    let n := h.part
    let live : Bool := s.mod.parts[n].state = .live
    let place (a : Access) : Except Nat Place := if live then hostPlace s.mod n a (h.va hpa.addr) size else .error 0x10
    match write with
    | some v => match place accWrite with
      | .error c => .next (if live then s.dropCoherent n c else s)
      | .ok pl => .next (s.hostStore n pl.pa size v)
    | none => match place accRead with
      | .error _ => .next (s.answerHost poison)
      | .ok pl =>
        let (bs, bad) := s.load pl size
        .next (s.answerHost (if bad then poison else hostValue (BitVec.ofNat 64 (natOfBytes bs))))

/-! ## The configuration block (R377) -/

/-- The setup of a core of the function's partition; one of another core ignores writes. -/
def State.writeSetup (s : State) (v : Fin 128) (n : Fin 16) (core : Nat) (field : Fin 6) (value : Word) : State :=
  if core < 1152 && s.mod.parts[n].hasCluster (core / 8) then
    s.onVf v fun f => { f with
      setup := (core, field, value) :: f.setup.filter fun e => !(e.1 = core && e.2.1 = field)
      pending := (core, field) :: f.pending.filter fun e => !(e.1 = core && e.2 = field) }
  else s

/-- R377. -/
def execSetupWrite (vf : Fin 128) (core : Nat) (field : Fin 6) (value : Word) (s : State) : Answer :=
  match s.mod.vfOwner vf with
  | none => .next s.refuseHost
  | some n => .next (s.writeSetup vf n core field value)

/-- The controller of the focus cluster after a reset: it keeps its data RAM and its jump table. -/
def Cluster.rebooted (c : Cluster) (h : Header) (store : Memory) : Cluster :=
  { c with
    c := { Strand.reset with run := .running, pc := h.entryA }
    u := { StrandUnit.reset with ibase := 0, ilimit := BitVec.ofNat 64 h.lena }
    k := Vector.replicate 64 .reset, istore := store, marks := marksFrom h.lena 0 (store.read 0 h.lena)
    queue := .empty, stopped := false, replaying := [], acceptance := 0, pointer := 0 }

/-- The header of a controller image, if the controller can be started with it. -/
def State.bootHeader (s : State) (va : Nat) : Option Header :=
  match s.ctlKv fun ctx => kvRead ctx va 128 with
  | .error _ => none
  | .ok (bs, _) => (parseHeader va bs).filter fun h => h.entryA != 0xFFFFFFFF && h.lena ≤ 65536

/-- The controller of the focus cluster is reset, its entries are cancelled, and its image is loaded and started. -/
def State.boot (s : State) (n : Fin 16) (h : Header) : State :=
  let s := { s with who := .c }
  let s := s.cancelEntries (s.ctl.entries.map (·.serial)) true
  let mine (w : Waiter) : Bool := w.who = .controller s.ctl.die s.ctl.number
  let s := { s with mod := { s.mod with waiters := s.mod.waiters.filter fun w => !mine w } }
  let (store, s) := s.loadCode [] h.code h.lena
  let s := { s with ctl := s.ctl.rebooted h store }
  s.onPart n fun p => { p with measured := p.measured ++ [sha3 (store.read 0 h.lena)] }

/-- cbootgo with GO = 1 and STOP = 0. -/
def State.cbootGo (s : State) (v : Fin 128) (n : Fin 16) (g : Nat) : State :=
  let s := s.onVf v fun f => { f with cbootgo := BitVec.ofNat 64 (2 ^ 63 + g) }
  let bad : State := s.dropHost v 1 0x15
  if !(g < 144 && s.mod.parts[n].hasCluster g) then bad
  else
    let who := s.who
    let t := s.atCluster g fun s => match s.bootHeader (s.mod.vfs[v]).cboot.toNat with
      | none => s.dropHost v 1 0x15
      | some h => s.boot n h
    { t with who := who }

/-- cbootgo with STOP = 1 and GO = 0. -/
def State.cbootStop (s : State) (v : Fin 128) (n : Fin 16) (g : Nat) : State :=
  let s := s.onVf v fun f => { f with cbootgo := BitVec.ofNat 64 (2 ^ 62 + g) }
  if !(g < 144 && s.mod.parts[n].hasCluster g) then s.dropHost v 1 0x15
  else s.atCluster g fun s => { s with ctl := { s.ctl with stopped := true } }

/-- R377: GO. -/
def execCbootgoGo (vf : Fin 128) (cluster : Fin 256) (s : State) : Answer :=
  match s.mod.vfOwner vf with
  | none => .next s.refuseHost
  | some n => .next (s.cbootGo vf n cluster.val)

/-- R377: STOP. -/
def execCbootgoStop (vf : Fin 128) (cluster : Fin 256) (s : State) : Answer :=
  match s.mod.vfOwner vf with
  | none => .next s.refuseHost
  | some n => .next (s.cbootStop vf n cluster.val)

/-- R377: wstat is cleared bit by bit where ones are written. -/
def State.clearWstat (s : State) (v : Fin 128) (value : Word) : State := s.onVf v fun f => { f with wstat := f.wstat &&& ~~~value }

/-- R377. -/
def execWstatClear (vf : Fin 128) (value : Word) (s : State) : Answer :=
  match s.mod.vfOwner vf with
  | none => .next s.refuseHost
  | some _ => .next (s.clearWstat vf value)

/-- A write to a configuration block. -/
def State.writeVf (s : State) (v : Fin 128) (n : Fin 16) (o : Nat) (x : Word) : State :=
  if o = 0x10 then s.onVf v fun f => { f with cbase := BitVec.ofNat 64 (bitsOf x.toNat 24 33 * 2 ^ 24) }
  else if o = 0x18 then s.onVf v fun f => { f with rbase := BitVec.ofNat 64 (bitsOf x.toNat 32 25 * 2 ^ 32) }
  else if o = 0x20 then s.clearWstat v x
  else if o = 0x40 then s.onVf v fun f => { f with cboot := BitVec.ofNat 64 (bitsOf x.toNat 0 57) }
  else if o = 0x48 then
    let g := x.toNat % 256
    match x.getLsbD 63, x.getLsbD 62 with
    | true, true => (s.onVf v fun f => { f with cbootgo := BitVec.ofNat 64 (3 * 2 ^ 62 + g) }).dropHost v 1 0x15
    | true, false => s.cbootGo v n g
    | false, true => s.cbootStop v n g
    | false, false => s.onVf v fun f => { f with cbootgo := BitVec.ofNat 64 g }
  else if 0x10000 ≤ o && o < 0x10000 + 64 * 1152 && o % 64 < 48 && o % 8 = 0 then
    s.writeSetup v n ((o - 0x10000) / 64) (Fin.ofNat 6 (o % 64 / 8)) x
  else s

/-! ## The operator block (R384) -/

/-- Another descriptor of a FREE partition; with it the partition is no longer the one that a RESTORE filled. -/
def Partition.withDesc (p : Partition) (desc : List Byte) : Partition :=
  { p with desc := desc, dataKey := if desc = p.desc then p.dataKey else none }

/-- A write to the block of a partition. -/
def State.writePartBlock (s : State) (n : Fin 16) (o : Nat) (x : Word) : State :=
  let free : Bool := s.mod.parts[n].state = .free
  if o = 0x88 then
    match x.toNat with
    | 1 => s.createPartition n
    | 2 => s.teardownPartition n
    | 3 => s.resetPartition n
    | _ => s
  else if o = 0x90 then
    if free then s.onPart n fun p => { p with proot := BitVec.ofNat 64 (bitsOf x.toNat 21 26 * 2 ^ 21) } else s
  else if o < 0x80 then
    if free then s.onPart n fun p => p.withDesc (p.desc.take o ++ bytesOfNat 8 x.toNat ++ p.desc.drop (o + 8)) else s
  else s

/-- A write to a decoder. -/
def Hdm.write (h : Hdm) (i : Nat) (x : Word) : Hdm :=
  let f (lo len : Nat) : Nat := bitsOf x.toNat lo len * 2 ^ lo
  match i with
  | 0 => { h with base := BitVec.ofNat 64 (f 28 24) }
  | 1 => { h with size := BitVec.ofNat 64 (f 0 24) }
  | 2 => { h with virt := BitVec.ofNat 64 (f 16 41) }
  | 3 => { h with attr := BitVec.ofNat 64 (f 0 7 + f 8 1) }
  | _ => h

/-- A write to the operator block. -/
def State.writePf (s : State) (o : Nat) (x : Word) : State :=
  if o % 8 != 0 then s
  else if 0x1000 ≤ o && o < 0x2000 then s.writePartBlock (Fin.ofNat 16 ((o - 0x1000) / 0x100)) (o % 0x100) x
  else if o = 0x2000 then
    let n : Fin 16 := Fin.ofNat 16 (bitsOf x.toNat 4 4)
    match x.toNat % 4 with
    | 0 => s.onCkpt fun c => { c with ctl := if c.phase = 1 then c.ctl else ckctlOf 0 n }
    | 3 => s.ckptAbort
    | op => s.ckptStart op n
  else if o = 0x2008 then s.onCkpt fun c => { c with dst := x &&& ~~~0xFFFF }
  else if o = 0x2010 then s.onCkpt fun c => { c with rcpt := x }
  else if o = 0x2100 then
    let w := bitsOf x.toNat 0 14
    if 1000 ≤ w && w ≤ 12500 then { s with mod := { s.mod with pcap := BitVec.ofNat 64 w } } else s
  else if 0x3000 ≤ o && o < 0x3200 then
    let i : Fin 16 := Fin.ofNat 16 ((o - 0x3000) / 32)
    { s with mod := { s.mod with hdm := s.mod.hdm.set i (s.mod.hdm[i].write (o % 32 / 8) x) } }
  else s

/-- R432: the operator sets the address and the UDP port of an Ethernet port. -/
def State.setEthernet (s : State) (port : Fin 8) (address : List Byte) (udp : Word) : State :=
  { s with mod := { s.mod with ethPorts := s.mod.ethPorts.set port ⟨padTo 16 address, udp.toNat % 2 ^ 16⟩ } }

/-- Whether an access of the operator block has a size that its range takes (R384). -/
def pfAccessOk (write : Bool) (o size : Nat) : Bool :=
  if o < 0x10000 then size = 8 && o % 8 = 0 else !write && (size = 2 || size = 4 || size = 8) && o % size = 0

/-- R376, R377, R384: a write to a register of a function, or of the operator block; one of a size that the block does not take is
dropped. The fields of a configuration block are 8 bytes wide, and take accesses of 8 bytes (DESIGN CHOICE, log entry 129). -/
def execRegisterWrite (vf : Option (Fin 128)) (offset : BlockAccess) (value : Word) (s : State) : Answer :=
  match vf with
  | none => .next (if !s.mod.ready then s.refuseHost else match offset.ethernet with
    | some e => s.setEthernet e.1 e.2 value
    | none => if pfAccessOk true offset.offset offset.size then s.writePf offset.offset value else s)
  | some v => match s.mod.vfOwner v with
    | none => .next s.refuseHost
    | some n => .next (if offset.size = 8 && offset.offset % 8 = 0 then s.writeVf v n offset.offset value else s)

/-! ## What the registers read (R377, R384, R392, R395) -/

/-- Reads a configuration block. -/
def State.readVf (s : State) (v : Fin 128) (n : Fin 16) (o : Nat) : Word :=
  let f := s.mod.vfs[v]
  let p := s.mod.parts[n]
  match o with
  | 0x00 => 0x484B474600000001
  | 0x08 => BitVec.ofNat 64 (n.val + (if p.prot then 16 else 0) + (if p.debug then 32 else 0))
  | 0x10 => f.cbase
  | 0x18 => f.rbase
  | 0x20 => f.wstat
  | 0x40 => f.cboot
  | 0x48 => f.cbootgo
  | o =>
    let core := (o - 0x10000) / 64
    if 0x10000 ≤ o && o < 0x10000 + 64 * 1152 && p.hasCluster (core / 8) then
      ((f.setup.find? fun e => e.1 = core && 8 * e.2.1.val = o % 64).map fun e => e.2.2).getD 0
    else 0

/-- The state word of a partition. -/
def Partition.word (p : Partition) : Word :=
  let st := match p.state with
    | .free => 0
    | .live => 1
    | .scrubbing => 2
  BitVec.ofNat 64 (st + p.result.toNat * 2 ^ 8)

/-- The monitors of a die by their place in its block: 64 thermal, 32 voltage and 16 process monitors of 16 bits (R384). -/
def monitorWord (k o : Nat) : Nat :=
  if 0x10000 ≤ o && o < 0x10000 + 0x200 * 24 && o % 0x200 < 0xE0 then (Config.monitor o k).toNat % 2 ^ 16 else 0

/-- Reads n bytes of the monitor range. -/
def readMonitors (k o n : Nat) : Word := BitVec.ofNat 64 (((List.range (n / 2)).map fun j => monitorWord k (o + 2 * j) * 2 ^ (16 * j)).sum)

/-- Reads a register of the operator block; `k` numbers the reading of a monitor, which is a free value (log entry 5). -/
def State.readPf (s : State) (k o : Nat) : Word :=
  let m := s.mod
  if o = 0 then 0x484B475000000001
  else if 0x1000 ≤ o && o < 0x2000 then
    let p := m.parts[(Fin.ofNat 16 ((o - 0x1000) / 0x100) : Fin 16)]
    let r := o % 0x100
    if r < 0x80 then BitVec.ofNat 64 (bytesAt p.desc r 8) else if r = 0x80 then p.word else if r = 0x90 then p.proot else 0
  else if o = 0x2000 then m.ckpt.ctl
  else if o = 0x2008 then m.ckpt.dst
  else if o = 0x2010 then m.ckpt.rcpt
  else if o = 0x2018 then BitVec.ofNat 64 (m.ckpt.phase + m.ckpt.code.toNat * 2 ^ 8 + m.ckpt.done * 2 ^ 32)
  else if o = 0x2100 then m.pcap
  else if o = 0x2108 then (if s.cycle = 0 then 0 else BitVec.ofNat 64 (bitsOf (Config.monitor o k).toNat 0 14))
  else if 0x2200 ≤ o && o < 0x2200 + 8 * 24 then BitVec.ofNat 64 (m.duty[(Fin.ofNat 24 ((o - 0x2200) / 8) : Fin 24)]).val
  else if 0x3000 ≤ o && o < 0x3200 then
    let h := m.hdm[(Fin.ofNat 16 ((o - 0x3000) / 32) : Fin 16)]
    match o % 32 / 8 with
    | 0 => h.base
    | 1 => h.size
    | 2 => h.virt
    | _ => h.attr
  else 0

/-- The answer to a read of a register of a powered module (R376, R377, R384). -/
def State.registerReply (s : State) (k : Nat) (vf : Option (Fin 128)) (offset size : Nat) : HostReply :=
  match vf with
  | none =>
    if !s.mod.ready then hostRefused
    else if !pfAccessOk false offset size then hostDropped
    else hostValue (if offset < 0x10000 then s.readPf k offset else readMonitors k offset size)
  | some v => match s.mod.vfOwner v with
    | none => hostRefused
    | some n => if size = 8 && offset % 8 = 0 then hostValue (s.readVf v n offset) else hostDropped

/-- The answer to a read of a register, none without a host link (R396): no row of the opcode table makes it an event, and it changes
nothing. -/
def State.readRegister (s : State) (k : Nat) (vf : Option (Fin 128)) (offset size : Nat) : Option HostReply :=
  if s.mod.powered then some (s.registerReply k vf offset size) else none

end Sys2Proof.Machine
end

