-- ==== Sys2Proof/Machine/Privileged.lean ====
section
/-! DEFINITION. Removal of cached translations and clearing of poison (R341, R360). -/

namespace Sys2Proof.Machine

/-- Whether every posted store of a partition's strands is performed: only then do the translations that they used go (R341). -/
def State.storesDone (s : State) (n : Fin 16) : Bool :=
  ((s.core :: s.parked).all fun k => s.partOfCluster (6 * k.die.val + k.cluster.val) != some n || contexts.all fun w => (Core.strand k w).posted.isEmpty) &&
  (s.ctl :: s.parkedCl).all fun c => s.partOfCluster (6 * c.die.val + c.number.val) != some n || c.c.posted.isEmpty

/-- Removes the cached translations of the partition that a test names: it is given the first address and the size of a page. -/
def State.xlinv (s : State) (hit : Nat → Nat → Bool) : Answer :=
  match s.part with
  | none => issue s
  | some n =>
    if !s.storesDone n then s.block
    else issue { s with mod := { s.mod with tlb := s.mod.tlb.filter fun t =>
      !(t.part = n && hit (t.page * 2 ^ levelShift t.level) (2 ^ levelShift t.level)) } }

/-- R341: every entry covering x[a]. -/
def execXlinvPg (a : Fin 64) (s : State) : Answer :=
  let va := vaBits (s.xr a)
  s.xlinv fun base size => base ≤ va && va < base + size

/-- R341: every entry overlapping the x[b] bytes from x[a] on. -/
def execXlinvRg (a b : Fin 64) (s : State) : Answer :=
  let va := vaBits (s.xr a)
  let n := (s.xr b).toNat
  s.xlinv fun base size => n != 0 && base < va + n && va < base + size

/-- R341: every entry of the partition. -/
def execXlinvAll (s : State) : Answer := s.xlinv fun _ _ => true

/-- Zeroes a line of memory, clears its poison and drops it from every RDC; the home L2's copy is zeroed in place and keeps its pin (R360). -/
def clearLine (m : Module) (pa : Nat) : Module :=
  let zeroed (l : L2Line) : L2Line := if l.id = 0 && l.line = pa / 128 then { l with dirty := false, data := [], poison := false } else l
  { m with
    l2 := m.l2.map zeroed, mem := m.mem.write pa (List.replicate 128 0), poison := m.poison.filter (· != pa / 128)
    rdc := m.rdc.filter fun r => r.line != pa / 128 }

/-- R360: the memory line at x[a]; a line of a COUNTER page must be poisoned. -/
def execPoisonClr (a : Fin 64) (s : State) : Answer :=
  let va := s.xr a
  if !s.strand.posted.isEmpty then s.block
  else match s.place accWrite va 128 with
    | .ok pl =>
      if pl.typ = 3 then s.raise 0x11 va s.here
      else issue { s.note va pl false with mod := clearLine (s.note va pl false).mod pl.pa }
    | .error c =>
      match s.place accCounterAdd va 128 with
      | .ok pl =>
        if s.mod.poison.contains (pl.pa / 128) then issue { s.note va pl false with mod := clearLine (s.note va pl false).mod pl.pa }
        else s.raise 0x11 va s.here
      | .error _ => s.raise c va s.here

/-- R360: the scratchpad line at x[a], coupled to tiles as a store of 128 bytes. -/
def execPoisonClrSp (a : Fin 64) (s : State) : Answer :=
  let va := s.xr a
  match s.spCheck va 128 128 with
  | some c => s.raise c va s.here
  | none =>
    if s.couples va.toNat 128 true then s.block
    else issue (s.spPut va.toNat (List.replicate 128 0) true)

end Sys2Proof.Machine
end

