-- ==== Sys2Proof/Machine/Scalar.lean ====
section
/-! DEFINITION. Integer arithmetic, shifts, bit fields, compares and predicates (R51, R90 to R92). Every form reads its operands
from the state at the start of its group and writes its result at its exposed latency (R75); it changes nothing else. -/

namespace Sys2Proof.Machine

def mulhSigned (a b : Word) : Word := BitVec.ofInt 64 (a.toInt * b.toInt / (2 ^ 64 : Nat))
def mulhUnsigned (a b : Word) : Word := BitVec.ofNat 64 (a.toNat * b.toNat / 2 ^ 64)
/-- R90: zero divisor and −2^63 / −1 included. -/
def divSigned (a b : Word) : Word := if b = 0 then -1 else BitVec.ofInt 64 (a.toInt.tdiv b.toInt)
def divUnsigned (a b : Word) : Word := if b = 0 then -1 else BitVec.ofNat 64 (a.toNat / b.toNat)
def remSigned (a b : Word) : Word := if b = 0 then a else BitVec.ofInt 64 (a.toInt.tmod b.toInt)
def remUnsigned (a b : Word) : Word := if b = 0 then a else BitVec.ofNat 64 (a.toNat % b.toNat)

/-- Leading zeros, counted from bit n − 1 down. -/
def leadingFrom (v : Word) : Nat → Nat
  | 0 => 0
  | n + 1 => if v.getLsbD n then 0 else 1 + leadingFrom v n
def leadingZeros (v : Word) : Word := BitVec.ofNat 64 (leadingFrom v 64)

/-- Trailing zeros: the first set bit of bits 64 − n to 63. -/
def trailingFrom (v : Word) : Nat → Nat
  | 0 => 0
  | n + 1 => if v.getLsbD (63 - n) then 0 else 1 + trailingFrom v n
def trailingZeros (v : Word) : Word := BitVec.ofNat 64 (trailingFrom v 64)

def popCount (v : Word) : Word := BitVec.ofNat 64 (((List.range 64).filter v.getLsbD).length)

def funnel (a b : Word) (n : Nat) : Word := BitVec.ofNat 64 ((a.toNat * 2 ^ 64 + b.toNat) / 2 ^ n)
def fieldOf (v : Word) (p w : Nat) : Word := BitVec.ofNat 64 (bitsOf v.toNat p w)
def signedField (v : Word) (p w : Nat) : Word := BitVec.ofInt 64 (signedOf w (bitsOf v.toNat p w))
def insertField (old v : Word) (p w : Nat) : Word :=
  let m : Word := BitVec.ofNat 64 ((2 ^ w - 1) * 2 ^ p)
  (old &&& ~~~m) ||| ((v <<< p) &&& m)

/-- R90: x[a] + x[b]. -/
def execAdd (d a b : Fin 64) (s : State) : Answer := issue (s.emitX d (s.xr a + s.xr b) 1)

/-- R90: x[a] − x[b]. -/
def execSub (d a b : Fin 64) (s : State) : Answer := issue (s.emitX d (s.xr a - s.xr b) 1)

/-- R90: the low 64 bits of the product. -/
def execMul (d a b : Fin 64) (s : State) : Answer := issue (s.emitX d (s.xr a * s.xr b) 3)

/-- R90: bits 127 to 64 of the signed product. -/
def execMulhI64 (d a b : Fin 64) (s : State) : Answer := issue (s.emitX d (mulhSigned (s.xr a) (s.xr b)) 3)

/-- R90: bits 127 to 64 of the unsigned product. -/
def execMulhN64 (d a b : Fin 64) (s : State) : Answer := issue (s.emitX d (mulhUnsigned (s.xr a) (s.xr b)) 3)

/-- R90: signed quotient truncated toward zero; −1 for a zero divisor. -/
def execDivI64 (d a b : Fin 64) (s : State) : Answer := issue (s.emitX d (divSigned (s.xr a) (s.xr b)) 20)

/-- R90: unsigned quotient; all ones for a zero divisor. -/
def execDivN64 (d a b : Fin 64) (s : State) : Answer := issue (s.emitX d (divUnsigned (s.xr a) (s.xr b)) 20)

/-- R90: signed remainder with the dividend's sign; x[a] for a zero divisor. -/
def execRemI64 (d a b : Fin 64) (s : State) : Answer := issue (s.emitX d (remSigned (s.xr a) (s.xr b)) 20)

/-- R90: unsigned remainder; x[a] for a zero divisor. -/
def execRemN64 (d a b : Fin 64) (s : State) : Answer := issue (s.emitX d (remUnsigned (s.xr a) (s.xr b)) 20)

/-- R90: signed minimum. -/
def execMinI64 (d a b : Fin 64) (s : State) : Answer := issue (s.emitX d (if (s.xr a).slt (s.xr b) then s.xr a else s.xr b) 1)

/-- R90: unsigned minimum. -/
def execMinN64 (d a b : Fin 64) (s : State) : Answer := issue (s.emitX d (if (s.xr a).ult (s.xr b) then s.xr a else s.xr b) 1)

/-- R90: signed maximum. -/
def execMaxI64 (d a b : Fin 64) (s : State) : Answer := issue (s.emitX d (if (s.xr a).slt (s.xr b) then s.xr b else s.xr a) 1)

/-- R90: unsigned maximum. -/
def execMaxN64 (d a b : Fin 64) (s : State) : Answer := issue (s.emitX d (if (s.xr a).ult (s.xr b) then s.xr b else s.xr a) 1)

/-- R90: bitwise AND. -/
def execAnd (d a b : Fin 64) (s : State) : Answer := issue (s.emitX d (s.xr a &&& s.xr b) 1)

/-- R90: bitwise OR. -/
def execOr (d a b : Fin 64) (s : State) : Answer := issue (s.emitX d (s.xr a ||| s.xr b) 1)

/-- R90: bitwise XOR. -/
def execXor (d a b : Fin 64) (s : State) : Answer := issue (s.emitX d (s.xr a ^^^ s.xr b) 1)

/-- R90: x[a] AND NOT x[b]. -/
def execAndn (d a b : Fin 64) (s : State) : Answer := issue (s.emitX d (s.xr a &&& ~~~(s.xr b)) 1)

/-- R91: shift left by x[b][5:0]. -/
def execShl (d a b : Fin 64) (s : State) : Answer := issue (s.emitX d (s.xr a <<< ((s.xr b).toNat % 64)) 1)

/-- R91: logical shift right by x[b][5:0]. -/
def execShr (d a b : Fin 64) (s : State) : Answer := issue (s.emitX d (s.xr a >>> ((s.xr b).toNat % 64)) 1)

/-- R91: arithmetic shift right by x[b][5:0]. -/
def execSra (d a b : Fin 64) (s : State) : Answer := issue (s.emitX d ((s.xr a).sshiftRight ((s.xr b).toNat % 64)) 1)

/-- R91: rotate right by x[b][5:0]. -/
def execRot (d a b : Fin 64) (s : State) : Answer := issue (s.emitX d ((s.xr a).rotateRight ((s.xr b).toNat % 64)) 1)

/-- R90: absolute value; −2^63 stays. -/
def execAbs (d a : Fin 64) (s : State) : Answer := issue (s.emitX d (if (s.xr a).msb then -(s.xr a) else s.xr a) 1)

/-- R91: leading zeros; 64 for 0. -/
def execClz (d a : Fin 64) (s : State) : Answer := issue (s.emitX d (leadingZeros (s.xr a)) 1)

/-- R91: trailing zeros; 64 for 0. -/
def execCtz (d a : Fin 64) (s : State) : Answer := issue (s.emitX d (trailingZeros (s.xr a)) 1)

/-- R91: set bits. -/
def execPopc (d a : Fin 64) (s : State) : Answer := issue (s.emitX d (popCount (s.xr a)) 1)

/-- R91: shift left by n. -/
def execShlImm (d a n : Fin 64) (s : State) : Answer := issue (s.emitX d (s.xr a <<< n.val) 1)

/-- R91: logical shift right by n. -/
def execShrImm (d a n : Fin 64) (s : State) : Answer := issue (s.emitX d (s.xr a >>> n.val) 1)

/-- R91: arithmetic shift right by n. -/
def execSraImm (d a n : Fin 64) (s : State) : Answer := issue (s.emitX d ((s.xr a).sshiftRight n.val) 1)

/-- R91: rotate right by n. -/
def execRotImm (d a n : Fin 64) (s : State) : Answer := issue (s.emitX d ((s.xr a).rotateRight n.val) 1)

/-- R91: x[a] if p[k] = 1, else x[b]. -/
def execSel (d a b : Fin 64) (k : Fin 16) (s : State) : Answer := issue (s.emitX d (if s.pr k then s.xr a else s.xr b) 1)

/-- R91: x[a] + (x[b] << sh). -/
def execLea (d a b : Fin 64) (sh : Fin 8) (s : State) : Answer := issue (s.emitX d (s.xr a + (s.xr b <<< sh.val)) 1)

/-- R90: x[a] + sext(imm13). -/
def execAddi (d a : Fin 64) (i : BitVec 13) (s : State) : Answer := issue (s.emitX d (s.xr a + i.signExtend 64) 1)

/-- R90: sext(imm13). -/
def execMovi (d : Fin 64) (i : BitVec 13) (s : State) : Answer := issue (s.emitX d (i.signExtend 64) 1)

/-- R91: ((x[a] × 2^64 + x[b]) >> n), low 64 bits. -/
def execFsh (d a b n : Fin 64) (s : State) : Answer := issue (s.emitX d (funnel (s.xr a) (s.xr b) n.val) 1)

/-- R91: the field of w + 1 bits from bit p, zero-extended. -/
def execBfxN64 (d a w p : Fin 64) (s : State) : Answer := issue (s.emitX d (fieldOf (s.xr a) p.val (w.val + 1)) 1)

/-- R91: the field, sign-extended. -/
def execBfxI64 (d a w p : Fin 64) (s : State) : Answer := issue (s.emitX d (signedField (s.xr a) p.val (w.val + 1)) 1)

/-- R91: x[d] with the field replaced by the low bits of x[a]. -/
def execBfi (d a w p : Fin 64) (s : State) : Answer :=
  issue (s.emitX d (insertField (s.xr d) (s.xr a) p.val (w.val + 1)) 1)

/-- R51: the 32-bit value sign-extended. -/
def execMovl (d : Fin 64) (v : BitVec 32) (s : State) : Answer := issue (s.emitX d (v.signExtend 64) 1)

/-- R51: the value zero-extended. -/
def execMovlN (d : Fin 64) (v : BitVec 32) (s : State) : Answer := issue (s.emitX d (v.zeroExtend 64) 1)

/-- R51: x[d] with its high half replaced. -/
def execMovlH (d : Fin 64) (v : BitVec 32) (s : State) : Answer :=
  issue (s.emitX d (v ++ (s.xr d).extractLsb' 0 32) 1)

/-- R92: p[d] ← x[a] = x[b]. -/
def execCmpEq (d : Fin 16) (a b : Fin 64) (s : State) : Answer := issue (s.emitP d (s.xr a == s.xr b) 1)

/-- R92: p[d] ← x[a] ≠ x[b]. -/
def execCmpNe (d : Fin 16) (a b : Fin 64) (s : State) : Answer := issue (s.emitP d (s.xr a != s.xr b) 1)

/-- R92: signed less-than. -/
def execCmpLt (d : Fin 16) (a b : Fin 64) (s : State) : Answer := issue (s.emitP d ((s.xr a).slt (s.xr b)) 1)

/-- R92: signed greater-or-equal. -/
def execCmpGe (d : Fin 16) (a b : Fin 64) (s : State) : Answer := issue (s.emitP d (!(s.xr a).slt (s.xr b)) 1)

/-- R92: unsigned less-than. -/
def execCmpLtu (d : Fin 16) (a b : Fin 64) (s : State) : Answer := issue (s.emitP d ((s.xr a).ult (s.xr b)) 1)

/-- R92: unsigned greater-or-equal. -/
def execCmpGeu (d : Fin 16) (a b : Fin 64) (s : State) : Answer := issue (s.emitP d (!(s.xr a).ult (s.xr b)) 1)

/-- R92: combines p[a] and p[b]. -/
def execPand (d a b : Fin 16) (s : State) : Answer := issue (s.emitP d (s.pr a && s.pr b) 1)

/-- R92: combines p[a] and p[b]. -/
def execPor (d a b : Fin 16) (s : State) : Answer := issue (s.emitP d (s.pr a || s.pr b) 1)

/-- R92: combines p[a] and p[b]. -/
def execPxor (d a b : Fin 16) (s : State) : Answer := issue (s.emitP d (s.pr a != s.pr b) 1)

/-- R92: NOT p[a]. -/
def execPnot (d a : Fin 16) (s : State) : Answer := issue (s.emitP d (!s.pr a) 1)

end Sys2Proof.Machine
end

