-- ==== Sys2Proof/Machine/StrandEvents.lean ====
section
/-! DEFINITION. The events of a strand: results and responses that arrive, stores performed, poison, the issue
watchdog (R75, R76, R86, R94, R97, R172, R192, R263 to R265). -/

namespace Sys2Proof.Machine

/-! ## Results and responses -/

/-- Writes the strand's due results of one kind, if the first due result is of that kind. -/
def State.arrive (s : State) (kind : Arrival) : Answer :=
  if nextArrival s.cycle s.strand = some kind then .next (s.writeResults s.who kind) else .fault .notEnabled

/-- R75, R76: the results of fixed latency that are due are written, and their flags ORed in. -/
def execResultWrite (s : State) : Answer := s.arrive .ordinary

/-- R86: the replay entries that are due write their values and flags. -/
def execReplayEntryComplete (s : State) : Answer := s.arrive .replay

/-- R94: the data of loads, returning atomics and counter reads arrive. -/
def execLoadResponse (s : State) : Answer := s.arrive .response

/-- R263: the response that holds the strand returns: the strand goes on with the result it carries, or traps with its cause at
the group that waited for it. -/
def execHoldingResponse (s : State) : Answer :=
  let f := s.strand
  match f.hold with
  | none => .fault .notEnabled
  | some h =>
    if s.cycle < h.due then .fault .notEnabled
    else
      let s := s.setStrand { f with hold := none }
      match h.trap with
      | some c => .next (s.trapAt h.since f.pc c)
      | none => .next ((s.applyEffect s.who h.write).orFlags s.who h.flags)

/-- R94, R99: the oldest posted store of the strand, or its oldest posted atomic, is performed. -/
def execStorePerformed (s : State) : Answer :=
  match s.strand.posted with
  | [] => .fault .notEnabled
  | p :: ps =>
    let t := s.onStrand fun f => { f with posted := ps }
    match p with
    | .store pa bs => .next (t.store pa bs)
    | .atomic func pa operand expected =>
      .next { t with mod := amoAt t.mod (s.part.getD 0) false func pa operand.toNat expected.toNat }

/-- The entries of a data queue with the first reserved one whose data have come filled, and that entry, if there is one. A poisoned
one is filled with zero. -/
def fillFirst (now : Nat) : List QEntry → Option (List QEntry × QEntry)
  | [] => none
  | e :: es =>
    if e.reserved && e.ready ≤ now then
      let filled : QEntry := { e with reserved := false, data := if e.poison then 0 else e.data }
      some (filled :: es, filled)
    else (fillFirst now es).map fun (r, x) => (e :: r, x)

/-- The data queue of the focus core that awaits its `LDQ` data no longer, and the entry that they fill. -/
def State.filling (s : State) : Option (Fin 8 × List QEntry × QEntry) :=
  (List.finRange 8).findSome? fun q => (fillFirst s.cycle (s.core.q[q]).entries).map fun es => (q, es)

/-- R97: the data of an `LDQ` arrive and fill the entry reserved for them. Poisoned data are reported to the A strand (R265). -/
def execLdqFill (s : State) : Answer :=
  match s.filling with
  | none => .fault .notEnabled
  | some (q, es, e) =>
    let t := s.setQueue q ⟨(s.core.q[q]).head, es⟩
    if e.poison then
      let f := t.strandOf .a
      .next (t.setStrandOf .a { f with poisons := f.poisons ++ [(e.addr, e.group)] })
    else .next t

/-- R172: the copy of the committed lines back into the primary bank is complete. -/
def execCommittedLinesCopiedBack (s : State) : Answer :=
  if s.strand.copyBack.any (· ≤ s.cycle) then .next (s.onStrand fun f => { f with copyBack := none }) else .fault .notEnabled

/-- The strand with its next poison arrival noted: one that arrived, or with TH = 0 one that an earlier trap entry left pending. -/
def Strand.nextPoison (f : Strand) : Strand :=
  match f.poisons, f.held with
  | [], p :: ps => if f.th then f else { f with poisons := [p], held := ps }
  | _, _ => f

/-- R264, R265: the poison of data that have arrived is taken at the boundary, as an asynchronous trap. An A strand that has ended its part
is restarted for the poison of an `LDQ` as for a report (R97, R267, log entry 122). -/
def execPoisonArrival (s : State) : Answer :=
  let f := s.strand.nextPoison
  match f.poisons with
  | [] => .fault .notEnabled
  | p :: _ =>
    let t := (s.setStrand f).reopened
    .next (t.trapAt s.cycle t.strand.pc (poisonCause p))

/-! ## The issue watchdog (R192) -/

/-- The group that the strand is to issue: its items, from the loop buffer or from the instruction store. -/
def State.groupItems (s : State) : List Item :=
  match s.strand.nest with
  | some n => bodyItems (n.addrOf n.g) 0 (n.body.getD n.g [])
  | none => (s.fetchAt (s.strand.pc - s.strand.pc % 4)).items

/-- The template of the group's issue to a full queue, and the queue. -/
def State.stalledIssue (s : State) : Option (Fin 64 × Fin 8) :=
  let items := s.groupItems
  let ps := patchesOf (instrsOf items)
  items.findSome? fun it => match it.res with
    | .ok i =>
      let at_ : State := { s with grp := { s.grp with iaddr := it.addr, syl := it.syl, patches := ps } }
      match i, wideOf at_ i with
      | .wgoNb _ _, _ => none
      | _, some (n, img, _) => if wideAwaits at_ n img || at_.hasRoom img then none else some (n, queueOf img)
      | _, none => none
    | _ => none

/-- What the head of a full queue waits for: nothing that counts, a counter, or a claim (of a tile; on the controller any other
wait, with index 0, R292). A frozen queue does not count. -/
inductive HeadWait where
  | none | frozen | counter (c : Command) | claim (c : Command) (t : Fin 64)

def State.headWait (s : State) (q : Fin 8) : HeadWait :=
  if s.onController then
    if s.ctl.queue.frozen then .frozen
    else match s.ctl.queue.waiting with
      | [] => .none
      | c :: _ => if s.waitDone true 0 c.image then .claim c 0 else .counter c
  else if (s.core.queue[q]).frozen then .frozen
  else match s.headState q with
    | .waitsCounter c => .counter c
    | .waitsClaim c t => .claim c t
    | _ => .none

/-- What the count of the watchdog belongs to: a head command in its wait, or at its claims. -/
def stallKey (c : Command) (claim : Bool) : Nat := 2 * c.seq + (if claim then 2 else 1)

/-- The count of the watchdog after one more blocked cycle behind a head command. -/
def Strand.counted (f : Strand) (key : Nat) : Nat := if f.stallHead = key then f.stall + 1 else 1

/-- The strand after a blocked cycle: its count goes on, begins again, stays, or returns to zero. -/
def State.countStall (s : State) : State :=
  let keep (n h : Nat) : State := s.onStrand fun f => { f with stall := n, stallHead := h }
  match s.stalledIssue with
  | none => keep 0 0
  | some (_, q) =>
    match s.headWait q with
    | .none => keep 0 0
    | .frozen => s
    | .counter c => keep (s.strand.counted (stallKey c false)) (stallKey c false)
    | .claim c _ => keep (s.strand.counted (stallKey c true)) (stallKey c true)

/-- `sr.tval` of the trap. -/
def stallWord (q : Fin 8) (claim : Bool) (index target : Nat) : Word :=
  BitVec.ofNat 64 (q.val * 2 ^ 24 + (if claim then 2 ^ 22 else 0) + index * 2 ^ 16 + target)

/-- R192: a group blocked on a full queue traps once its count has reached 2^22. -/
def execIssueStall (s : State) : Answer :=
  if s.strand.stall < 2 ^ 22 then .fault .notEnabled
  else match s.stalledIssue with
    | none => .fault .notEnabled
    | some (n, q) =>
      let trap (v : Word) : Answer := .next (s.trapAt s.cycle s.strand.pc ⟨0x0A, v, BitVec.ofNat 64 n.val, 0, false⟩)
      match s.headWait q with
      | .counter c => trap (stallWord q false (waitK c.image).val (hw c.image 2))
      | .claim _ t => trap (stallWord q true t.val 0)
      | _ => .fault .notEnabled

end Sys2Proof.Machine
end

