-- ==== Sys2Proof/Machine/TileCache.lean ====
section
/-! DEFINITION. The tile cache: commands of engine 4 (R347 to R350). -/

namespace Sys2Proof.Machine

/-- A line of a tensor under its tag (R342): id and coord, the line of its physical address, its home die, and whether it lies on an
MSIDE page, whose lines no cache holds (R351). -/
structure TagLine where
  id : Nat
  coord : Nat
  line : Nat
  home : Nat
  mside : Bool
  deriving DecidableEq, Repr, Inhabited

def L2Line.is (l : L2Line) (n : Fin 16) (t : TagLine) : Bool := l.tagged n t.id t.coord

/-- Every list of one index for each bound, the first dimension innermost. -/
def indices : List (Nat × Nat) → List (List Nat)
  | [] => [[]]
  | (lo, hi) :: rest => (indices rest).flatMap fun xs => (List.range (hi - lo)).map fun j => (lo + j) :: xs

/-- The in-extent elements of a tile. -/
def TensorRec.tileElems (r : TensorRec) (t : List Nat) : List (List Nat) :=
  indices ((List.range (r.ndim + 1)).map fun d =>
    let lo := t.getD d 0 * r.tile.getD d 1
    (lo, min (lo + r.tile.getD d 1) (r.ext.getD d 0)))

/-- The elements of the whole tensor. -/
def TensorRec.allElems (r : TensorRec) : List (List Nat) :=
  indices ((List.range (r.ndim + 1)).map fun d => (0, r.ext.getD d 0))

/-- The line of an element, or the cause that stops there. The commands that change no tensor data (`TC.LOOK`, `TC.PF`, `TC.INV`, `TC.WB`,
`TC.PIN`) need R on its page: R348 names no permission, and the model takes that of a read (DESIGN CHOICE, log entry 148). -/
def State.lineOfElem (s : State) (r : TensorRec) (x : List Nat) : Except EngineFault TagLine :=
  match s.tensorPlace accRead r (x.map Int.ofNat) 1 with
  | .error f => .error f
  | .ok (pl, some c) => .ok ⟨r.id, c, pl.pa / 128, pl.home, false⟩
  | .ok (pl, none) => .ok ⟨0, pl.pa / 128, pl.pa / 128, pl.home, pl.typ = 3⟩

/-- The distinct lines of elements (R348). -/
def State.linesOfElems (s : State) (r : TensorRec) (xs : List (List Nat)) : Except EngineFault (List TagLine) :=
  (xs.mapM (s.lineOfElem r)).map List.eraseDups

/-- Whether a tile index is one of the tensor's (R347). -/
def TensorRec.tileIndexOk (r : TensorRec) (t : List Nat) : Bool :=
  (List.range 6).all fun d => if d ≤ r.ndim then t.getD d 0 < r.nt d else t.getD d 0 = 0

def tcTileIndex (img : Image) : List Nat := (List.range 6).map fun d => hw img (8 + d)

/-- The work of a tile-cache command: its record is read and checked, then `f` acts; it answers the state and the duration. -/
def tcWork (tile : Bool) (f : State → Command → TensorRec → Except EngineFault (State × Nat)) : Work := fun s c =>
  let va := quarter c.image 1
  match s.needRecords c [va] with
  | (s, c, some g) => (s, c, .fault g)
  | (s, c, none) =>
    let r := parseRec (c.records.headD [])
    if !r.ok || (tile && !r.tileIndexOk (tcTileIndex c.image)) then (s, c, .fault (mkFault 0x15 va))
    else match f s c r with
      | .error g => (s, c, .fault (if g.code = 0x15 then mkFault 0x15 va else g))
      | .ok (t, dur) => (t, c, .done (16 + dur))

/-- Whether the L2 is known to hold a line. -/
def State.known (s : State) (l : TagLine) : Bool := s.mod.l2.any fun x => x.is s.partNo l

/-- Whether a line is present in its home L2: one that the L2 is known to hold is; one that was dropped or evicted and that nothing has
used since is not, nor one of an MSIDE page, nor one for which the partition's slices on the home die have no room beside the lines known
and `more` others; of any other the spec leaves it open (R1, log entry 2). -/
def State.present (s : State) (l : TagLine) (more k : Nat) : Bool :=
  let held := (s.mod.l2.filter fun x => x.part = s.partNo && x.home = l.home).length + more
  s.known l || (!l.mside && !s.mod.gone.contains (s.partNo, l.id, l.coord) &&
    held < (s.mod.parts[s.partNo]).l2Size l.home && Config.freeBit (s.draw + k))

/-- The lines of a list that are present, in their order. -/
def State.presentLines (s : State) (ls : List TagLine) : List TagLine :=
  ls.zipIdx.foldl (fun acc p =>
    let more := (acc.filter fun l => l.home = p.1.home && !s.known l).length
    if s.present p.1 more p.2 then acc ++ [p.1] else acc) []

/-- The line brought into its home L2, where it is not there yet: under its tag a copy of its bytes, and a flat line without one. -/
def installLine (n : Fin 16) (m : Module) (l : TagLine) : Module :=
  match m.l2.find? fun x => x.is n l with
  | some x => setLine m x
  | none =>
    if l.mside then m
    else if l.id = 0 then warmFlat m n l.line
    else setLine m (tagLine m n l.id l.coord l.line l.home)

/-- R348: the presence of a tile's lines. -/
def tcLookStep (s : State) (c : Command) (r : TensorRec) : Except EngineFault (State × Nat) := do
  let ls ← s.linesOfElems r (r.tileElems (tcTileIndex c.image))
  let here := s.presentLines ls
  let pinned := ls.any fun l => s.mod.l2.any fun x => x.is s.partNo l && x.pinned
  let v := here.length + (if here.length = ls.length then 2 ^ 32 else 0) + (if pinned then 2 ^ 33 else 0)
  let t ← s.engWrite (bitsOf (tcArg c.image) 0 22) (bytesOfNat 8 v)
  return ({ t with draw := t.draw + ls.length }, ls.length)

/-- The neighbour that bit n of the mask chooses, if it is one of the tensor's tiles (R349). -/
def neighbourTile (r : TensorRec) (t : List Nat) (bit : Nat) : Option (List Nat) :=
  let n := if bit < 13 then bit else bit + 1
  let off (d : Nat) : Int := ((n / 3 ^ d % 3 : Nat) : Int) - 1
  let x (d : Nat) : Int := (t.getD d 0 : Int) + (if d < 3 then off d else 0)
  if (List.range 3).all (fun d => d ≤ r.ndim || off d = 0) && (List.range 6).all (fun d => 0 ≤ x d) then
    let u := (List.range 6).map fun d => (x d).toNat
    if r.tileIndexOk u then some u else none
  else none

/-- R348: the lines of the tile and its neighbours are brought into their home L2, and the remote ones into the RDC with a new lease. -/
def tcPfStep (s : State) (c : Command) (r : TensorRec) : Except EngineFault (State × Nat) := do
  let t := tcTileIndex c.image
  let tiles := t :: ((List.range 26).filter (bitOf (tcArg c.image))).filterMap (neighbourTile r t)
  let ls ← s.linesOfElems r (tiles.flatMap r.tileElems)
  let die := s.core.die
  let n := s.partNo
  let renew (m : Module) (l : TagLine) : Module := (m.rdcDrop die n l.id l.coord).rdcRead ⟨die, n, l.id, l.coord, l.line, s.cycle⟩
  let far := ls.filter fun l => l.home != die.val && !l.mside
  return ({ s with mod := ls.foldl (installLine n) (far.foldl renew s.mod) }, ls.length)

/-- R350: the planes of the tile with its border. -/
def tcHaloStep (s : State) (c : Command) (r : TensorRec) : Except EngineFault (State × Nat) := do
  let t := tcTileIndex c.image
  let h := bitsOf (tcArg c.image) 22 8
  let n0 := r.tile.getD 0 0
  let n1 := r.tile.getD 1 0
  if r.fmt.width = 4 || r.ndim = 0 || n0 < h || n1 < h then throw (mkFault 0x15 0)
  let sz := r.fmt.width / 8
  let outer := indices (((List.range 4).map (· + 2)).map fun d => (0, if d ≤ r.ndim then r.tile.getD d 1 else 1))
  let (bs, s) ← outer.foldlM (fun (acc : List Byte × State) j => do
    (List.range (n1 + 2 * h)).foldlM (fun (acc : List Byte × State) j1 => do
      (List.range (n0 + 2 * h)).foldlM (fun (acc : List Byte × State) j0 => do
        let x0 : Int := (t.getD 0 0 * n0 + j0 : Nat) - (h : Int)
        let x1 : Int := (t.getD 1 0 * n1 + j1 : Nat) - (h : Int)
        let hi := (List.range 4).map fun d =>
          if d + 2 ≤ r.ndim then ((t.getD (d + 2) 0 * r.tile.getD (d + 2) 1 + j.getD d 0 : Nat) : Int) else 0
        let x := [x0, x1] ++ hi
        if r.inside x then
          let (e, s) ← acc.2.tensorLoad r x sz
          return (acc.1 ++ e, s)
        else return (acc.1 ++ List.replicate sz 0, acc.2)) acc) acc) ([], s)
  let u ← s.engWrite (bitsOf (tcArg c.image) 0 22) bs
  return (u, bs.length / 128)

/-- Whether an L2 line is one of a tensor's: under its id on TENSOR pages, or a flat line that the record covers. -/
def tensorHas (n : Fin 16) (r : TensorRec) (ls : List TagLine) (x : L2Line) : Bool :=
  x.part = n && (if ls.any fun l => l.id != 0 then x.id = r.id else ls.any fun l => x.is n l)

/-- Whether an RDC line is one of a tensor's, by its tag. -/
def tensorInRdc (n : Fin 16) (r : TensorRec) (ls : List TagLine) (x : RdcLine) : Bool :=
  x.part = n && (if ls.any fun l => l.id != 0 then x.id = r.id else ls.any fun l => x.id = l.id && x.coord = l.coord)

/-- A dirty flat line without its data: memory shows again what it holds beneath the line. -/
def uncover (m : Module) (l : L2Line) : Module :=
  if l.dirty && l.id = 0 then
    { m with
      mem := m.mem.write (128 * l.line) l.data
      poison := if l.poison then insertNat l.line m.poison else m.poison.filter (· != l.line) }
  else m

/-- The lines leave every L2 slice and every RDC, their dirty data discarded (R348). -/
def dropTensor (m : Module) (n : Fin 16) (r : TensorRec) (ls : List TagLine) : Module :=
  let m := (m.l2.filter (tensorHas n r ls)).foldl uncover m
  { m with
    l2 := m.l2.filter fun x => !tensorHas n r ls x
    rdc := m.rdc.filter fun x => !tensorInRdc n r ls x
    gone := (ls.foldl (fun m l => m.noteGone (n, l.id, l.coord)) m).gone }

def tcInvStep (s : State) (_ : Command) (r : TensorRec) : Except EngineFault (State × Nat) := do
  let ls ← s.linesOfElems r r.allElems
  -- with the 16 cycles of every command it completes within 16,384 (R348)
  return ({ s with mod := dropTensor s.mod s.partNo r ls }, 16384 - 16)

/-- Writes a dirty line to memory; the line stays, clean. Of a flat one memory shows the data already. -/
def writeBackLine (m : Module) (l : L2Line) : Module :=
  if l.id = 0 then setLine m { l with dirty := false, data := [], poison := false }
  else
    let m := { m with
      mem := m.mem.write (128 * l.line) l.data
      poison := if l.poison then insertNat l.line m.poison else m.poison.filter (· != l.line) }
    setLine m { l with dirty := false }

def tcWbStep (s : State) (c : Command) (r : TensorRec) : Except EngineFault (State × Nat) := do
  let ls ← s.linesOfElems r r.allElems
  let dirty := s.mod.l2.filter fun x => tensorHas s.partNo r ls x && x.dirty
  let m := dirty.foldl writeBackLine s.mod
  let m := if flagOf c.image 0 then dropTensor m s.partNo r ls else m
  return ({ s with mod := m }, dirty.length)

/-- The partition's pin budget on a die: 2,048 lines for each of its slices (R337, R348). -/
def pinBudget (p : Partition) (die : Nat) : Nat := 2048 * 32 * ((List.range 6).filter fun c => p.hasCluster (6 * die + c)).length

def tcPinStep (s : State) (_ : Command) (r : TensorRec) : Except EngineFault (State × Nat) := do
  let n := s.partNo
  let p := s.mod.parts[n]
  let ls ← s.linesOfElems r r.allElems
  let new := ls.filter fun l => !l.mside && !s.mod.l2.any fun x => x.is n l && x.pinned
  let pastEnd := (List.range 24).any fun d =>
    let held := (s.mod.l2.filter fun x => x.part = n && x.pinned && x.home = d).length
    pinBudget p d < held + (new.filter fun l => l.home = d).length
  if pastEnd then throw (mkFault 0x15 0)
  let pin (m : Module) (l : TagLine) : Module :=
    let m := installLine n m l
    { m with l2 := m.l2.map fun x => if x.is n l then { x with pinned := true } else x }
  return ({ s with mod := new.foldl pin s.mod }, ls.length)

def tcUnpinStep (s : State) (_ : Command) (r : TensorRec) : Except EngineFault (State × Nat) := do
  let n := s.partNo
  let ls ← s.linesOfElems r r.allElems
  let l2 := s.mod.l2.map fun x => if tensorHas n r ls x then { x with pinned := false } else x
  return ({ s with mod := { s.mod with l2 := l2 } }, ls.length)

/-- R348. -/
def execTcLook (s : State) : Answer := s.engineStep 4 4 0 (tcWork true tcLookStep)
/-- R348, R349. -/
def execTcPf (s : State) : Answer := s.engineStep 4 4 1 (tcWork true tcPfStep)
/-- R350. -/
def execTcHalo (s : State) : Answer := s.engineStep 4 4 2 (tcWork true tcHaloStep)
/-- R348. -/
def execTcInv (s : State) : Answer := s.engineStep 4 4 3 (tcWork false tcInvStep)
/-- R348. -/
def execTcWb (s : State) : Answer := s.engineStep 4 4 4 (tcWork false tcWbStep)

/-- A step of `TC.PIN` whose UN bit is as given. -/
def State.pinStep (s : State) (un : Bool) (f : Work) : Answer :=
  match (s.headState 4).command with
  | some c => if flagOf c.image 0 = un then s.engineStep 4 4 5 f else .fault .notEnabled
  | none => .fault .notEnabled

/-- R348. -/
def execTcPin (s : State) : Answer := s.pinStep false (tcWork false tcPinStep)
/-- R348. -/
def execTcUnpin (s : State) : Answer := s.pinStep true (tcWork false tcUnpinStep)

end Sys2Proof.Machine
end

