-- ==== Sys2Proof/Machine/Transform.lean ====
section
/-! DEFINITION. The transform engine: tokens of the T strand (R219, R220). -/

namespace Sys2Proof.Machine

/-- A token starts: the T strand's main context runs from the entry, and the command waits for its `TASKEND`. -/
def tokenWork (s : State) (c : Command) : State × Command × Progress :=
  let img := c.image
  let f := s.core.t
  let x := ((f.x.set (1 : Fin 64) (BitVec.ofNat 64 (quarter img 2))).set (2 : Fin 64) (BitVec.ofNat 64 (quarter img 3))).set
    (3 : Fin 64) (BitVec.ofNat 64 s.core.tokens)
  let t := { f with run := .running, pc := 4 * hw img 4, endGroup := 4 * hw img 4, x := x }
  ({ s with core := { s.core with t := t, tokens := s.core.tokens + 1 } }, c, .done (2 ^ 64))

/-- R219, R220: hands a token to the T strand. -/
def execTstart (s : State) : Answer := s.engineStep 3 3 0 tokenWork

end Sys2Proof.Machine
end

