-- ==== Sys2Proof/Machine/Vector.lean ====
section
/-! DEFINITION. Vector instructions: lanes under the mask, data movement, element arithmetic, comparison, widening and dot
products (R121 to R139). -/

namespace Sys2Proof.Machine

/-! ## Lanes -/

/-- Element i of a register, as its storage bits; a 6-bit format has bits [5:0] of its byte (R43). -/
def elemAtLane (t : ElemType) (v : VReg) (i : Nat) : Nat := v.toNat / 2 ^ (t.width * i) % 2 ^ t.bits

def elemsOf (t : ElemType) (v : VReg) : Array Nat := ((List.range t.count).map (elemAtLane t v)).toArray

/-- A register from lanes of w bits, lane 0 lowest. -/
def packLanes (w : Nat) : List Nat → Nat
  | [] => 0
  | e :: es => e % 2 ^ w + 2 ^ w * packLanes w es

/-- Whether lane i of width w is active under a top (R123). -/
def laneOn (top : Mask) (w i : Nat) : Bool := top.getLsbD (i * (w / 4))

/-- The nibbles that the active lanes of width w occupy. -/
def laneMask (top : Mask) (w : Nat) : Mask :=
  if top = BitVec.allOnes 1024 then top
  else BitVec.ofNat 1024 (packLanes (w / 4) ((List.range (4096 / w)).map fun i => if laneOn top w i then 2 ^ (w / 4) - 1 else 0))

/-- Latency of a vector result: four times as long on the T strand (R75, R121). -/
def State.vlat (s : State) (l : Nat) : Nat := if isTStrand s.who then 4 * l else l

/-- Writes the active lanes, of width w, of consecutive registers (R123, R124): `f r i` gives lane i of register d + r. Lanes
that are not active are not computed. -/
def State.emitLanes (s : State) (d : Fin 64) (g w lat : Nat) (f : Nat → Nat → Nat × Flags) : State :=
  let top := s.top
  let regs := (List.range g).map fun r => (List.range (4096 / w)).map fun i => if laneOn top w i then f r i else (0, 0)
  let parts := (regs.zipIdx).map fun p =>
    (physV s.who s.strand (d + Fin.ofNat 64 p.2), (BitVec.ofNat 4096 (packLanes w (p.1.map (·.1))) : VReg))
  s.emit (.vec parts (laneMask top w)) (orAll (regs.flatMap fun l => l.map (·.2))) (s.vlat lat)

/-- Writes a whole register, whatever the mask. -/
def State.emitWhole (s : State) (d : Fin 64) (v : VReg) (flags : Flags) (lat : Nat) : State :=
  s.emit (.vec [(physV s.who s.strand d, v)] (BitVec.allOnes 1024)) flags (s.vlat lat)

/-- An elementwise form of one register: `f i` gives element i of type t. -/
def State.each (s : State) (d : Fin 64) (t : ElemType) (lat : Nat) (f : Nat → Nat × Flags) : Answer :=
  issue (s.emitLanes d 1 t.width lat fun _ i => f i)

/-- An elementwise form of one source. -/
def State.each1 (s : State) (d a : Fin 64) (t : ElemType) (lat : Nat) (f : Nat → Nat × Flags) : Answer :=
  let x := elemsOf t (s.vr a)
  s.each d t lat fun i => f x[i]!

/-- An elementwise form of two sources. -/
def State.each2 (s : State) (d a b : Fin 64) (t : ElemType) (lat : Nat) (f : Nat → Nat → Nat × Flags) : Answer :=
  let x := elemsOf t (s.vr a)
  let y := elemsOf t (s.vr b)
  s.each d t lat fun i => f x[i]! y[i]!

/-- An elementwise form of two sources and the old destination. -/
def State.each3 (s : State) (d a b : Fin 64) (t : ElemType) (lat : Nat) (f : Nat → Nat → Nat → Nat × Flags) : Answer :=
  let x := elemsOf t (s.vr a)
  let y := elemsOf t (s.vr b)
  let z := elemsOf t (s.vr d)
  s.each d t lat fun i => f x[i]! y[i]! z[i]!

/-! ## Moving data (R128 to R131) -/

/-- The checks of R129: alignment, then range. -/
def State.vecAddr (s : State) (a b : Fin 64) : Except Nat Nat :=
  match s.spCheck (s.addrIdx a b) 512 64 with
  | some c => .error c
  | none => .ok (s.addrIdx a b).toNat

/-- The nibbles of a mask for the n bytes of a register from byte o on. -/
def maskPart (m : Mask) (o n : Nat) : Nat := bitsOf m.toNat (2 * o) (2 * n)

/-- Whether a strand's line is poisoned, its shadow copy included. -/
def State.spLineBad (s : State) (l : Nat) : Bool := s.spBad (128 * l) 128

/-- The bytes of a register's elements of a type: those of a 6-bit format have bits [7:6] zero (R43). -/
def cleanBytes (t : ElemType) (bs : List Byte) : List Byte := if t.bits = 6 then bs.map (· &&& 0x3F) else bs

/-- R128, R129, R177: loads 512 bytes of the scratchpad, under the mask. A poisoned line traps where an active element reads
it. The elements of a 6-bit format are written with bits [7:6] zero (R43, log entry 39). -/
def execVld (d a b : Fin 64) (t : ElemType) (s : State) : Answer :=
  let va := s.addrIdx a b
  match s.vecAddr a b with
  | .error c => s.raise c va s.here
  | .ok at_ =>
    let m := laneMask s.top t.width
    if s.couples at_ 512 false then s.block
    else if (lineParts at_ 512).any fun p => s.spLineBad p.1 && maskPart m (p.2.1 - at_) p.2.2 != 0 then
      s.raise 0x30 va s.here
    else
      issue (s.emit (.vec [(physV s.who s.strand d, BitVec.ofNat 4096 (natOfBytes (cleanBytes t (s.spRead at_ 512))))] m) 0 (s.vlat 8))

/-- R128, R129, R177: stores the active elements of v[d], line by line; a line without one is not written. Bits [7:6] of the elements
of a 6-bit format are ignored, and stored as zero (R43, log entry 39). -/
def execVst (d a b : Fin 64) (t : ElemType) (s : State) : Answer :=
  let va := s.addrIdx a b
  match s.vecAddr a b with
  | .error c => s.raise c va s.here
  | .ok at_ =>
    let m := laneMask s.top t.width
    if s.couples at_ 512 true then s.block
    else
      let old : VReg := BitVec.ofNat 4096 (natOfBytes (s.spRead at_ 512))
      let new : VReg := if t.bits = 6 then BitVec.ofNat 4096 (natOfBytes (cleanBytes t (bytesOfNat 512 (s.vr d).toNat))) else s.vr d
      let bs := bytesOfNat 512 (mergeNibbles old new m).toNat
      issue ((lineParts at_ 512).foldl (fun (u : State) p =>
        let on := maskPart m (p.2.1 - at_) p.2.2
        if on = 0 then u else u.spPut p.2.1 ((bs.drop (p.2.1 - at_)).take p.2.2) (on = 2 ^ (2 * p.2.2) - 1)) s)

/-- R128, R130: pops 8 entries into vd. -/
def execVqpop (d : Fin 64) (q : Fin 8) (s : State) : Answer :=
  match s.core.q[q].poppable 8 s.cycle with
  | none => s.block
  | some es =>
    match es.find? (·.poison) with
    | some e => s.raise 0x30 e.addr s.here
    | none => issue ((s.setQueue q (s.core.q[q].pop 8)).emitWhole d (BitVec.ofNat 4096 (packLanes 512 (es.map (·.data.toNat)))) 0 2)

/-- R128, R130: pushes the 8 parts of v[a]. -/
def execVqpush (q : Fin 8) (a : Fin 64) (s : State) : Answer :=
  if 8 < s.core.q[q].entries.length then s.block
  else
    let v := (s.vr a).toNat
    issue (s.setQueue q (s.core.q[q].push ((List.range 8).map fun j => pushed (BitVec.ofNat 512 (v / 2 ^ (512 * j))) s.cycle)))

/-- R128: copies elements. -/
def execVmov (d a : Fin 64) (t : ElemType) (s : State) : Answer := s.each1 d a t 2 fun x => (x, 0)

/-- R128: every element becomes the low bits of x[a]. -/
def execVbcst (d a : Fin 64) (t : ElemType) (s : State) : Answer := s.each d t 2 fun _ => ((s.xr a).toNat % 2 ^ t.bits, 0)

/-- R128, R131: replaces the element x[b] mod N, if it is active. -/
def execVins (d a b : Fin 64) (t : ElemType) (s : State) : Answer :=
  let w := t.width
  let i := (s.xr b).toNat % t.count
  let m : Mask := laneMask s.top w &&& BitVec.ofNat 1024 ((2 ^ (w / 4) - 1) * 2 ^ (i * (w / 4)))
  issue (s.emit (.vec [(physV s.who s.strand d, BitVec.ofNat 4096 ((s.xr a).toNat % 2 ^ t.bits * 2 ^ (w * i)))] m) 0 (s.vlat 2))

/-- R128, R131: reads the element x[b] mod N of v[a] into x[d]. -/
def execVextr (d a b : Fin 64) (t : ElemType) (s : State) : Answer :=
  let e := elemAtLane t (s.vr a) ((s.xr b).toNat % t.count)
  issue (s.emitX d (if t.isSigned then BitVec.ofInt 64 (signedOf t.width e) else BitVec.ofNat 64 e) (s.vlat 2))

/-! ## Element arithmetic (R132 to R136) -/

/-- R132: sum. -/
def execVadd (d a b : Fin 64) (t : ElemType) (s : State) : Answer := s.each2 d a b t 2 (addElem t)
/-- R132: difference. -/
def execVsub (d a b : Fin 64) (t : ElemType) (s : State) : Answer := s.each2 d a b t 2 (subElem t)
/-- R132: product. -/
def execVmul (d a b : Fin 64) (t : ElemType) (s : State) : Answer := s.each2 d a b t 4 (mulElem t)
/-- R132, R133: minimum. -/
def execVmin (d a b : Fin 64) (t : ElemType) (s : State) : Answer := s.each2 d a b t 2 (pickElem t false)
/-- R132, R133: maximum. -/
def execVmax (d a b : Fin 64) (t : ElemType) (s : State) : Answer := s.each2 d a b t 2 (pickElem t true)
/-- R132, R133: absolute value. -/
def execVabs (d a : Fin 64) (t : ElemType) (s : State) : Answer := s.each1 d a t 2 (absElem t)
/-- R132, R133: negation. -/
def execVneg (d a : Fin 64) (t : ElemType) (s : State) : Answer := s.each1 d a t 2 (negElem t)
/-- R134: a × b + vd. -/
def execVfma (d a b : Fin 64) (t : ElemType) (s : State) : Answer := s.each3 d a b t 4 (fmaElem t false)
/-- R134: a × b − vd. -/
def execVfms (d a b : Fin 64) (t : ElemType) (s : State) : Answer := s.each3 d a b t 4 (fmaElem t true)
/-- R139: the larger magnitude. -/
def execVamax (d a b : Fin 64) (t : ElemType) (s : State) : Answer := s.each2 d a b t 2 (amaxElem t)

/-- R135: bitwise AND. -/
def execVand (d a b : Fin 64) (t : ElemType) (s : State) : Answer := s.each2 d a b t 2 fun x y => (x &&& y, 0)
/-- R135: bitwise OR. -/
def execVor (d a b : Fin 64) (t : ElemType) (s : State) : Answer := s.each2 d a b t 2 fun x y => (x ||| y, 0)
/-- R135: bitwise XOR. -/
def execVxor (d a b : Fin 64) (t : ElemType) (s : State) : Answer := s.each2 d a b t 2 fun x y => (x ^^^ y, 0)
/-- R135: a AND NOT b. -/
def execVandn (d a b : Fin 64) (t : ElemType) (s : State) : Answer :=
  s.each2 d a b t 2 fun x y => (x &&& (2 ^ t.width - 1 - y), 0)
/-- R135: shift left; by w or more gives 0. -/
def execVshl (d a b : Fin 64) (t : ElemType) (s : State) : Answer :=
  s.each2 d a b t 2 fun x y => (if t.width ≤ y then 0 else x * 2 ^ y % 2 ^ t.width, 0)
/-- R135: logical shift right. -/
def execVshr (d a b : Fin 64) (t : ElemType) (s : State) : Answer :=
  s.each2 d a b t 2 fun x y => (if t.width ≤ y then 0 else x / 2 ^ y, 0)
/-- R135: arithmetic shift right; by w or more gives copies of the sign. -/
def execVsra (d a b : Fin 64) (t : ElemType) (s : State) : Answer :=
  s.each2 d a b t 2 fun x y => (unsignedOf t.width (signedOf t.width x / (2 ^ min y t.width : Nat)), 0)

/-- An element of all ones where a relation holds, else zeros. -/
def cmpLane (t : ElemType) (c : Cmp) (x y : Nat) : Nat × Flags :=
  let (v, f) := cmpElem t c x y
  (if v then 2 ^ t.width - 1 else 0, f)

/-- R136: equal. -/
def execVcmpEq (d a b : Fin 64) (t : ElemType) (s : State) : Answer := s.each2 d a b t 2 (cmpLane t .eq)
/-- R136: not equal. -/
def execVcmpNe (d a b : Fin 64) (t : ElemType) (s : State) : Answer := s.each2 d a b t 2 (cmpLane t .ne)
/-- R136: less. -/
def execVcmpLt (d a b : Fin 64) (t : ElemType) (s : State) : Answer := s.each2 d a b t 2 (cmpLane t .lt)
/-- R136: less or equal. -/
def execVcmpLe (d a b : Fin 64) (t : ElemType) (s : State) : Answer := s.each2 d a b t 2 (cmpLane t .le)
/-- R136: greater. -/
def execVcmpGt (d a b : Fin 64) (t : ElemType) (s : State) : Answer := s.each2 d a b t 2 (cmpLane t .gt)
/-- R136: greater or equal. -/
def execVcmpGe (d a b : Fin 64) (t : ElemType) (s : State) : Answer := s.each2 d a b t 2 (cmpLane t .ge)
/-- R136: unordered. -/
def execVcmpUn (d a b : Fin 64) (t : ElemType) (s : State) : Answer := s.each2 d a b t 2 (cmpLane t .un)

/-- R137: v[a] where the old vd has ones, v[b] elsewhere, bit by bit. -/
def execVsel (d a b : Fin 64) (t : ElemType) (s : State) : Answer :=
  s.each3 d a b t 2 fun x y z => ((x &&& z) ||| (y &&& (2 ^ t.width - 1 - z)), 0)

/-! ## Widening and dot product (R138, R139) -/

/-- Element i of a pair, in the interleave of R124. -/
def pairElem (t : ElemType) (lo hi : VReg) (i : Nat) : Nat := elemAtLane t (if i % 2 = 0 then lo else hi) (i / 2)

/-- A widening form: result element i from the source elements and the old pair. -/
def State.widening (s : State) (d a b : Fin 64) (t : ElemType) (f : Nat → Nat → Nat → Nat × Flags) : Answer :=
  let x := elemsOf t (s.vr a)
  let y := elemsOf t (s.vr b)
  let lo := s.vr d
  let hi := s.vr (d + 1)
  issue (s.emitLanes d 2 t.wide.width 4 fun r i => f x[2 * i + r]! y[2 * i + r]! (pairElem t.wide lo hi (2 * i + r)))

/-- R138: products. -/
def execVwmul (d a b : Fin 64) (t : ElemType) (s : State) : Answer :=
  s.widening d a b t fun x y _ =>
    if t.isInt then (wrapInt t.wide (intOf t x * intOf t y), 0)
    else roundExact .f32 .rne (exactMul (decodeElem t x) (decodeElem t y))

/-- R138: sums. -/
def execVwadd (d a b : Fin 64) (t : ElemType) (s : State) : Answer :=
  s.widening d a b t fun x y _ =>
    if t.isInt then (wrapInt t.wide (intOf t x + intOf t y), 0)
    else roundExact .f32 .rne (exactAdd .rne (decodeElem t x) (decodeElem t y))

/-- R138: products added to the old pair. -/
def execVwfma (d a b : Fin 64) (t : ElemType) (s : State) : Answer :=
  s.widening d a b t fun x y z =>
    if t.isInt then (wrapInt t.wide (intOf t.wide z + intOf t x * intOf t y), 0)
    else roundExact .f32 .rne (exactFma .rne (decodeElem t x) (decodeElem t y) (decodeElem .f32 z))

/-- Lane j of a dot product (R139). Of special values the four products are added pairwise, then the lane: R139 has one exact sum and gives
no order, on which only the raising of IV beside a NaN rests (DESIGN CHOICE, log entry 150). -/
def dotLane (t : ElemType) (z : Nat) (xs ys : List Nat) : Nat × Flags :=
  if t.isInt then
    (unsignedOf 32 (((xs.zip ys).foldl (fun (acc : Int) p => acc + intOf t p.1 * intOf t p.2) 0) + (z : Int)), 0)
  else
    let (v, f) := exactTree 3 ((xs.zip ys).map fun p => exactMul (decodeElem t p.1) (decodeElem t p.2))
    let (u, g) := exactAdd .rne (decodeElem .f32 z) v
    roundExact .f32 .rne (u, f ||| g)

/-- R139: 128 lanes of 32 bits, each with four products added. -/
def execVdot4 (d a b : Fin 64) (t : ElemType) (s : State) : Answer :=
  let x := elemsOf t (s.vr a)
  let y := elemsOf t (s.vr b)
  let z := elemsOf .i32 (s.vr d)
  issue (s.emitLanes d 1 32 4 fun _ j =>
    dotLane t z[j]! ((List.range 4).map fun q => x[4 * j + q]!) ((List.range 4).map fun q => y[4 * j + q]!))

end Sys2Proof.Machine
end

