-- ==== Sys2Proof/Machine/VectorShape.lean ====
section
/-! DEFINITION. Vector conversion, rearrangement, reduction, lookup, special functions, random words and the mask stack (R140 to
R154). -/

namespace Sys2Proof.Machine

/-! ## Conversion (R140 to R142) -/

/-- The stream word of element i of a stochastic form (R126). -/
def State.streamWord (s : State) (i : Nat) : Nat :=
  let x := (s.xr 62).toNat
  srWord s.unit.seed (s.workId).1 (bitsOf x 48 16) ((bitsOf x 0 34 + i) % 2 ^ 34)

/-- R140, R141: converts each element of v[a] from t to e, into one register, a pair or a quad. -/
def execVcvt (d a : Fin 64) (sat : Bool) (e t : ElemType) (r : Rm) (s : State) : Answer :=
  let x := elemsOf t (s.vr a)
  let g := convRatio t e
  issue (s.emitLanes d g e.width 3 fun k i =>
    let n := g * i + k
    convertElem t e r sat (if r = .sr then s.streamWord n else 0) x[n]!)

/-- R140, R141: converts the elements of a pair or quad into one register. -/
def execVnarrow (d a : Fin 64) (sat : Bool) (e t : ElemType) (r : Rm) (s : State) : Answer :=
  let g := convRatio e t
  let xs := (List.range g).map fun k => elemsOf t (s.vr (a + Fin.ofNat 64 k))
  issue (s.emitLanes d 1 e.width 3 fun _ i =>
    convertElem t e r sat (if r = .sr then s.streamWord i else 0) (xs.getD (i % g) #[])[i / g]!)

/-! ## Rearrangement (R143 to R145) -/

/-- R143: element j of vd ← element k of v[a], k by the index in v[b]. -/
def execVperm (d a b : Fin 64) (t : ElemType) (s : State) : Answer :=
  let x := elemsOf t (s.vr a)
  let y := elemsOf t (s.vr b)
  let g := min (2 ^ t.bits) t.count
  s.each d t 3 fun j => (x[g * (j / g) + y[j]! % g]!, 0)

/-- R144: interleaves v[a] and v[b] into consecutive halves. -/
def execVzip (d a b : Fin 64) (t : ElemType) (s : State) : Answer :=
  let x := elemsOf t (s.vr a)
  let y := elemsOf t (s.vr b)
  issue (s.emitLanes d 2 t.width 3 fun r i =>
    let n := r * t.count + i
    (if n % 2 = 0 then x[n / 2]! else y[n / 2]!, 0))

/-- R144: the even-indexed elements of v[a], v[b] to vd and the odd-indexed ones to vd+1. -/
def execVunzip (d a b : Fin 64) (t : ElemType) (s : State) : Answer :=
  let x := elemsOf t (s.vr a)
  let y := elemsOf t (s.vr b)
  issue (s.emitLanes d 2 t.width 3 fun r i =>
    let n := 2 * i + r
    (if n < t.count then x[n]! else y[n - t.count]!, 0))

/-- R145: slides by one element. -/
def execVslide (d a b : Fin 64) (t : ElemType) (s : State) : Answer :=
  let x := elemsOf t (s.vr a)
  s.each d t 3 fun j => (if j + 1 < t.count then x[j + 1]! else elemAtLane t (s.vr b) 0, 0)

/-! ## Reduction and scan (R146 to R148) -/

/-- The identity of an operation: 0 sum, 1 min, 2 max. -/
def identityOf (t : ElemType) (op : Nat) : Nat :=
  if t.isInt then
    (match op with
      | 0 => 0
      | 1 => unsignedOf t.width (intMax t)
      | _ => unsignedOf t.width (intMin t))
  else
    (match op with
      | 0 => signBit t true
      | 1 => infCode t
      | _ => signBit t true + infCode t)

/-- Combines two elements. -/
def combine (t : ElemType) (op : Nat) (x y : Nat) : Nat × Flags :=
  match op with
  | 0 => addElem t x y
  | 1 => pickElem t false x y
  | _ => pickElem t true x y

/-- The pairwise tree of R147 in binary32, by fuel on its levels. -/
def sumTree : Nat → List (Nat × Flags) → Nat × Flags
  | 0, xs => xs.headD (0, 0)
  | n + 1, xs =>
    let rec level : List (Nat × Flags) → List (Nat × Flags)
      | x :: y :: rest =>
        let (v, f) := addElem .f32 x.1 y.1
        (v, f ||| x.2 ||| y.2) :: level rest
      | l => l
    sumTree n (level xs)

/-- R146, R147: reduces v[a] and writes the whole of vd. -/
def execVred (d a : Fin 64) (o : Fin 4) (t : ElemType) (s : State) : Answer :=
  let top := s.top
  let x := elemsOf t (s.vr a)
  let on := (List.range t.count).filter (laneOn top t.width)
  let (v, f) : Nat × Flags :=
    if o.val = 0 then
      if t.isInt then (unsignedOf 64 (on.foldl (fun (acc : Int) i => acc + intOf t x[i]!) 0), 0)
      else sumTree 8 ((List.range t.count).map fun i =>
        if laneOn top t.width i then roundTo .f32 .rne false 0 (decodeElem t x[i]!) else (2 ^ 31, 0))
    else on.foldl (fun acc i =>
      let (v, f) := combine t o.val acc.1 x[i]!
      (v, acc.2 ||| f)) (identityOf t o.val, 0)
  issue (s.emitWhole d (BitVec.ofNat 4096 v) f 6)

/-- The running values of a scan, with the flags raised so far; inactive elements contribute the identity. -/
def scanFrom (t : ElemType) (op : Nat) (run : Nat) (fl : Flags) : List (Nat × Bool) → List Nat × Flags
  | [] => ([], fl)
  | (x, on) :: rest =>
    let (v, f) := if on then combine t op run x else (run, 0)
    let (vs, g) := scanFrom t op v (fl ||| f) rest
    (v :: vs, g)

/-- R146, R148: the inclusive scan of v[a]; the flags are those of every step. -/
def execVscan (d a : Fin 64) (o : Fin 4) (t : ElemType) (s : State) : Answer :=
  let top := s.top
  let x := elemsOf t (s.vr a)
  let (vs, f) := scanFrom t o.val (identityOf t o.val) 0 ((List.range t.count).map fun i => (x[i]!, laneOn top t.width i))
  let r := vs.toArray
  issue (s.emitLanes d 1 t.width 6 fun _ i => (r[i]!, f))

/-! ## Special functions, lookup, random words (R149 to R152) -/

/-- R149: 2^x. -/
def execVexp2 (d a : Fin 64) (r : Rm) (t : ElemType) (s : State) : Answer := s.each1 d a t 8 (specialFn .exp2 t r)
/-- R149: log2 x. -/
def execVlog2 (d a : Fin 64) (r : Rm) (t : ElemType) (s : State) : Answer := s.each1 d a t 8 (specialFn .log2 t r)
/-- R149: 1/x. -/
def execVrcp (d a : Fin 64) (r : Rm) (t : ElemType) (s : State) : Answer := s.each1 d a t 8 (specialFn .rcp t r)
/-- R149: 1/√x. -/
def execVrsq (d a : Fin 64) (r : Rm) (t : ElemType) (s : State) : Answer := s.each1 d a t 8 (specialFn .rsq t r)
/-- R149: tanh x. -/
def execVtanh (d a : Fin 64) (r : Rm) (t : ElemType) (s : State) : Answer := s.each1 d a t 8 (specialFn .tanh t r)

/-- R150: writes the lookup table. -/
def execVlutld (a : Fin 64) (s : State) : Answer := issue (s.emit (.lut (s.vr a)) 0 (s.vlat 5))

/-- R151: looks up each element of v[a], into a pair or a quad of 16-bit lanes. -/
def execVlut (d a : Fin 64) (t : ElemType) (s : State) : Answer :=
  let x := elemsOf t (s.vr a)
  let table := s.unit.lut
  let g := if t.width = 4 then 4 else 2
  issue (s.emitLanes d g 16 5 fun k i => (elemAtLane .n16 table x[g * i + k]!, 0))

/-- R152: the stream word of each 32-bit lane. -/
def execVrng (d : Fin 64) (s : State) : Answer := s.each d .n32 4 fun j => (s.streamWord j, 0)

/-! ## The mask stack (R153, R154) -/

/-- R153: pushes the top AND the nonzero nibbles of v[a]. -/
def execMpush (a : Fin 64) (s : State) : Answer :=
  if 16 ≤ s.strand.masks.length then s.raise 0x0B 16 0
  else
    let v := (s.vr a).toNat
    let nz := packLanes 1 ((List.range 1024).map fun n => if bitsOf v (4 * n) 4 = 0 then 0 else 1)
    issue (s.emit (.maskPush (s.top &&& BitVec.ofNat 1024 nz)) 0 1)

/-- R153: the other side of the mask: parent AND NOT top. -/
def execMinv (s : State) : Answer :=
  match s.strand.masks with
  | [] => s.raise 0x0B 0 0
  | t :: rest => issue (s.emit (.maskTop (rest.headD (BitVec.allOnes 1024) &&& ~~~t)) 0 1)

/-- R153: removes the top. -/
def execMpop (s : State) : Answer :=
  if s.strand.masks.isEmpty then s.raise 0x0B 0 0 else issue (s.emit .maskPop 0 1)

/-- R153: the top as nibbles of ones and zeros, whatever the mask. -/
def execMtop (d : Fin 64) (s : State) : Answer :=
  let v := packLanes 4 ((List.range 1024).map fun n => if s.top.getLsbD n then 15 else 0)
  issue (s.emitWhole d (BitVec.ofNat 4096 v) 0 1)

end Sys2Proof.Machine
end

