-- ==== Sys2Proof/Machine/Dispatch.lean ====
section
/-! DEFINITION. The dispatch of instructions and events to their meanings. -/

namespace Sys2Proof.Machine

def exec (i : Instr) (s : State) : Host.Outcome State Fault Refusal :=
  match i with
  | .trap c => Sys2Proof.Machine.execTrap c s
  | .rdcyc d => Sys2Proof.Machine.execRdcyc d s
  | .rdwid d f => Sys2Proof.Machine.execRdwid d f s
  | .rdsr d n => Sys2Proof.Machine.execRdsr d n s
  | .wrsr n a => Sys2Proof.Machine.execWrsr n a s
  | .fenceE a => Sys2Proof.Machine.execFenceE a s
  | .add d a b => Sys2Proof.Machine.execAdd d a b s
  | .sub d a b => Sys2Proof.Machine.execSub d a b s
  | .mul d a b => Sys2Proof.Machine.execMul d a b s
  | .mulhI64 d a b => Sys2Proof.Machine.execMulhI64 d a b s
  | .mulhN64 d a b => Sys2Proof.Machine.execMulhN64 d a b s
  | .divI64 d a b => Sys2Proof.Machine.execDivI64 d a b s
  | .divN64 d a b => Sys2Proof.Machine.execDivN64 d a b s
  | .remI64 d a b => Sys2Proof.Machine.execRemI64 d a b s
  | .remN64 d a b => Sys2Proof.Machine.execRemN64 d a b s
  | .minI64 d a b => Sys2Proof.Machine.execMinI64 d a b s
  | .minN64 d a b => Sys2Proof.Machine.execMinN64 d a b s
  | .maxI64 d a b => Sys2Proof.Machine.execMaxI64 d a b s
  | .maxN64 d a b => Sys2Proof.Machine.execMaxN64 d a b s
  | .abs d a => Sys2Proof.Machine.execAbs d a s
  | .and d a b => Sys2Proof.Machine.execAnd d a b s
  | .or d a b => Sys2Proof.Machine.execOr d a b s
  | .xor d a b => Sys2Proof.Machine.execXor d a b s
  | .andn d a b => Sys2Proof.Machine.execAndn d a b s
  | .shl d a b => Sys2Proof.Machine.execShl d a b s
  | .shr d a b => Sys2Proof.Machine.execShr d a b s
  | .sra d a b => Sys2Proof.Machine.execSra d a b s
  | .rot d a b => Sys2Proof.Machine.execRot d a b s
  | .clz d a => Sys2Proof.Machine.execClz d a s
  | .ctz d a => Sys2Proof.Machine.execCtz d a s
  | .popc d a => Sys2Proof.Machine.execPopc d a s
  | .shlImm d a n => Sys2Proof.Machine.execShlImm d a n s
  | .shrImm d a n => Sys2Proof.Machine.execShrImm d a n s
  | .sraImm d a n => Sys2Proof.Machine.execSraImm d a n s
  | .rotImm d a n => Sys2Proof.Machine.execRotImm d a n s
  | .sel d a b k => Sys2Proof.Machine.execSel d a b k s
  | .lea d a b st => Sys2Proof.Machine.execLea d a b st s
  | .addi d a imm => Sys2Proof.Machine.execAddi d a imm s
  | .movi d imm => Sys2Proof.Machine.execMovi d imm s
  | .fsh d a b n => Sys2Proof.Machine.execFsh d a b n s
  | .bfxN64 d a w p => Sys2Proof.Machine.execBfxN64 d a w p s
  | .bfxI64 d a w p => Sys2Proof.Machine.execBfxI64 d a w p s
  | .bfi d a w p => Sys2Proof.Machine.execBfi d a w p s
  | .cmpEq d a b => Sys2Proof.Machine.execCmpEq d a b s
  | .cmpNe d a b => Sys2Proof.Machine.execCmpNe d a b s
  | .cmpLt d a b => Sys2Proof.Machine.execCmpLt d a b s
  | .cmpGe d a b => Sys2Proof.Machine.execCmpGe d a b s
  | .cmpLtu d a b => Sys2Proof.Machine.execCmpLtu d a b s
  | .cmpGeu d a b => Sys2Proof.Machine.execCmpGeu d a b s
  | .pand d a b => Sys2Proof.Machine.execPand d a b s
  | .por d a b => Sys2Proof.Machine.execPor d a b s
  | .pxor d a b => Sys2Proof.Machine.execPxor d a b s
  | .pnot d a => Sys2Proof.Machine.execPnot d a s
  | .ld64 d a o => Sys2Proof.Machine.execLd64 d a o s
  | .ldN32 d a o => Sys2Proof.Machine.execLdN32 d a o s
  | .ldI32 d a o => Sys2Proof.Machine.execLdI32 d a o s
  | .st64 d a o => Sys2Proof.Machine.execSt64 d a o s
  | .st32 d a o => Sys2Proof.Machine.execSt32 d a o s
  | .ldsp d a o => Sys2Proof.Machine.execLdsp d a o s
  | .stsp d a o => Sys2Proof.Machine.execStsp d a o s
  | .ldN8 d a b => Sys2Proof.Machine.execLdN8 d a b s
  | .ldI8 d a b => Sys2Proof.Machine.execLdI8 d a b s
  | .ldN16 d a b => Sys2Proof.Machine.execLdN16 d a b s
  | .ldI16 d a b => Sys2Proof.Machine.execLdI16 d a b s
  | .st8 d a b => Sys2Proof.Machine.execSt8 d a b s
  | .st16 d a b => Sys2Proof.Machine.execSt16 d a b s
  | .ldq q a b => Sys2Proof.Machine.execLdq q a b s
  | .stq q a b => Sys2Proof.Machine.execStq q a b s
  | .qpush q a => Sys2Proof.Machine.execQpush q a s
  | .qpop d q => Sys2Proof.Machine.execQpop d q s
  | .bqpush p => Sys2Proof.Machine.execBqpush p s
  | .amoAdd d a b => Sys2Proof.Machine.execAmoAdd d a b s
  | .amoMinI64 d a b => Sys2Proof.Machine.execAmoMinI64 d a b s
  | .amoMinN64 d a b => Sys2Proof.Machine.execAmoMinN64 d a b s
  | .amoMaxI64 d a b => Sys2Proof.Machine.execAmoMaxI64 d a b s
  | .amoMaxN64 d a b => Sys2Proof.Machine.execAmoMaxN64 d a b s
  | .amoAnd d a b => Sys2Proof.Machine.execAmoAnd d a b s
  | .amoOr d a b => Sys2Proof.Machine.execAmoOr d a b s
  | .amoXor d a b => Sys2Proof.Machine.execAmoXor d a b s
  | .amoXchg d a b => Sys2Proof.Machine.execAmoXchg d a b s
  | .amoCas d a b => Sys2Proof.Machine.execAmoCas d a b s
  | .amoFaddF32 d a b => Sys2Proof.Machine.execAmoFaddF32 d a b s
  | .amoFaddBf16 d a b => Sys2Proof.Machine.execAmoFaddBf16 d a b s
  | .amoFmaxF32 d a b => Sys2Proof.Machine.execAmoFmaxF32 d a b s
  | .amoFmaxBf16 d a b => Sys2Proof.Machine.execAmoFmaxBf16 d a b s
  | .cadd c a b => Sys2Proof.Machine.execCadd c a b s
  | .cread d a c => Sys2Proof.Machine.execCread d a c s
  | .cwait d a b => Sys2Proof.Machine.execCwait d a b s
  | .kadd d a => Sys2Proof.Machine.execKadd d a s
  | .kwait a b => Sys2Proof.Machine.execKwait a b s
  | .kread d a => Sys2Proof.Machine.execKread d a s
  | .klink d a b => Sys2Proof.Machine.execKlink d a b s
  | .br imm => Sys2Proof.Machine.execBr imm s
  | .bp p imm => Sys2Proof.Machine.execBp p imm s
  | .bpF p imm => Sys2Proof.Machine.execBpF p imm s
  | .bq imm => Sys2Proof.Machine.execBq imm s
  | .call imm => Sys2Proof.Machine.execCall imm s
  | .dbnz n imm => Sys2Proof.Machine.execDbnz n imm s
  | .dbnzG n imm => Sys2Proof.Machine.execDbnzG n imm s
  | .jr a => Sys2Proof.Machine.execJr a s
  | .ovswap a => Sys2Proof.Machine.execOvswap a s
  | .specBegin a b => Sys2Proof.Machine.execSpecBegin a b s
  | .ubz imm => Sys2Proof.Machine.execUbz imm s
  | .nest d n => Sys2Proof.Machine.execNest d n s
  | .nestR d n st => Sys2Proof.Machine.execNestR d n st s
  | .wld d a b => Sys2Proof.Machine.execWld d a b s
  | .wst d a b => Sys2Proof.Machine.execWst d a b s
  | .wset d a q => Sys2Proof.Machine.execWset d a q s
  | .wgo d => Sys2Proof.Machine.execWgo d s
  | .wgoNb d p => Sys2Proof.Machine.execWgoNb d p s
  | .wpatch d a q => Sys2Proof.Machine.execWpatch d a q s
  | .ringdef r f n => Sys2Proof.Machine.execRingdef r f n s
  | .ringdefU r => Sys2Proof.Machine.execRingdefU r s
  | .ringpop r => Sys2Proof.Machine.execRingpop r s
  | .ringstat d r => Sys2Proof.Machine.execRingstat d r s
  | .tdef t a => Sys2Proof.Machine.execTdef t a s
  | .tfeRd d t => Sys2Proof.Machine.execTfeRd d t s
  | .tfeSet d t => Sys2Proof.Machine.execTfeSet d t s
  | .tfeClr d t => Sys2Proof.Machine.execTfeClr d t s
  | .rcfence a => Sys2Proof.Machine.execRcfence a s
  | .recld d a => Sys2Proof.Machine.execRecld d a s
  | .eqstat d q => Sys2Proof.Machine.execEqstat d q s
  | .eqstatC d q => Sys2Proof.Machine.execEqstatC d q s
  | .ecancelRes q => Sys2Proof.Machine.execEcancelRes q s
  | .ecancelOne q => Sys2Proof.Machine.execEcancelOne q s
  | .ecancelAll q => Sys2Proof.Machine.execEcancelAll q s
  | .vld d a b t => Sys2Proof.Machine.execVld d a b t s
  | .vst d a b t => Sys2Proof.Machine.execVst d a b t s
  | .vqpop d q => Sys2Proof.Machine.execVqpop d q s
  | .vqpush q a => Sys2Proof.Machine.execVqpush q a s
  | .vmov d a t => Sys2Proof.Machine.execVmov d a t s
  | .vbcst d a t => Sys2Proof.Machine.execVbcst d a t s
  | .vins d a b t => Sys2Proof.Machine.execVins d a b t s
  | .vextr d a b t => Sys2Proof.Machine.execVextr d a b t s
  | .vadd d a b t => Sys2Proof.Machine.execVadd d a b t s
  | .vsub d a b t => Sys2Proof.Machine.execVsub d a b t s
  | .vmul d a b t => Sys2Proof.Machine.execVmul d a b t s
  | .vmin d a b t => Sys2Proof.Machine.execVmin d a b t s
  | .vmax d a b t => Sys2Proof.Machine.execVmax d a b t s
  | .vabs d a t => Sys2Proof.Machine.execVabs d a t s
  | .vneg d a t => Sys2Proof.Machine.execVneg d a t s
  | .vfma d a b t => Sys2Proof.Machine.execVfma d a b t s
  | .vfms d a b t => Sys2Proof.Machine.execVfms d a b t s
  | .vwmul d a b t => Sys2Proof.Machine.execVwmul d a b t s
  | .vwadd d a b t => Sys2Proof.Machine.execVwadd d a b t s
  | .vwfma d a b t => Sys2Proof.Machine.execVwfma d a b t s
  | .vdot4 d a b t => Sys2Proof.Machine.execVdot4 d a b t s
  | .vamax d a b t => Sys2Proof.Machine.execVamax d a b t s
  | .vand d a b t => Sys2Proof.Machine.execVand d a b t s
  | .vor d a b t => Sys2Proof.Machine.execVor d a b t s
  | .vxor d a b t => Sys2Proof.Machine.execVxor d a b t s
  | .vandn d a b t => Sys2Proof.Machine.execVandn d a b t s
  | .vshl d a b t => Sys2Proof.Machine.execVshl d a b t s
  | .vshr d a b t => Sys2Proof.Machine.execVshr d a b t s
  | .vsra d a b t => Sys2Proof.Machine.execVsra d a b t s
  | .vcmpEq d a b t => Sys2Proof.Machine.execVcmpEq d a b t s
  | .vcmpNe d a b t => Sys2Proof.Machine.execVcmpNe d a b t s
  | .vcmpLt d a b t => Sys2Proof.Machine.execVcmpLt d a b t s
  | .vcmpLe d a b t => Sys2Proof.Machine.execVcmpLe d a b t s
  | .vcmpGt d a b t => Sys2Proof.Machine.execVcmpGt d a b t s
  | .vcmpGe d a b t => Sys2Proof.Machine.execVcmpGe d a b t s
  | .vcmpUn d a b t => Sys2Proof.Machine.execVcmpUn d a b t s
  | .vsel d a b t => Sys2Proof.Machine.execVsel d a b t s
  | .vperm d a b t => Sys2Proof.Machine.execVperm d a b t s
  | .vzip d a b t => Sys2Proof.Machine.execVzip d a b t s
  | .vunzip d a b t => Sys2Proof.Machine.execVunzip d a b t s
  | .vslide d a b t => Sys2Proof.Machine.execVslide d a b t s
  | .vred d a o t => Sys2Proof.Machine.execVred d a o t s
  | .vscan d a o t => Sys2Proof.Machine.execVscan d a o t s
  | .vlut d a t => Sys2Proof.Machine.execVlut d a t s
  | .vexp2 d a r t => Sys2Proof.Machine.execVexp2 d a r t s
  | .vlog2 d a r t => Sys2Proof.Machine.execVlog2 d a r t s
  | .vrcp d a r t => Sys2Proof.Machine.execVrcp d a r t s
  | .vrsq d a r t => Sys2Proof.Machine.execVrsq d a r t s
  | .vtanh d a r t => Sys2Proof.Machine.execVtanh d a r t s
  | .vlutld a => Sys2Proof.Machine.execVlutld a s
  | .vrng d => Sys2Proof.Machine.execVrng d s
  | .vcvt d a sat e t r => Sys2Proof.Machine.execVcvt d a sat e t r s
  | .vnarrow d a sat e t r => Sys2Proof.Machine.execVnarrow d a sat e t r s
  | .mpush a => Sys2Proof.Machine.execMpush a s
  | .mtop d => Sys2Proof.Machine.execMtop d s
  | .attmask a b => Sys2Proof.Machine.execAttmask a b s
  | .attstLd n a => Sys2Proof.Machine.execAttstLd n a s
  | .attstLdM n a => Sys2Proof.Machine.execAttstLdM n a s
  | .attstSt n a => Sys2Proof.Machine.execAttstSt n a s
  | .seqbind n a => Sys2Proof.Machine.execSeqbind n a s
  | .kvappend d a b => Sys2Proof.Machine.execKvappend d a b s
  | .kvput d a b => Sys2Proof.Machine.execKvput d a b s
  | .kvinv a b => Sys2Proof.Machine.execKvinv a b s
  | .xlinvPg a => Sys2Proof.Machine.execXlinvPg a s
  | .xlinvRg a b => Sys2Proof.Machine.execXlinvRg a b s
  | .poisonClr a => Sys2Proof.Machine.execPoisonClr a s
  | .poisonClrSp a => Sys2Proof.Machine.execPoisonClrSp a s
  | .movl d v => Sys2Proof.Machine.execMovl d v s
  | .movlN d v => Sys2Proof.Machine.execMovlN d v s
  | .movlH d v => Sys2Proof.Machine.execMovlH d v s
  | .pw t k v => Sys2Proof.Machine.execPw t k v s
  | .pwS t k v => Sys2Proof.Machine.execPwS t k v s
  | .attg opa => Sys2Proof.Machine.execAttg opa s
  | .debugHalt core drain => Sys2Proof.Machine.execDebugHalt core drain s
  | .debugAccess core target write => Sys2Proof.Machine.execDebugAccess core target write s
  | .debugStep core w => Sys2Proof.Machine.execDebugStep core w s
  | .localStoreEccError core place => Sys2Proof.Machine.execLocalStoreEccError core place s
  | .memoryEccError place => Sys2Proof.Machine.execMemoryEccError place s
  | .counterWindowWrite vf offset size value => Sys2Proof.Machine.execCounterWindowWrite vf offset size value s
  | .counterWindowRead vf offset size => Sys2Proof.Machine.execCounterWindowRead vf offset size s
  | .recordWindowWrite vf offset size value => Sys2Proof.Machine.execRecordWindowWrite vf offset size value s
  | .recordWindowRead vf offset size => Sys2Proof.Machine.execRecordWindowRead vf offset size s
  | .coherentWindowAccess hpa size write => Sys2Proof.Machine.execCoherentWindowAccess hpa size write s
  | .setupWrite vf core field value => Sys2Proof.Machine.execSetupWrite vf core field value s
  | .cbootgoGo vf cluster => Sys2Proof.Machine.execCbootgoGo vf cluster s
  | .cbootgoStop vf cluster => Sys2Proof.Machine.execCbootgoStop vf cluster s
  | .wstatClear vf value => Sys2Proof.Machine.execWstatClear vf value s
  | .registerWrite vf offset value => Sys2Proof.Machine.execRegisterWrite vf offset value s
  | .partitionCreate part => Sys2Proof.Machine.execPartitionCreate part s
  | .partitionTeardown part => Sys2Proof.Machine.execPartitionTeardown part s
  | .partitionReset part => Sys2Proof.Machine.execPartitionReset part s
  | .channelScrubDone part die stack => Sys2Proof.Machine.execChannelScrubDone part die stack s
  | .checkpointSave part => Sys2Proof.Machine.execCheckpointSave part s
  | .checkpointRestore part => Sys2Proof.Machine.execCheckpointRestore part s
  | .checkpointDone code => Sys2Proof.Machine.execCheckpointDone code s
  | .powerUp firmwareOk => Sys2Proof.Machine.execPowerUp firmwareOk s
  | .thermalLimit die hot => Sys2Proof.Machine.execThermalLimit die hot s
  | .powerCapExceeded exceeded => Sys2Proof.Machine.execPowerCapExceeded exceeded s
  | .spdmRequest request => Sys2Proof.Machine.execSpdmRequest request s
  | .jobRecordWrite part record key => Sys2Proof.Machine.execJobRecordWrite part record key s
  | .mordantBindingWrite part binding => Sys2Proof.Machine.execMordantBindingWrite part binding s
  | .packetWrite lane p => Sys2Proof.Machine.execPacketWrite lane p s
  | .packetReadRequest lane p => Sys2Proof.Machine.execPacketReadRequest lane p s
  | .packetReadData lane p => Sys2Proof.Machine.execPacketReadData lane p s
  | .packetCounterAdd lane p => Sys2Proof.Machine.execPacketCounterAdd lane p s
  | .packetAcknowledge lane p => Sys2Proof.Machine.execPacketAcknowledge lane p s
  | .packetCollectiveJoin lane p => Sys2Proof.Machine.execPacketCollectiveJoin lane p s
  | .packetCollectiveData lane p => Sys2Proof.Machine.execPacketCollectiveData lane p s
  | .packetLendingControl lane p => Sys2Proof.Machine.execPacketLendingControl lane p s
  | .packetLendingData lane p => Sys2Proof.Machine.execPacketLendingData lane p s
  | .packetAuthFail lane => Sys2Proof.Machine.execPacketAuthFail lane s
  | .flitRetry lane => Sys2Proof.Machine.execFlitRetry lane s
  | .laneIdleTimeout lane => Sys2Proof.Machine.execLaneIdleTimeout lane s
  | .laneGroupUp lane => Sys2Proof.Machine.execLaneGroupUp lane s
  | .linkKeyRatchet lane => Sys2Proof.Machine.execLinkKeyRatchet lane s
  | .ethResendTimeout port => Sys2Proof.Machine.execEthResendTimeout port s
  | .debugResume core => Sys2Proof.Machine.execDebugResume core s
  | .nop => Sys2Proof.Machine.execNop s
  | .brk => Sys2Proof.Machine.execBrk s
  | .ret => Sys2Proof.Machine.execRet s
  | .eret => Sys2Proof.Machine.execEret s
  | .taskend => Sys2Proof.Machine.execTaskend s
  | .specCommit => Sys2Proof.Machine.execSpecCommit s
  | .specAbort => Sys2Proof.Machine.execSpecAbort s
  | .minv => Sys2Proof.Machine.execMinv s
  | .mpop => Sys2Proof.Machine.execMpop s
  | .xlinvAll => Sys2Proof.Machine.execXlinvAll s
  | .resultWrite => Sys2Proof.Machine.execResultWrite s
  | .replayEntryComplete => Sys2Proof.Machine.execReplayEntryComplete s
  | .loadResponse => Sys2Proof.Machine.execLoadResponse s
  | .storePerformed => Sys2Proof.Machine.execStorePerformed s
  | .ldqFill => Sys2Proof.Machine.execLdqFill s
  | .poisonArrival => Sys2Proof.Machine.execPoisonArrival s
  | .issueStall => Sys2Proof.Machine.execIssueStall s
  | .engineFaultReport => Sys2Proof.Machine.execEngineFaultReport s
  | .commandRetire => Sys2Proof.Machine.execCommandRetire s
  | .mma => Sys2Proof.Machine.execMma s
  | .mdrain => Sys2Proof.Machine.execMdrain s
  | .mzero => Sys2Proof.Machine.execMzero s
  | .mload => Sys2Proof.Machine.execMload s
  | .cpy => Sys2Proof.Machine.execCpy s
  | .cpyT => Sys2Proof.Machine.execCpyT s
  | .cpyG => Sys2Proof.Machine.execCpyG s
  | .cpyPad => Sys2Proof.Machine.execCpyPad s
  | .agen => Sys2Proof.Machine.execAgen s
  | .dormantContextStart => Sys2Proof.Machine.execDormantContextStart s
  | .tstart => Sys2Proof.Machine.execTstart s
  | .attp => Sys2Proof.Machine.execAttp s
  | .attd => Sys2Proof.Machine.execAttd s
  | .ssel => Sys2Proof.Machine.execSsel s
  | .tcLook => Sys2Proof.Machine.execTcLook s
  | .tcPf => Sys2Proof.Machine.execTcPf s
  | .tcHalo => Sys2Proof.Machine.execTcHalo s
  | .tcInv => Sys2Proof.Machine.execTcInv s
  | .tcWb => Sys2Proof.Machine.execTcWb s
  | .tcPin => Sys2Proof.Machine.execTcPin s
  | .tcUnpin => Sys2Proof.Machine.execTcUnpin s
  | .kvNew => Sys2Proof.Machine.execKvNew s
  | .kvNewPool => Sys2Proof.Machine.execKvNewPool s
  | .kvFork => Sys2Proof.Machine.execKvFork s
  | .kvFree => Sys2Proof.Machine.execKvFree s
  | .kvTrunc => Sys2Proof.Machine.execKvTrunc s
  | .kvCommit => Sys2Proof.Machine.execKvCommit s
  | .kvClass => Sys2Proof.Machine.execKvClass s
  | .kvPromote => Sys2Proof.Machine.execKvPromote s
  | .kvDemote => Sys2Proof.Machine.execKvDemote s
  | .kvExport => Sys2Proof.Machine.execKvExport s
  | .kvImport => Sys2Proof.Machine.execKvImport s
  | .kvLend => Sys2Proof.Machine.execKvLend s
  | .kvLendRecall => Sys2Proof.Machine.execKvLendRecall s
  | .kvStat => Sys2Proof.Machine.execKvStat s
  | .kvSwref => Sys2Proof.Machine.execKvSwref s
  | .moveInwardComplete => Sys2Proof.Machine.execMoveInwardComplete s
  | .pageFreeLater => Sys2Proof.Machine.execPageFreeLater s
  | .recallNoticeExpiry => Sys2Proof.Machine.execRecallNoticeExpiry s
  | .frameReturn => Sys2Proof.Machine.execFrameReturn s
  | .coll => Sys2Proof.Machine.execColl s
  | .collArgmaxn => Sys2Proof.Machine.execCollArgmaxn s
  | .collJoinsMet => Sys2Proof.Machine.execCollJoinsMet s
  | .collFallback => Sys2Proof.Machine.execCollFallback s
  | .fput => Sys2Proof.Machine.execFput s
  | .fget => Sys2Proof.Machine.execFget s
  | .fcadd => Sys2Proof.Machine.execFcadd s
  | .frouteRead => Sys2Proof.Machine.execFrouteRead s
  | .frouteAttest => Sys2Proof.Machine.execFrouteAttest s
  | .frouteRevoke => Sys2Proof.Machine.execFrouteRevoke s
  | .fabricTimeLimit => Sys2Proof.Machine.execFabricTimeLimit s
  | .remoteReadTimeout => Sys2Proof.Machine.execRemoteReadTimeout s
  | .klaunch => Sys2Proof.Machine.execKlaunch s
  | .kstream => Sys2Proof.Machine.execKstream s
  | .graphReplay => Sys2Proof.Machine.execGraphReplay s
  | .wlAppend => Sys2Proof.Machine.execWlAppend s
  | .wlTake => Sys2Proof.Machine.execWlTake s
  | .quiesce => Sys2Proof.Machine.execQuiesce s
  | .fragJump => Sys2Proof.Machine.execFragJump s
  | .fragJumpLoad => Sys2Proof.Machine.execFragJumpLoad s
  | .accept => Sys2Proof.Machine.execAccept s
  | .prio => Sys2Proof.Machine.execPrio s
  | .kcancel => Sys2Proof.Machine.execKcancel s
  | .entryIssue => Sys2Proof.Machine.execEntryIssue s
  | .entryRetire => Sys2Proof.Machine.execEntryRetire s
  | .taskDispatch => Sys2Proof.Machine.execTaskDispatch s
  | .taskRetire => Sys2Proof.Machine.execTaskRetire s
  | .cwaitTaskEnd => Sys2Proof.Machine.execCwaitTaskEnd s
  | .overlayStart => Sys2Proof.Machine.execOverlayStart s
  | .preemptRequest => Sys2Proof.Machine.execPreemptRequest s
  | .preemptEscalate => Sys2Proof.Machine.execPreemptEscalate s
  | .forcedPreempt => Sys2Proof.Machine.execForcedPreempt s
  | .taskRestore => Sys2Proof.Machine.execTaskRestore s
  | .emitAppend => Sys2Proof.Machine.execEmitAppend s
  | .wlTermination => Sys2Proof.Machine.execWlTermination s
  | .rdcLeaseExpiry => Sys2Proof.Machine.execRdcLeaseExpiry s
  | .checkpointAbort => Sys2Proof.Machine.execCheckpointAbort s
  | .conventionalReset => Sys2Proof.Machine.execConventionalReset s
  | .powerLoss => Sys2Proof.Machine.execPowerLoss s
  | .dutyStep => Sys2Proof.Machine.execDutyStep s
  | .shutdown => Sys2Proof.Machine.execShutdown s
  | .holdingResponse => Sys2Proof.Machine.execHoldingResponse s
  | .committedLinesCopiedBack => Sys2Proof.Machine.execCommittedLinesCopiedBack s

end Sys2Proof.Machine
end

