-- ==== Sys2Proof/Machine/Events.lean ====
section
/-! DEFINITION. Which event of the machine itself is due next at the focus (R107; 95_what_each_step_holds). -/

namespace Sys2Proof.Machine

/-- The first event whose condition holds. -/
def firstDue : List (Bool × Instr) → Option Instr
  | [] => none
  | (b, i) :: rest => if b then some i else firstDue rest

/-- The event of a strand that is due: a posted store to perform, results to write, a response that returns, the end of a
copy-back. A strand that a response holds towards a trap writes nothing more before it (R84). -/
def strandEvent (s : State) (w : Who) : Option Instr :=
  let f := s.strandOf w
  if !f.posted.isEmpty then some .storePerformed
  else match (if f.hold.any (·.trap.isSome) then none else nextArrival s.cycle f) with
    | some .replay => some .replayEntryComplete
    | some .response => some .loadResponse
    | some .ordinary => some .resultWrite
    | none => firstDue [
        (f.hold.any (·.due ≤ s.cycle), .holdingResponse),
        (f.copyBack.any (· ≤ s.cycle), .committedLinesCopiedBack)]

/-! ## Engines -/

/-- The step that takes up a command of a queue, by its engine, op code and flags (R6, R56). -/
def stepOf (q : Fin 8) (img : Image) : Option Instr :=
  let f := flagOf img 0
  match engineOfImage img, opOf img with
  | 0, 0 => some .mma
  | 0, 1 => some .mdrain
  | 0, 2 => some .mzero
  | 0, 3 => some .mload
  | 1, 0 => some .cpy
  | 1, 1 => some .cpyT
  | 1, 2 => some .cpyG
  | 1, 3 => some .cpyPad
  | 1, 4 => some .agen
  | 2, 0 => some .attp
  | 2, 1 => some .attd
  | 2, 2 => some .ssel
  | 2, 3 => some (.attg (q = 2))
  | 3, 0 => some .tstart
  | 4, 0 => some .tcLook
  | 4, 1 => some .tcPf
  | 4, 2 => some .tcHalo
  | 4, 3 => some .tcInv
  | 4, 4 => some .tcWb
  | 4, 5 => some (if f then .tcUnpin else .tcPin)
  | 5, 0x0 => some (if f then .kvNewPool else .kvNew)
  | 5, 0x1 => some .kvFork
  | 5, 0x2 => some .kvFree
  | 5, 0x3 => some .kvTrunc
  | 5, 0x4 => some .kvCommit
  | 5, 0x5 => some .kvClass
  | 5, 0x6 => some .kvPromote
  | 5, 0x7 => some .kvDemote
  | 5, 0x8 => some .kvExport
  | 5, 0x9 => some .kvImport
  | 5, 0xA => some (if f then .kvLendRecall else .kvLend)
  | 5, 0xB => some .kvStat
  | 5, 0xC => some .kvSwref
  | 6, 0 => some .coll
  | 6, 1 => some .collArgmaxn
  | 6, 2 => some .fput
  | 6, 3 => some .fget
  | 6, 4 => some .fcadd
  | 6, 5 => some (match hwBits img 0 0 2 with
      | 1 => .frouteAttest
      | 2 => .frouteRevoke
      | _ => .frouteRead)
  | _, _ => none

/-- The order in which the queues are looked at: that of R107, but the OPA takes the attention queue before the matrix queue when it
last ran a command of the matrix queue (R187). -/
def State.queuesNow (s : State) : List (Fin 8) :=
  if s.core.opaLast = some 0 then [2, 0, 1, 7, 3, 4, 5, 6] else [0, 1, 2, 7, 3, 4, 5, 6]

/-- The first queue whose engine can take up a command. -/
def State.headStep (s : State) : Option Instr :=
  s.queuesNow.findSome? fun q => ((s.headState q).command).bind fun c => stepOf q c.image

/-- The event of the engines of the focus core that is due; a core halted in FREEZE mode has none (R275), and one that a forced
pre-emption stops takes up nothing (R269). -/
def engineEvent (s : State) : Option Instr :=
  if s.core.halt.any fun h => !h.drain then none
  else if s.contextStartDue then some .dormantContextStart
  else if s.retiring.isSome then some .commandRetire
  else if s.core.enginesRun then s.headStep else none

/-! ## The cluster -/

/-- The step of the controller's head command that can act (R292). -/
def State.ctlStepDue (s : State) : Option Instr :=
  match s.ctlHead with
  | none => none
  | some c =>
    if !s.ctlReady c then none
    else match opOf c.image with
      | 0 => some .klaunch
      | 1 => some .kstream
      | 2 => some .graphReplay
      | 3 => some .wlAppend
      | 4 => some .wlTake
      | 5 => some .quiesce
      | 6 => some (if flagOf c.image 0 && clusterOk c.image then .fragJumpLoad else .fragJump)
      | 7 => some .accept
      | 8 => some .prio
      | 9 => some .kcancel
      | _ => none

/-- The placement that is due: a task's start, or the restore of a saved one. -/
def State.placementDue (s : State) : Option Instr :=
  match s.placement with
  | none => none
  | some (_, .resumed _ (.image _ _), _) => some .taskRestore
  | some _ => some .taskDispatch

/-- The event of the focus cluster that is due. -/
def clusterEvent (s : State) : Option Instr :=
  if s.ctlRetiring.isSome then some .commandRetire
  else match s.ctlStepDue with
    | some i => some i
    | none =>
      (firstDue [
        ((s.actingEntry .stream).isSome, .kstream),
        ((s.actingEntry .accept).isSome, .accept),
        (s.appending.isSome, .wlAppend),
        (s.replayOver.isSome, .graphReplay),
        (s.issuable.isSome, .entryIssue),
        (s.entryToRetire.isSome, .entryRetire),
        (s.terminating.isSome, .wlTermination),
        (s.emitting.isSome, .emitAppend),
        ((List.range 8).any (fun n => (s.clusterCore n).cwaitOver), .cwaitTaskEnd),
        ((s.endedGroup false).isSome, .taskRetire),
        ((s.endedGroup true).isSome, .overlayStart),
        (s.stopping.isSome, .forcedPreempt)]).or
      (s.placementDue.or (firstDue [
        (s.requesting.isSome, .preemptRequest),
        (s.escalating.isSome, .preemptEscalate)]))

/-! ## The module -/

/-- The event of the module's memory, Madder pools and fabric that is due. -/
def moduleEvent (s : State) : Option Instr :=
  match s.readyPut with
  | some h => some (.packetWrite h.lane h.packet)
  | none => match s.ratchetDue with
    | some l => some (.linkKeyRatchet l)
    | none => firstDue [
        (s.meeting.isSome, .collJoinsMet),
        (s.fallingBack.isSome, .collFallback),
        (s.overdueOp.isSome, .fabricTimeLimit),
        (s.overdueRead.isSome, .remoteReadTimeout),
        ((s.poolWith fun _ p => p.endingMove s.cycle).isSome, .moveInwardComplete),
        (s.freeable.isSome, .pageFreeLater),
        (s.expiredLoan.isSome, .recallNoticeExpiry),
        (s.returnable.isSome, .frameReturn),
        (s.mod.rdc.any (RdcLine.expired s.cycle), .rdcLeaseExpiry)]

/-- The next event due at the focus, with the strand it belongs to: those of its strands and data queues at any time, those of its
engines in their turn, and those of its cluster and of the module in the controller's. -/
def nextEvent (s : State) : Option (Who × Instr) :=
  match (contexts ++ [Who.c]).findSome? fun w => (strandEvent s w).map fun e => (w, e) with
  | some e => some e
  | none =>
    if s.filling.isSome then some (.a, .ldqFill)
    else match s.turn with
      | .engines => (engineEvent s).map fun e => (.a, e)
      | .controller => ((clusterEvent (State.asController s)).or (moduleEvent s)).map fun e => (.c, e)
      | _ => none

end Sys2Proof.Machine
end

