-- ==== Sys2Proof/Machine/Run.lean ====
section
/-! DEFINITION. The order in which the agents act, and the placing of one instruction for the machine to fetch
(R34, R83, R107). -/

namespace Sys2Proof.Machine

/-- The strand that a halted core issues one group of (R277). -/
def State.stepping (s : State) (w : Who) : Bool := w != .c && s.core.halt.any fun h => h.step = some w

/-- Whether nothing outside the strand keeps it at its boundary: its core is not halted, its task has started, no forced pre-emption
stops it (R269; one does not stop a core that an unsatisfied `CWAIT` ends), and no unsatisfied `CWAIT` of its task ends it (R105; dormant contexts run on). -/
def State.atLarge (s : State) (w : Who) : Bool :=
  match w with
  | .c => !s.ctl.stopped
  | _ => s.core.halt.isNone && s.core.task.all fun t =>
      t.readyAt ≤ s.cycle && (!t.forced || t.ending.isSome) && (t.ending.isNone || (match w with
        | .t c => c != 0
        | _ => false))

/-- Whether a strand of the focus may issue: it runs, nothing holds it, and nothing keeps it at its boundary or it is being stepped. -/
def mayIssue (s : State) (w : Who) : Bool :=
  let f := s.strandOf w
  f.run = .running && f.hold.isNone && (s.atLarge w || s.stepping w)

/-- Whether a strand that issues no group takes an engine fault report: one that has ended its part is restarted (R267), and a
controller that waits for its jump takes it there. -/
def mayReport (s : State) (w : Who) : Bool :=
  let f := s.strandOf w
  (f.run = .ended || f.run = .fragmentWait) && f.hold.isNone && !f.reports.isEmpty && !f.th && s.atLarge w

/-- Whether the A strand, its part ended, takes the poison of an `LDQ` whose data arrived since: R97 has it raised on the A strand, and the
model restarts the strand for it as R267 does for a report (DESIGN CHOICE, log entry 122). -/
def mayPoison (s : State) (w : Who) : Bool :=
  let f := s.strandOf w
  w = .a && f.run = .ended && f.hold.isNone && !f.nextPoison.poisons.isEmpty && s.atLarge w

/-- The next cycle begins; the flags raised in the last one no longer outlast a store to their status word (R352). -/
def State.nextCycle (s : State) : State := { s with cycle := s.cycle + 1, mod := { s.mod with raised := [] } }

/-- The next core comes into the focus, with its cluster; the last one ends the cycle. -/
def State.rotateCore (s : State) : State :=
  match s.parked with
  | [] => State.nextCycle { s with turn := .a }
  | k :: ks =>
    let s := { s with core := k, parked := ks ++ [s.core], turn := .a }
    let s := if k.die = s.ctl.die && k.cluster = s.ctl.number then s
      else match s.parkedCl with
        | [] => s
        | c :: cs => { s with ctl := c, parkedCl := cs ++ [s.ctl] }
    if k.die = 0 && k.cluster = 0 && k.number = 0 then s.nextCycle else s

/-- The end of a turn: A, X, T and the engines of a core, then the controller after the cluster's last core. -/
def State.endTurn (s : State) : State :=
  match s.turn with
  | .a => { s with turn := .x }
  | .x => { s with turn := .t }
  | .t => { s with turn := .engines }
  | .engines => if s.core.number = 7 then { s with turn := .controller } else s.rotateCore
  | .controller => s.rotateCore

/-- The strands whose turn it is, in the order in which they are tried: the contexts of T from the one served longest ago on
(R183). -/
def turnOrder (s : State) : List Who :=
  match s.turn with
  | .a => [.a]
  | .x => [.x]
  | .t => s.core.turnsT.map .t
  | .engines => []
  | .controller => [.c]

/-- Whether a group has not issued: it blocks on a coupling, or awaits results or a slot. -/
def Verdict.waits (v : Verdict) : Bool := v = .blocked || v = .awaits

/-- Whether the strand's next group would issue now, or trap. -/
def wouldIssue (run : Runner) (s : State) : Bool :=
  match issueGroup run s with
  | .next t => !t.grp.verdict.waits
  | _ => true

/-- A blocked group counts against the issue watchdog, and traps when its count is full (R192). -/
def afterBlock (run : Runner) (s : State) : Host.Outcome State Fault Refusal :=
  let t := s.countStall
  if t.strand.stall < 2 ^ 22 then .next t
  else match t.stalledIssue with
    | none => .next t
    | some (_, q) => match t.headWait q with
      | .counter _ => run .issueStall t
      | .claim _ _ => run .issueStall t
      | _ => .next t

/-- The boundary event that the strand is to take: a poison arrival, then an engine fault report (R264). -/
def Strand.boundaryEvent (f : Strand) : Option Instr :=
  if !f.nextPoison.poisons.isEmpty then some .poisonArrival
  else if !f.reports.isEmpty && !f.th then some .engineFaultReport
  else none

/-- The boundary of a strand that may issue: an event, then its group (R264). Trap entry counts the results in flight from the cycle in which
the group would have issued (R84), so an event is taken in that cycle, or once no result is in flight. A step of the debugger issues the
group alone (R277). -/
def boundary (run : Runner) (s : State) (stepped : Bool) : Host.Outcome State Fault Refusal :=
  let f := s.strand
  let at_ : State := { s with grp := { s.grp with addr := f.pc, iaddr := f.pc, npc := f.pc, verdict := .issued } }
  match (if stepped then none else f.boundaryEvent) with
  | some e => if f.flying && !wouldIssue run s then .next (at_.verdict .awaits) else run e at_
  | none => match issueGroup run s with
    | .next t => if t.grp.verdict.waits then afterBlock run t else .next t
    | o => o

/-- Whether a context of the core in the focus is to stop: the core is being halted, or a forced pre-emption stops it (R269, R275). -/
def State.stops (s : State) (w : Who) : Bool :=
  w != .c && (s.core.halt.any (fun h => h.stopping.contains w) || s.core.task.any fun t => t.forced && t.ending.isNone)

/-- Whether the results in flight of a strand that is to stop are captured now: its next group would have issued (R84). Until then they are
written as they come due. -/
def mustCapture (run : Runner) (s : State) (w : Who) : Bool :=
  let f := s.strandOf w
  s.stops w && f.run = .running && f.hold.isNone && f.flying && wouldIssue run s

/-- The strand stands with its results captured. A vector group of T would have taken the slot (R68). -/
def State.standStill (run : Runner) (s : State) (w : Who) : State :=
  let slot : Nat := match w, issueGroup run s with
    | .t _, .next t => if t.grp.verdict = .issued then t.core.t.vFree else s.core.t.vFree
    | _, _ => s.core.t.vFree
  let gone (h : Halt) : Halt := { h with stopping := h.stopping.filter (· != w) }
  let s := s.setStrandOf w (Strand.freeze s.cycle (s.strandOf w))
  { s with core := { s.core with t := { s.core.t with vFree := slot }, halt := s.core.halt.map gone } }

/-- X and the main context of T after an unsatisfied `CWAIT`: the replay entries of a group that is not issued count from now on, and are
written first (R105). -/
def State.leaving (s : State) (w : Who) : State :=
  let f := s.strandOf w
  if (w = .x || w = .t 0) && f.run = .running && s.core.halt.isNone && s.core.task.any (fun t => t.ending.isSome) && !f.replays.isEmpty then
    s.setStrandOf w (f.startReplays s.cycle)
  else s

/-- A step of the debugger is over once its strand has issued its group or trapped, or the group blocks on a coupling; a group that awaits
results or a slot is still to issue (R277). -/
def State.stepOver (s : State) (stepped : Bool) : State :=
  let clear (h : Halt) : Halt := { h with step := none }
  if stepped && s.grp.verdict != .awaits then { s with core := { s.core with halt := s.core.halt.map clear } } else s

/-- A T context that has been served is the last in the order (R183). -/
def State.served (s : State) (w : Who) : State :=
  match w with
  | .t c => { s with core := { s.core with turnsT := s.core.turnsT.filter (· != c) ++ [c] } }
  | _ => s

/-- The turn of a strand: of the contexts of T, the first one that issues a group, traps or takes a report has it, or one that is to stop
and would have issued. -/
def strandTurn (run : Runner) (s : State) : List Who → Host.Outcome State Fault Refusal
  | [] => .next s.endTurn
  | w :: ws =>
    let s := { s with who := w }
    if mayIssue s w then
      match boundary run s (s.stepping w) with
      | .next t =>
        let u := t.stepOver (s.stepping w)
        if t.grp.verdict.waits then strandTurn run u ws else .next (u.served w).endTurn
      | o => o
    else if mayPoison s w || mayReport s w then
      match run (if mayPoison s w then .poisonArrival else .engineFaultReport) s with
      | .next t => .next (t.served w).endTurn
      | o => o
    else if mustCapture run s w then .next ((s.standStill run w).served w).endTurn
    else strandTurn run (s.leaving w) ws

/-- One step of the machine: an input of the outside world, an event of the machine that is due, or the turn of a strand. In the
engines' turn the heads of the queues first proceed as far as they can. -/
def stepWith (run : Runner) (s : State) : Host.Outcome State Fault Refusal :=
  match s.inputs with
  | i :: is => run i { s with inputs := is }
  | [] =>
    let s := if s.turn = .engines then s.settleHeads else s
    match nextEvent s with
    | some (w, e) => run e { s with who := w }
    | none =>
      strandTurn run s (turnOrder s)

/-- A strand on which an instruction is legal: A, else X, else T, else the controller. -/
def placeFor (i : Instr) : Who :=
  if strandOk .a i && strandFormOk .a ⟨64, 16, true⟩ i then .a
  else if strandOk .x i && strandFormOk .x ⟨64, 16, true⟩ i then .x
  else if strandOk (.t 0) i && strandFormOk (.t 0) ⟨64, 16, true⟩ i then .t 0
  else .a

/-- The turn of a strand. -/
def turnOf : Who → Turn
  | .a => .a
  | .x => .x
  | .t _ => .t
  | .c => .controller

/-- A state whose next step fetches the one or two syllables of `w` at address 0 of the focus core's instruction store. -/
def placeWord (s : State) (w : Nat) : State :=
  let w1 := w % 2 ^ 32
  let w2 := w / 2 ^ 32 % 2 ^ 32
  let long := isLong w1
  let stop (v : Nat) : Nat := v % 2 ^ 31 + 2 ^ 31
  let who := match (decode w1 [w2]).1 with
    | .ok i => placeFor i
    | _ => .a
  let code := if long then bytesOfNat 4 w1 ++ bytesOfNat 4 (stop w2) else bytesOfNat 4 (stop w1)
  let core := { s.core with istore := s.core.istore.write 0 code, marks := if long then [4] else [], task := none, halt := none }
  let s := { s with core := core, inputs := [], turn := turnOf who, who := who }
  s.setStrandOf who { s.strandOf who with run := .running, pc := 0, hold := none, nest := none, poisons := [], held := [], reports := [] }

end Sys2Proof.Machine
end

