-- ==== Sys2Proof/Safety.lean ====
section
/-! DEFINITION. Safe runs: the outcomes that end a run, and the form of the state that every step keeps. -/

namespace Sys2Proof.Machine

/-- A step is safe when it answers a next state. -/
def safeStep (s : State) : Bool :=
  match step s with
  | .next _ => true
  | _ => false

/-- Physical memory, the focus core's scratchpad, accumulators and instruction store, and the controller's stores are in
canonical form. -/
def State.memoryWf (s : State) : Bool :=
  Memory.wf s.mod.mem && Memory.wf s.core.scratch && Memory.wf s.core.acc && Memory.wf s.core.istore &&
  Memory.wf s.ctl.istore && Memory.wf s.ctl.ram

/-- The byte of memory whose data a dirty line under a tensor's tag holds (R342, R345): it comes to memory when the line leaves its L2. -/
def Module.Late (m : Module) (b : Nat) : Prop :=
  ∃ l, l ∈ m.l2 ∧ l.dirty = true ∧ l.id ≠ 0 ∧ 128 * l.line ≤ b ∧ b < 128 * l.line + l.data.length

/-- The lines of a run of bytes hold no poison, and none of them waits in an L2 under a tensor's tag: a write of the run lands as it stands. -/
def Module.Lands (m : Module) (pa n : Nat) : Prop :=
  poisonedIn m.poison pa n = false ∧ ∀ l, l ∈ m.l2 → l.dirty = true → l.id ≠ 0 → ¬(pa / 128 ≤ l.line ∧ l.line ≤ (pa + n - 1) / 128)

end Sys2Proof.Machine
end

