-- ==== Sys2Proof/Certificates/Slice0/Obligations.lean ====
section
/-! DEFINITION. The statements for the provers. `Sys2Proof.Claims` holds the words they are made of; each statement's docstring names
the rules of spec/ it comes from. -/

namespace Sys2Proof.Claims

open Sys2Proof.Machine

/-- The state with one more result in flight on the strand that runs: it is written `lat` cycles from now, and nothing else
differs. -/
def inFlight (s : State) (e : Effect) (fl : Flags) (lat : Nat) : State :=
  s.onStrand fun f => { f with results := f.results ++ [⟨e, fl, s.cycle + lat, false, none, s.grp.addr, false, false⟩] }

/-- What a result for x[d] writes; for x0 nothing (R71): the result is in flight all the same (R77, R260). -/
def intoX (d : Fin 64) (v : Word) : Effect := if d = 0 then .flagsOnly else .scalar d v

/-- The state after an instruction whose only effect is to write v to x[d] in `lat` cycles. -/
def writesX (s : State) (d : Fin 64) (v : Word) (lat : Nat) : State := inFlight s (intoX d v) 0 lat

/-- The state after an instruction whose only effect is to write b to p[d] in `lat` cycles, under its physical number (R79). -/
def writesP (s : State) (d : Fin 16) (b : Bool) (lat : Nat) : State := inFlight s (.pred (physP s.strand d) b) 0 lat

/-- The instruction completes, and its only effect is to write v to x[d]. -/
def GivesX (i : Instr) (s : State) (d : Fin 64) (v : Word) (lat : Nat) : Prop := exec i s = .next (writesX s d v lat)

/-- The instruction completes, and its only effect is to write b to p[d]. -/
def GivesP (i : Instr) (s : State) (d : Fin 16) (b : Bool) (lat : Nat) : Prop := exec i s = .next (writesP s d b lat)

/-- A word given by its bits. -/
def ByBits (v : Word) (f : Nat → Bool) : Prop := ∀ k, k < 64 → v.getLsbD k = f k

end Sys2Proof.Claims

open Sys2Proof Sys2Proof.Machine Sys2Proof.Claims

/-! ## Scalar arithmetic -/

/-- R90, R75: sums, differences, products, logic and immediates, with their latencies; the sums wrap, and nothing but x[d] is written. -/
def Sys2Proof.Claims.ScalarArithmetic : Prop :=
  ∀ (s : State) (d a b : Fin 64) (i : BitVec 13) (v : BitVec 32),
    GivesX (.add d a b) s d (BitVec.ofNat 64 ((s.xr a).toNat + (s.xr b).toNat)) 1 ∧
    GivesX (.sub d a b) s d (BitVec.ofInt 64 ((s.xr a).toInt - (s.xr b).toInt)) 1 ∧
    GivesX (.mul d a b) s d (BitVec.ofNat 64 ((s.xr a).toNat * (s.xr b).toNat)) 3 ∧
    GivesX (.mulhI64 d a b) s d (BitVec.ofInt 64 ((s.xr a).toInt * (s.xr b).toInt / 2 ^ 64)) 3 ∧
    GivesX (.mulhN64 d a b) s d (BitVec.ofNat 64 ((s.xr a).toNat * (s.xr b).toNat / 2 ^ 64)) 3 ∧
    GivesX (.and d a b) s d (s.xr a &&& s.xr b) 1 ∧
    GivesX (.or d a b) s d (s.xr a ||| s.xr b) 1 ∧
    GivesX (.xor d a b) s d (s.xr a ^^^ s.xr b) 1 ∧
    GivesX (.andn d a b) s d (s.xr a &&& ~~~(s.xr b)) 1 ∧
    GivesX (.addi d a i) s d (BitVec.ofInt 64 ((s.xr a).toInt + i.toInt)) 1 ∧
    GivesX (.movi d i) s d (BitVec.ofInt 64 i.toInt) 1 ∧
    GivesX (.movl d v) s d (BitVec.ofInt 64 v.toInt) 1 ∧
    GivesX (.movlN d v) s d (BitVec.ofNat 64 v.toNat) 1 ∧
    GivesX (.movlH d v) s d (BitVec.ofNat 64 (v.toNat * 2 ^ 32 + (s.xr d).toNat % 2 ^ 32)) 1

/-- R90: division. For a nonzero divisor the quotient is truncated toward zero and the remainder has the dividend's sign; the zero
divisor and −2^63 / −1 give the values of the rule's second table, and nothing traps. -/
def Sys2Proof.Claims.ScalarDivision : Prop :=
  ∀ (s : State) (d a b : Fin 64), ∃ q r u m : Word,
    GivesX (.divI64 d a b) s d q 20 ∧ GivesX (.remI64 d a b) s d r 20 ∧
    GivesX (.divN64 d a b) s d u 20 ∧ GivesX (.remN64 d a b) s d m 20 ∧
    (s.xr b = 0 → q = -1 ∧ r = s.xr a ∧ u.toNat = 2 ^ 64 - 1 ∧ m = s.xr a) ∧
    ((s.xr a).toInt = -2 ^ 63 → (s.xr b).toInt = -1 → q.toInt = -2 ^ 63 ∧ r = 0) ∧
    (s.xr b ≠ 0 → ¬((s.xr a).toInt = -2 ^ 63 ∧ (s.xr b).toInt = -1) →
      (s.xr a).toInt = q.toInt * (s.xr b).toInt + r.toInt ∧ r.toInt.natAbs < (s.xr b).toInt.natAbs ∧
      (r = 0 ∨ (r.toInt < 0 ↔ (s.xr a).toInt < 0))) ∧
    (s.xr b ≠ 0 → (s.xr a).toNat = u.toNat * (s.xr b).toNat + m.toNat ∧ m.toNat < (s.xr b).toNat)

/-- Scalar sums, products, logic, immediates and division give the table's results: `ScalarArithmetic` and `ScalarDivision`. -/
def Obligations.ScalarArithmeticAndDivision : Prop := ScalarArithmetic ∧ ScalarDivision

/-- R91: shifts by x[b][5:0] and by an immediate, bit by bit: logical left and right, arithmetic right, rotation right. -/
def Sys2Proof.Claims.ScalarShifts : Prop :=
  ∀ (s : State) (d a b n : Fin 64), ∃ v : Fin 8 → Word,
    let k := (s.xr b).toNat % 64
    let x := s.xr a
    GivesX (.shl d a b) s d (v 0) 1 ∧ GivesX (.shr d a b) s d (v 1) 1 ∧
    GivesX (.sra d a b) s d (v 2) 1 ∧ GivesX (.rot d a b) s d (v 3) 1 ∧
    GivesX (.shlImm d a n) s d (v 4) 1 ∧ GivesX (.shrImm d a n) s d (v 5) 1 ∧
    GivesX (.sraImm d a n) s d (v 6) 1 ∧ GivesX (.rotImm d a n) s d (v 7) 1 ∧
    ByBits (v 0) (fun j => decide (k ≤ j) && x.getLsbD (j - k)) ∧
    ByBits (v 1) (fun j => decide (j + k < 64) && x.getLsbD (j + k)) ∧
    ByBits (v 2) (fun j => x.getLsbD (min (j + k) 63)) ∧
    ByBits (v 3) (fun j => x.getLsbD ((j + k) % 64)) ∧
    ByBits (v 4) (fun j => decide (n.val ≤ j) && x.getLsbD (j - n.val)) ∧
    ByBits (v 5) (fun j => decide (j + n.val < 64) && x.getLsbD (j + n.val)) ∧
    ByBits (v 6) (fun j => x.getLsbD (min (j + n.val) 63)) ∧
    ByBits (v 7) (fun j => x.getLsbD ((j + n.val) % 64))

/-- R91: bit fields and the funnel shift, bit by bit, for every field of a well-formed instruction (position p, w + 1 bits, p + w + 1 ≤
64). -/
def Sys2Proof.Claims.ScalarFields : Prop :=
  ∀ (s : State) (d a b n w p : Fin 64), p.val + w.val + 1 ≤ 64 → ∃ vn vi vb vf : Word,
    GivesX (.bfxN64 d a w p) s d vn 1 ∧ GivesX (.bfxI64 d a w p) s d vi 1 ∧
    GivesX (.bfi d a w p) s d vb 1 ∧ GivesX (.fsh d a b n) s d vf 1 ∧
    ByBits vn (fun j => decide (j ≤ w.val) && (s.xr a).getLsbD (p.val + j)) ∧
    ByBits vi (fun j => (s.xr a).getLsbD (p.val + min j w.val)) ∧
    ByBits vb (fun j => if p.val ≤ j ∧ j ≤ p.val + w.val then (s.xr a).getLsbD (j - p.val) else (s.xr d).getLsbD j) ∧
    ByBits vf (fun j => if j + n.val < 64 then (s.xr b).getLsbD (j + n.val) else (s.xr a).getLsbD (j + n.val - 64))

/-- Shifts, rotations, bit fields and the funnel shift, bit by bit: `ScalarShifts` and `ScalarFields`. -/
def Obligations.ScalarShiftsAndFields : Prop := ScalarShifts ∧ ScalarFields

/-- R90, R91: minimum, maximum, absolute value, counts of zeros and of set bits, selection and scaled address. -/
def Obligations.ScalarChoices : Prop :=
  ∀ (s : State) (d a b : Fin 64) (k : Fin 16) (sh : Fin 8), ∃ lz tz : Word,
    GivesX (.minI64 d a b) s d (BitVec.ofInt 64 (min (s.xr a).toInt (s.xr b).toInt)) 1 ∧
    GivesX (.maxI64 d a b) s d (BitVec.ofInt 64 (max (s.xr a).toInt (s.xr b).toInt)) 1 ∧
    GivesX (.minN64 d a b) s d (BitVec.ofNat 64 (min (s.xr a).toNat (s.xr b).toNat)) 1 ∧
    GivesX (.maxN64 d a b) s d (BitVec.ofNat 64 (max (s.xr a).toNat (s.xr b).toNat)) 1 ∧
    GivesX (.abs d a) s d (BitVec.ofNat 64 (s.xr a).toInt.natAbs) 1 ∧
    GivesX (.popc d a) s d (BitVec.ofNat 64 ((List.range 64).countP (s.xr a).getLsbD)) 1 ∧
    GivesX (.sel d a b k) s d (if s.pr k then s.xr a else s.xr b) 1 ∧
    GivesX (.lea d a b sh) s d (BitVec.ofNat 64 ((s.xr a).toNat + (s.xr b).toNat * 2 ^ sh.val)) 1 ∧
    GivesX (.clz d a) s d lz 1 ∧ GivesX (.ctz d a) s d tz 1 ∧
    lz.toNat ≤ 64 ∧ (∀ j, 64 - lz.toNat ≤ j → (s.xr a).getLsbD j = false) ∧
    (lz.toNat < 64 → (s.xr a).getLsbD (63 - lz.toNat) = true) ∧
    tz.toNat ≤ 64 ∧ (∀ j, j < tz.toNat → (s.xr a).getLsbD j = false) ∧
    (tz.toNat < 64 → (s.xr a).getLsbD tz.toNat = true)

/-- R92: compares, signed and unsigned, and predicate logic, at latency 1; the predicate is written under its physical number (R79). -/
def Obligations.ComparesAndPredicates : Prop :=
  ∀ (s : State) (d p q : Fin 16) (a b : Fin 64),
    GivesP (.cmpEq d a b) s d (decide ((s.xr a).toNat = (s.xr b).toNat)) 1 ∧
    GivesP (.cmpNe d a b) s d (decide ((s.xr a).toNat ≠ (s.xr b).toNat)) 1 ∧
    GivesP (.cmpLt d a b) s d (decide ((s.xr a).toInt < (s.xr b).toInt)) 1 ∧
    GivesP (.cmpGe d a b) s d (decide ((s.xr a).toInt ≥ (s.xr b).toInt)) 1 ∧
    GivesP (.cmpLtu d a b) s d (decide ((s.xr a).toNat < (s.xr b).toNat)) 1 ∧
    GivesP (.cmpGeu d a b) s d (decide ((s.xr a).toNat ≥ (s.xr b).toNat)) 1 ∧
    GivesP (.pand d p q) s d (s.pr p && s.pr q) 1 ∧
    GivesP (.por d p q) s d (s.pr p || s.pr q) 1 ∧
    GivesP (.pxor d p q) s d (xor (s.pr p) (s.pr q)) 1 ∧
    GivesP (.pnot d p) s d (!s.pr p) 1

/-! ## Results, system registers, traps -/

namespace Sys2Proof.Claims

/-- A scalar result in flight that no trap, replay or poison touches. -/
def plain (d : Fin 64) (v : Word) (due group : Nat) : Result := ⟨.scalar d v, 0, due, false, none, group, false, false⟩

/-- What a register of R73 holds after a `WRSR` of v takes effect: read-only and reserved bits stay, aligned ones drop their low bits. -/
def writtenSys (n : Nat) (old v : Word) : Word :=
  match n with
  | 0x000 => (old &&& ~~~(0x380 : Word)) ||| (v &&& 0x380)
  | 0x001 => v &&& 0x3F
  | 0x008 => v &&& ~~~(3 : Word)
  | 0x00A => v &&& 0xFF
  | 0x00C => v &&& ~~~(0xFFF : Word)
  | 0x010 => v &&& ~~~(3 : Word)
  | _ => v

/-- The numbers of R73 that a `WRSR` may name. -/
def writableSys : List Nat := [0x000, 0x001, 0x002, 0x008, 0x009, 0x00A, 0x00B, 0x00C, 0x00D, 0x00E, 0x010, 0x011]

/-- Eight bytes of the focus's scratchpad. -/
def spWord (s : State) (a : Nat) : Nat := natOfBytes ((List.range 8).map fun i => s.spMem.get (a + i))

/-- The strand can take a trap: no handler runs, no captured queue is in its store, its trap area lies in the scratchpad, and no poison
has arrived or is in flight. -/
def canTrap (s : State) : Prop :=
  s.strand.th = false ∧ (s.strand.rq = false ∨ s.strand.replayStore = []) ∧ s.strand.traparea.toNat + 4096 ≤ s.spSize ∧
  s.strand.poisons = [] ∧ (∀ r, r ∈ s.strand.results → r.poison = none) ∧ (s.who = .a → s.core.poisonedLoads = []) ∧ Memory.wf s.spMem = true

/-- `TrapEntry` of R84 has taken the group at g of state s, with the given cause: t differs from s in the named registers and in the
first 2,048 bytes of the trap area. -/
def Trapped (s t : State) (code : Nat) (tval orig : Word) : Prop :=
  let f := s.strand
  let g := t.strand
  let area := f.traparea.toNat
  g.epc = BitVec.ofNat 64 s.grp.addr ∧ g.cause = BitVec.ofNat 64 code ∧ g.tval = tval ∧
  g.ppl = f.pl ∧ g.pl = true ∧ g.th = true ∧ g.rq = true ∧ g.pc = f.handler.toNat ∧
  g.x = f.x ∧ g.v = f.v ∧ g.p = f.p ∧ g.flags = f.flags ∧ g.masks = f.masks ∧ g.handler = f.handler ∧
  g.traparea = f.traparea ∧ g.kscr0 = f.kscr0 ∧ g.kscr1 = f.kscr1 ∧ g.posted = f.posted ∧ g.region = f.region ∧
  (∀ r, r ∈ g.results → r.written = true) ∧ g.replays = [] ∧ g.nest = none ∧
  t.unit = s.unit ∧ t.mod = s.mod ∧ t.core.k = s.core.k ∧ t.core.q = s.core.q ∧ t.core.queue = s.core.queue ∧
  t.core.tile = s.core.tile ∧ t.core.acc = s.core.acc ∧
  (∀ a, a < area ∨ area + 2048 ≤ a → t.spMem.get a = s.spMem.get a) ∧
  spWord t area = s.grp.addr % 2 ^ 64 ∧ spWord t (area + 0x08) = (statusWord s.who f).toNat ∧
  spWord t (area + 0x10) = code ∧ spWord t (area + 0x18) = tval.toNat ∧ spWord t (area + 0x20) = orig.toNat

end Sys2Proof.Claims

/-- R75, R76, R80: a scalar result is written in its cycle, whatever else the strand does; no other scalar register, no predicate, no
vector register and no memory changes. -/
def Sys2Proof.Claims.ResultReachesItsRegister : Prop :=
  ∀ (s : State) (d : Fin 64) (v : Word) (g : Nat), s.strand.results = [plain d v s.cycle g] →
    ∃ t, exec .resultWrite s = .next t ∧
      (∀ q, t.xr q = if q = d ∧ d ≠ 0 then v else s.xr q) ∧
      t.strand.p = s.strand.p ∧ t.strand.v = s.strand.v ∧ t.strand.masks = s.strand.masks ∧
      t.strand.flags = s.strand.flags ∧ t.unit = s.unit ∧ t.mod = s.mod ∧ t.core.scratch = s.core.scratch

/-- R76: of two results of one register in one cycle the one of the later group wins. -/
def Sys2Proof.Claims.LaterGroupWins : Prop :=
  ∀ (s : State) (d : Fin 64) (v w : Word) (g h : Nat), d ≠ 0 →
    s.strand.results = [plain d v s.cycle g, plain d w s.cycle h] →
    ∃ t, exec .resultWrite s = .next t ∧ t.xr d = w ∧ ∀ q, q ≠ d → t.xr q = s.xr q

/-- R75, R76, R80, R28, R260: every other kind of result. In its cycle a predicate, the parts of vector registers under their mask, a push,
a new top or a pop of the mask stack, the quarters of a template, the lookup table, a system register, or its flags alone, is written;
the flags it carries are ORed into `sr.flags`; and nothing else of the strand, and no memory, changes. -/
def Sys2Proof.Claims.OtherResultsReachTheirPlaces : Prop :=
  ∀ (s : State) (g : Nat) (fl : Flags),
    let due (e : Effect) : Prop := s.strand.results = [⟨e, fl, s.cycle, false, none, g, false, false⟩]
    let wrote (f : Strand) (u : StrandUnit) : Prop := ∃ t, exec .resultWrite s = .next t ∧
      ({ t.strand with results := [] } : Strand) = { f with flags := f.flags ||| fl, results := [] } ∧
      t.unit = u ∧ t.mod = s.mod ∧ t.core.scratch = s.core.scratch
    (due .flagsOnly → wrote s.strand s.unit) ∧
    (∀ r b, due (.pred r b) → wrote { s.strand with p := s.strand.p.set r b } s.unit) ∧
    (∀ parts m, due (.vec parts m) → (parts.map Prod.fst).Nodup → ∃ v : Vector VReg 64,
      wrote { s.strand with v := v } s.unit ∧
      (∀ r, r ∉ parts.map Prod.fst → v[r] = s.strand.v[r]) ∧
      (∀ q, q ∈ parts → ∀ k, k < 4096 → (v[q.1]).getLsbD k = if m.getLsbD (k / 4) then q.2.getLsbD k else (s.strand.v[q.1]).getLsbD k)) ∧
    (∀ top, due (.maskPush top) → wrote { s.strand with masks := top :: s.strand.masks } s.unit) ∧
    (∀ old top rest, due (.maskTop top) → s.strand.masks = old :: rest → wrote { s.strand with masks := top :: rest } s.unit) ∧
    (∀ old rest, due .maskPop → s.strand.masks = old :: rest → wrote { s.strand with masks := rest } s.unit) ∧
    (∀ r w q, due (.template r w q) → ∃ w' : Vector Tmpl 64, wrote s.strand { s.unit with w := w' } ∧
      (∀ i : Fin 64, i ≠ r → w'[i] = s.unit.w[i]) ∧
      (∀ k, k < 256 → (w'[r]).getLsbD k = if q.getLsbD (k / 64) then w.getLsbD k else (s.unit.w[r]).getLsbD k)) ∧
    (∀ v, due (.lut v) → wrote s.strand { s.unit with lut := v }) ∧
    (∀ n v, n ∈ writableSys → fl = 0 → due (.sysreg n v) → ∃ t, exec .resultWrite s = .next t ∧
      (∀ m, t.sysreg m = if m = n then writtenSys n (s.sysreg n) v else s.sysreg m) ∧
      t.strand.x = s.strand.x ∧ t.strand.p = s.strand.p ∧ t.strand.v = s.strand.v ∧ t.mod = s.mod)

/-- A result in flight is written in its cycle; of two in one cycle the later group wins: `ResultReachesItsRegister` and `LaterGroupWins` and `OtherResultsReachTheirPlaces`. -/
def Obligations.ResultsReachTheirRegisters : Prop := ResultReachesItsRegister ∧ LaterGroupWins ∧ OtherResultsReachTheirPlaces

/-- R118, R119, R120, R73: `NOP` does nothing; `RDCYC`, `RDWID`, `RDSR` and `WRSR` put one result in flight; `FENCE.E` issues where the
selected queues hold no command of the strand, and blocks otherwise. -/
def Obligations.SystemInstructions : Prop :=
  ∀ (s : State) (d a : Fin 64) (f : Fin 8) (n : Fin 4096),
    exec .nop s = .next s ∧
    GivesX (.rdcyc d) s d (BitVec.ofNat 64 (s.cycle - (if s.who = .c then s.ctl.since else s.core.since))) 1 ∧
    (∀ k, s.who ≠ .c → s.core.task = some k →
      GivesX (.rdwid d f) s d
        (if f.val = 7 then k.wid
         else if f.val < k.header.widths.length then
           BitVec.ofNat 64 (k.wid.toNat / 2 ^ (k.header.widths.drop (f.val + 1)).sum % 2 ^ (k.header.widths.getD f.val 0))
         else 0) 1) ∧
    GivesX (.rdsr d n) s d (s.sysreg n.val) 2 ∧
    exec (.wrsr n a) s = .next (inFlight s (.sysreg n.val (s.xr a)) 0 2) ∧
    (s.who ≠ .c → (∀ e q, e < 7 → (s.xr a).toNat / 2 ^ e % 2 = 1 → q ∈ queuesOfEngine e →
        ∀ c, c ∈ (s.core.queue[q]).waiting ++ (s.core.queue[q]).started → c.by_ ≠ s.who) →
      exec (.fenceE a) s = .next s) ∧
    (s.who ≠ .c → (∃ e q c, e < 7 ∧ (s.xr a).toNat / 2 ^ e % 2 = 1 ∧ q ∈ queuesOfEngine e ∧
        c ∈ (s.core.queue[q]).waiting ++ (s.core.queue[q]).started ∧ c.by_ = s.who) →
      exec (.fenceE a) s = .next (s.verdict .blocked))

/-- R73, R74, R27: what a `WRSR` leaves in its register when it takes effect, and in every other register of the table. -/
def Obligations.SystemRegisterWrites : Prop :=
  ∀ (s : State) (n m : Nat) (v : Word), n ∈ writableSys →
    let t := s.applyEffect s.who (.sysreg n v)
    t.sysreg m = if m = n then writtenSys n (s.sysreg n) v else s.sysreg m

/-- R84, R118, R259, R268: `TRAP` takes `SOFTWARE_TRAP`, and `BRK` without DEBUG takes `BREAKPOINT`, as the precise trap entry; the other
registers, the queues, counters, tiles and memory, and every byte of the scratchpad outside the frame, stay. -/
def Sys2Proof.Claims.TrapEntry : Prop :=
  ∀ (s : State) (c : Fin 64), canTrap s →
    (∃ t, exec (.trap c) s = .next t ∧ Trapped s t 0x09 (BitVec.ofNat 64 c.val) 0) ∧
    (s.debugOn = false → ∃ t, exec .brk s = .next t ∧ Trapped s t 0x08 0 0)

/-- R118, R275, R84: `BRK` in a partition with DEBUG halts the core in FREEZE mode with the strand on its group, its results in flight
captured; every other context is to stop at its own boundary, and stands as it was until then. No register and no memory changes. -/
def Sys2Proof.Claims.BreakpointHalts : Prop :=
  ∀ (s : State), s.debugOn = true → s.who ≠ .c →
    ∃ t, exec .brk s = .next t ∧ t.core.halt = some ⟨false, none, s.who, none, [], contexts.filter fun w => w != s.who⟩ ∧
      t.strand.pc = s.strand.pc ∧ t.strand.x = s.strand.x ∧ t.strand.v = s.strand.v ∧ t.strand.p = s.strand.p ∧
      t.strand.flags = s.strand.flags ∧ t.unit = s.unit ∧ t.mod = s.mod ∧ t.core.scratch = s.core.scratch ∧
      (∀ r, r ∈ t.strand.results → r.written = true) ∧ t.strand.replays = captured s.cycle s.strand ∧
      (∀ w, w ∈ contexts → w ≠ s.who → t.core.strand w = s.core.strand w)

/-- TRAP and BRK take the precise trap entry; BRK under DEBUG halts the core: `TrapEntry` and `BreakpointHalts`. -/
def Obligations.TrapEntryAndHalt : Prop := TrapEntry ∧ BreakpointHalts

/-- R84, R86, R261: a trap of a strand with nothing in flight, followed by `ERET`, resumes at the trapping group with the level of
before; scalar, vector and predicate registers and the flags are as they were. -/
def Sys2Proof.Claims.TrapThenReturn : Prop :=
  ∀ (s : State) (c : Fin 64), canTrap s → s.strand.results = [] → s.strand.replays = [] → s.strand.nest = none →
    s.strand.region = none → s.who ≠ .c → s.grp.addr < 2 ^ 64 → (∀ l, l ∈ s.core.scratchPoison → l * 128 + 128 ≤ s.strand.traparea.toNat ∨
      s.strand.traparea.toNat + 2048 ≤ l * 128) →
    ∃ t u, exec (.trap c) s = .next t ∧ exec .eret t = .next u ∧
      u.strand.pc = s.grp.addr ∧ u.strand.pl = s.strand.pl ∧ u.strand.th = false ∧ u.strand.rq = false ∧
      u.strand.replays = [] ∧ u.strand.nest = none ∧ u.strand.x = s.strand.x ∧ u.strand.v = s.strand.v ∧
      u.strand.p = s.strand.p ∧ u.strand.flags = s.strand.flags

/-- R86, R161, R259: `ERET` without a captured queue, once no result of an earlier group is to be written, restores the level and the pc, and clears TH; of the frame it
reads the nest state alone: with NV = 0 no nest runs, with NV = 1 that of the frame, where it passes the checks of R262. -/
def Sys2Proof.Claims.ReturnWithoutQueue : Prop :=
  ∀ (s : State), s.strand.rq = false → (s.grp.settled = true ∨ s.strand.draining = false) → s.who ≠ .c → s.strand.region = none →
    let area := s.strand.traparea.toNat
    area + 4096 ≤ s.spSize → poisonedIn s.spPoison area 2048 = false → Memory.wf s.spMem = true →
    let back (n : Option Nest) : State := s.onStrand fun f =>
      { f with pl := f.ppl, th := false, rq := false, pc := f.epc.toNat, replays := [], replayStore := [], nest := n }
    (bitOf (spWord s (area + 0x28)) 8 = false → exec .eret s = .next (back none)) ∧
    (bitOf (spWord s (area + 0x28)) 8 = true → s.nestOk (readNest (s.spMem.read area 2048) s.strand.epc.toNat) s.strand.ppl = true →
      exec .eret s = .next (back (some (readNest (s.spMem.read area 2048) s.strand.epc.toNat))))

/-- A trap followed by ERET resumes at the trapping group; ERET without a captured queue: `TrapThenReturn` and `ReturnWithoutQueue`. -/
def Obligations.TrapAndReturn : Prop := TrapThenReturn ∧ ReturnWithoutQueue

/-- R70, R73, R86, R38: the levels. Every task starts at user level; a trap sets the level to privileged; `ERET` restores the level saved; and at user
level major 0x34, `ERET`, a read or write of a privileged register, and a write of `sr.status`, are refused with `PRIVILEGE` before their
group has any effect, where at privileged level they pass: `ERET`, `RDSR` and `WRSR` on every strand, major 0x34 on those that have it. -/
def Obligations.PrivilegeLevels : Prop :=
  (∀ (f : Strand) (r : Run) (pc : Nat), (Strand.taskStart f r pc).pl = false) ∧
  (∀ (s : State) (code : Nat) (v o : Word), canTrap s → ∃ t, s.raise code v o = .next t ∧ t.strand.pl = true ∧ t.strand.ppl = s.strand.pl) ∧
  (∀ (s : State) (es : List ReplayEntry) (n : Option Nest), (s.eret es n).strand.pl = s.strand.ppl) ∧
  (∀ (w : Who) (lim : Limits) (addr syl : Nat) (i : Instr),
    ((w = .a ∨ w = .c) ∧ ((∃ a, i = .xlinvPg a) ∨ (∃ a b, i = .xlinvRg a b) ∨ i = .xlinvAll ∨ (∃ a, i = .poisonClr a) ∨ ∃ a, i = .poisonClrSp a)) ∨
      i = .eret ∨ (∃ d n, 8 ≤ n.val ∧ i = .rdsr d n) ∨ (∃ n a, (8 ≤ n.val ∨ n.val = 0) ∧ i = .wrsr n a) →
    checkItem w lim false ⟨addr, syl, .ok i⟩ = some (0x05, BitVec.ofNat 64 addr, BitVec.ofNat 64 syl) ∧
    checkItem w lim true ⟨addr, syl, .ok i⟩ = none)

/-! ## Memory, scratchpad, queues -/

namespace Sys2Proof.Claims

/-- The state u is s but for the caches that an access goes through (the translation caches, the remote data cache, the core's cached lines and
the lines that a home L2 is known not to hold): what an access leaves there decides no value (R169, R340, R346, R371). -/
def Cached (s u : State) : Prop :=
  u = { s with
    core := { s.core with cache := u.core.cache }
    mod := { s.mod with tlb := u.mod.tlb, rdc := u.mod.rdc, gone := u.mod.gone } }

/-- The state with one more response in flight, for the strand that runs: no earlier than 14 cycles from now it writes `e`, and nothing
else differs. -/
def responds (s : State) (e : Effect) : State :=
  s.onStrand fun f => { f with results := f.results ++ [⟨e, 0, s.cycle + 14, true, none, s.grp.addr, false, false⟩] }

/-- The value of n bytes of memory at a physical address, little-endian. -/
def memValue (s : State) (pa n : Nat) : Nat := natOfBytes (physRead s.mod pa n)

/-- A load of n bytes completes: its address passes the checks of R89, its data are not poisoned, and its only effect is the response
that writes `e` of the value at the address. -/
def Loads (i : Instr) (s : State) (va : Word) (n : Nat) (e : Nat → Effect) : Prop :=
  ∀ pl, s.place accRead va n = .ok pl → poisonedIn s.mod.poison pl.pa n = false →
    ∃ u, Cached s u ∧ exec i s = .next (responds u (e (memValue s pl.pa n)))

/-- A store of some bytes completes: its address passes the checks of R89, and its only effect is the posted store of the bytes at the
physical address. -/
def Posts (i : Instr) (s : State) (va : Word) (bs : List Byte) : Prop :=
  ∀ pl, s.place accWrite va bs.length = .ok pl →
    ∃ u, Cached s u ∧ exec i s = .next (u.onStrand fun f => { f with posted := f.posted ++ [.store pl.pa bs] })

/-- The n low bytes of a word, the lowest first. -/
def lowBytes (v : Word) (n : Nat) : List Byte := (List.range n).map fun k => v.extractLsb' (8 * k) 8

/-- The sign-extension of an n-byte value. -/
def sextBytes (n v : Nat) : Word := BitVec.ofInt 64 (if v < 2 ^ (8 * n - 1) then (v : Int) else (v : Int) - 2 ^ (8 * n))

/-- The address x[a] + sext(off13). -/
def addrM (s : State) (a : Fin 64) (o : BitVec 13) : Word := BitVec.ofInt 64 ((s.xr a).toInt + o.toInt)

/-- A memory that differs from m in a run of bytes from a on, and nowhere else. -/
def Stored (m m' : Memory) (a : Nat) (bs : List Byte) : Prop :=
  (∀ k, k < bs.length → m'.get (a + k) = bs.getD k 0) ∧ ∀ b, b < a ∨ a + bs.length ≤ b → m'.get b = m.get b

/-- The new value of an integer atomic of R99 on the old value o, with operand x and compared value y. -/
def amoResult : Instr → Word → Word → Word → Option Word
  | .amoAdd _ _ _, o, x, _ => some (o + x)
  | .amoMinI64 _ _ _, o, x, _ => some (BitVec.ofInt 64 (min o.toInt x.toInt))
  | .amoMinN64 _ _ _, o, x, _ => some (BitVec.ofNat 64 (min o.toNat x.toNat))
  | .amoMaxI64 _ _ _, o, x, _ => some (BitVec.ofInt 64 (max o.toInt x.toInt))
  | .amoMaxN64 _ _ _, o, x, _ => some (BitVec.ofNat 64 (max o.toNat x.toNat))
  | .amoAnd _ _ _, o, x, _ => some (o &&& x)
  | .amoOr _ _ _, o, x, _ => some (o ||| x)
  | .amoXor _ _ _, o, x, _ => some (o ^^^ x)
  | .amoXchg _ _ _, _, x, _ => some x
  | .amoCas _ _ _, o, x, y => some (if o = y then x else o)
  | _, _, _, _ => none

/-- The new bits and flags of a floating-point atomic, its element type, and its operands. -/
def amoFloat : Instr → Option (ElemType × (Nat → Nat → Nat × Flags) × Fin 64 × Fin 64 × Fin 64)
  | .amoFaddF32 d a b => some (.f32, addElem .f32, d, a, b)
  | .amoFaddBf16 d a b => some (.bf16, addElem .bf16, d, a, b)
  | .amoFmaxF32 d a b => some (.f32, pickElem .f32 true, d, a, b)
  | .amoFmaxBf16 d a b => some (.bf16, pickElem .bf16 true, d, a, b)
  | _ => none

/-- The operands of an integer atomic. -/
def amoOperands : Instr → Option (Fin 64 × Fin 64 × Fin 64)
  | .amoAdd d a b | .amoMinI64 d a b | .amoMinN64 d a b | .amoMaxI64 d a b | .amoMaxN64 d a b | .amoAnd d a b | .amoOr d a b
  | .amoXor d a b | .amoXchg d a b | .amoCas d a b => some (d, a, b)
  | _ => none

/-- The func of an atomic, from R99's table. -/
def amoFunc : Instr → Nat
  | .amoAdd _ _ _ => 0x10 | .amoMinI64 _ _ _ => 0x11 | .amoMinN64 _ _ _ => 0x12 | .amoMaxI64 _ _ _ => 0x13
  | .amoMaxN64 _ _ _ => 0x14 | .amoAnd _ _ _ => 0x15 | .amoOr _ _ _ => 0x16 | .amoXor _ _ _ => 0x17
  | .amoXchg _ _ _ => 0x18 | .amoCas _ _ _ => 0x19 | .amoFaddF32 _ _ _ => 0x1A | .amoFaddBf16 _ _ _ => 0x1B
  | .amoFmaxF32 _ _ _ => 0x1C | .amoFmaxBf16 _ _ _ => 0x1D | _ => 0

/-- Bytes of memory, not of the memory-side status pages. -/
def plainBytes (pa n : Nat) : Prop := pa + n ≤ statusBase ∨ cxlBase ≤ pa

/-- The module after an atomic: the new value's bytes at pa, and its flags ORed into the home's status word (R100), where a store of the
same cycle keeps them (R352). -/
def AtomicDone (s : State) (n : Fin 16) (pa size : Nat) (new : Nat × Flags) (m : Module) : Prop :=
  let j := statusIndex (homeDie s.mod.parts[n] pa) n.val
  Stored s.mod.mem m.mem pa (bytesOfNat size new.1) ∧ (∀ i : Fin 384, i ≠ j → m.status[i] = s.mod.status[i]) ∧
  m.status[j] = s.mod.status[j] ||| new.2.zeroExtend 7 ∧ m.raised = (j, new.2.zeroExtend 7) :: s.mod.raised

/-- The module after an atomic at the memory side: memory, the status words, and the L2s, which no longer hold the lines (R351). -/
def atBase (s : State) (m : Module) : State :=
  { s with mod := { s.mod with mem := m.mem, status := m.status, raised := m.raised, l2 := m.l2, gone := m.gone } }

/-- An atomic at x[a] completes. Returning, it stores the new value of `size` bytes, ORs its flags into the status word of the line's
home, and answers the old value and the flags; non-returning, it is posted. -/
def Atomic (i : Instr) (s : State) (d a b : Fin 64) (size : Nat) (new : Nat → Nat × Flags) : Prop :=
  ∀ n pl, s.part = some n → s.place accAtomic (s.xr a) size = .ok pl → poisonedIn s.mod.poison pl.pa size = false →
    plainBytes pl.pa size → Memory.wf s.mod.mem = true →
    (d = 0 → ∃ u, Cached s u ∧ exec i s = .next (u.onStrand fun g =>
      { g with posted := g.posted ++ [.atomic (amoFunc i) pl.pa (s.xr b) 0] })) ∧
    (d ≠ 0 → ∃ (u : State) (m : Module), Cached s u ∧ AtomicDone s n pl.pa size (new (memValue s pl.pa size)) m ∧
      exec i s = .next (responds ((atBase u m).onStrand fun g => { g with returned := (new (memValue s pl.pa size)).2 })
        (intoX d (BitVec.ofNat 64 (memValue s pl.pa size)))))

end Sys2Proof.Claims

/-- R93, R94, R114: loads of 1, 2, 4, 8 and 32 bytes, zero- or sign-extended, with the address forms of R93. -/
def Obligations.MemoryLoads : Prop :=
  ∀ (s : State) (d a b : Fin 64) (o : BitVec 13),
    Loads (.ld64 d a o) s (addrM s a o) 8 (fun v => intoX d (BitVec.ofNat 64 v)) ∧
    Loads (.ldN32 d a o) s (addrM s a o) 4 (fun v => intoX d (BitVec.ofNat 64 v)) ∧
    Loads (.ldI32 d a o) s (addrM s a o) 4 (fun v => intoX d (sextBytes 4 v)) ∧
    Loads (.ldN16 d a b) s (s.xr a + s.xr b) 2 (fun v => intoX d (BitVec.ofNat 64 v)) ∧
    Loads (.ldI16 d a b) s (s.xr a + s.xr b) 2 (fun v => intoX d (sextBytes 2 v)) ∧
    Loads (.ldN8 d a b) s (s.xr a + s.xr b) 1 (fun v => intoX d (BitVec.ofNat 64 v)) ∧
    Loads (.ldI8 d a b) s (s.xr a + s.xr b) 1 (fun v => intoX d (sextBytes 1 v)) ∧
    Loads (.wld d a b) s (s.xr a + s.xr b) 32 (fun v => .template d (BitVec.ofNat 256 v) 0xF)

/-- R93, R94, R114: stores are posted with the low bytes of the register, in little-endian order; `WSET` puts a quarter in flight. -/
def Obligations.MemoryStores : Prop :=
  ∀ (s : State) (d a b : Fin 64) (o : BitVec 13) (q : Fin 8),
    Posts (.st64 d a o) s (addrM s a o) (lowBytes (s.xr d) 8) ∧
    Posts (.st32 d a o) s (addrM s a o) (lowBytes (s.xr d) 4) ∧
    Posts (.st16 d a b) s (s.xr a + s.xr b) (lowBytes (s.xr d) 2) ∧
    Posts (.st8 d a b) s (s.xr a + s.xr b) (lowBytes (s.xr d) 1) ∧
    Posts (.wst d a b) s (s.xr a + s.xr b) ((List.range 32).map fun k => (s.unit.w[d]).extractLsb' (8 * k) 8) ∧
    (q.val < 4 → exec (.wset d a q) s = .next (inFlight s
      (.template d (BitVec.ofNat 256 ((s.xr a).toNat * 2 ^ (64 * q.val))) (BitVec.ofNat 4 (2 ^ q.val))) 0 1))

/-- R94, R345: the oldest posted store of the strand is performed through the L2 of the line's home: its bytes stand in memory, and no other byte
of memory changes but those that a dirty line under a tensor's tag brings there when it leaves the L2. -/
def Sys2Proof.Claims.PostedStoresArePerformed : Prop :=
  ∀ (s : State) (pa : Nat) (bs : List Byte) (ps : List Posted), Memory.wf s.mod.mem = true → bs ≠ [] →
    plainBytes pa bs.length → s.mod.Lands pa bs.length → s.strand.posted = .store pa bs :: ps →
    ∃ m : Module,
      m = { s.mod with mem := m.mem, l2 := m.l2, gone := m.gone, poison := m.poison } ∧ Memory.wf m.mem = true ∧
      (∀ k, k < bs.length → m.mem.get (pa + k) = bs.getD k 0) ∧
      (∀ b, b < pa ∨ pa + bs.length ≤ b → ¬s.mod.Late b → m.mem.get b = s.mod.mem.get b) ∧
      exec .storePerformed s = .next (State.onStrand { s with mod := m } fun f => { f with posted := ps })

/-- R99, R100: the integer atomics give the new value of R99's table and answer the old one; the floating-point ones the rounded sum or
the maximum, with their flags in the status word of the home. That the flags also stand in a field that no instruction reads, no destination being named
for them, is the model's choice (log entry 121). -/
def Obligations.MemoryAtomics : Prop :=
  ∀ (s : State) (i : Instr),
    (∀ d a b, amoOperands i = some (d, a, b) → Atomic i s d a b 8 fun o =>
      (((amoResult i (BitVec.ofNat 64 o) (s.xr b) (s.xr d)).getD 0).toNat, 0)) ∧
    (∀ t f d a b, amoFloat i = some (t, f, d, a, b) → Atomic i s d a b (t.width / 8) fun o =>
      f o ((s.xr b).toNat % 2 ^ t.width))

/-- R99, R100, R352: a posted atomic is performed at the memory side: its new value is stored, and no other byte changes; one that meets a
poisoned line is not performed, and POISON (bit 6) is recorded in the status word of the line's home. -/
def Sys2Proof.Claims.PostedAtomicsArePerformed : Prop :=
  ∀ (s : State) (i : Instr) (n : Fin 16) (pa : Nat) (x : Word) (ps : List Posted), s.part = some n → Memory.wf s.mod.mem = true →
    s.strand.posted = .atomic (amoFunc i) pa x 0 :: ps →
    ((amoOperands i).isSome → plainBytes pa 8 → poisonedIn s.mod.poison pa 8 = false → ∃ m : Module,
      AtomicDone s n pa 8 (((amoResult i (BitVec.ofNat 64 (memValue s pa 8)) x 0).getD 0).toNat, 0) m ∧
      exec .storePerformed s = .next ((atBase s m).onStrand fun f => { f with posted := ps })) ∧
    (∀ t f d a b, amoFloat i = some (t, f, d, a, b) → plainBytes pa (t.width / 8) → poisonedIn s.mod.poison pa (t.width / 8) = false →
      ∃ m : Module, AtomicDone s n pa (t.width / 8) (f (memValue s pa (t.width / 8)) (x.toNat % 2 ^ t.width)) m ∧
      exec .storePerformed s = .next ((atBase s m).onStrand fun f => { f with posted := ps })) ∧
    ((amoOperands i).isSome → poisonedIn s.mod.poison pa 8 = true →
      exec .storePerformed s = .next (State.onStrand { s with mod := orStatus s.mod (homeDie s.mod.parts[n] pa) n 0x40 }
        fun f => { f with posted := ps }))

/-- A posted store or atomic changes exactly its bytes when it is performed: `PostedStoresArePerformed` and `PostedAtomicsArePerformed`. -/
def Obligations.PostedEffectsArePerformed : Prop := PostedStoresArePerformed ∧ PostedAtomicsArePerformed

/-- R89, R263: the checks of an address, in their order: canonical form, alignment, translation; a load, a store or an atomic whose address
fails one takes the precise trap with the address in tval and the instruction's address in orig. -/
def Obligations.AddressChecks : Prop :=
  ∀ (s : State) (acc : Access) (va : Word) (n : Nat) (p : Fin 16), s.part = some p →
    ((∃ k, 57 ≤ k ∧ k < 64 ∧ va.getLsbD k ≠ va.getLsbD 56) → s.place acc va n = .error 0x11) ∧
    ((∀ k, 57 ≤ k → k < 64 → va.getLsbD k = va.getLsbD 56) → va.toNat % n ≠ 0 → s.place acc va n = .error 0x12) ∧
    (∀ (d a b : Fin 64) (o : BitVec 13) (c : Nat), c < 256 → canTrap s →
      (s.place accRead (addrM s a o) 8 = .error c → ∃ t, exec (.ld64 d a o) s = .next t ∧
        Trapped s t c (addrM s a o) (BitVec.ofNat 64 s.grp.iaddr)) ∧
      (s.place accWrite (addrM s a o) 8 = .error c → ∃ t, exec (.st64 d a o) s = .next t ∧
        Trapped s t c (addrM s a o) (BitVec.ofNat 64 s.grp.iaddr)) ∧
      (s.place accAtomic (s.xr a) 8 = .error c → ∃ t, exec (.amoAdd d a b) s = .next t ∧
        Trapped s t c (s.xr a) (BitVec.ofNat 64 s.grp.iaddr)))

/-- R95, R168, R175, R177: `LDSP` and `STSP` outside a speculation region and not coupled to a tile: they read and write the 8 bytes at
their address, and no other byte; a misaligned address traps `ALIGN`, one outside the pinned ways `SCRATCH_RANGE`, and a tile that
couples the access holds the strand. -/
def Obligations.ScratchpadAccess : Prop :=
  ∀ (s : State) (d a : Fin 64) (o : BitVec 13), Memory.wf s.spMem = true → s.strand.region = none →
    let va := addrM s a o
    let at_ := va.toNat
    (at_ % 8 = 0 → at_ + 8 ≤ s.spSize → s.couples at_ 8 false = false → s.spPoison.contains (at_ / 128) = false →
      GivesX (.ldsp d a o) s d (BitVec.ofNat 64 (spWord s at_)) 6) ∧
    (at_ % 8 = 0 → at_ + 8 ≤ s.spSize → s.couples at_ 8 true = false →
      ∃ m, Stored s.spMem m at_ (lowBytes (s.xr d) 8) ∧ exec (.stsp d a o) s = .next (s.setSp m)) ∧
    (at_ % 8 = 0 → at_ + 8 ≤ s.spSize → s.couples at_ 8 false = true → exec (.ldsp d a o) s = .next (s.verdict .blocked)) ∧
    (at_ % 8 = 0 → at_ + 8 ≤ s.spSize → s.couples at_ 8 true = true → exec (.stsp d a o) s = .next (s.verdict .blocked)) ∧
    (at_ % 8 ≠ 0 → canTrap s →
      (∃ t, exec (.ldsp d a o) s = .next t ∧ Trapped s t 0x12 va (BitVec.ofNat 64 s.grp.iaddr)) ∧
      (∃ t, exec (.stsp d a o) s = .next t ∧ Trapped s t 0x12 va (BitVec.ofNat 64 s.grp.iaddr))) ∧
    (at_ % 8 = 0 → s.spSize < at_ + 8 → canTrap s →
      (∃ t, exec (.ldsp d a o) s = .next t ∧ Trapped s t 0x14 va (BitVec.ofNat 64 s.grp.iaddr)) ∧
      (∃ t, exec (.stsp d a o) s = .next t ∧ Trapped s t 0x14 va (BitVec.ofNat 64 s.grp.iaddr)))

namespace Sys2Proof.Claims

/-- The state with other entries in a data queue, its head index advanced by k. -/
def withEntries (s : State) (q : Fin 8) (k : Nat) (es : List QEntry) : State :=
  { s with core := { s.core with q := s.core.q.set q ⟨(s.core.q[q]).head + Fin.ofNat 16 k, es⟩ } }

/-- A data queue whose first entries `front` are poppable now, with `rest` behind them. -/
def Poppable (s : State) (q : Fin 8) (front rest : List QEntry) : Prop :=
  (s.core.q[q]).entries = front ++ rest ∧ ∀ e, e ∈ front → e.reserved = false ∧ e.ready ≤ s.cycle

/-- The state after a branch of the strand to an address. -/
def goesTo (s : State) (pc : Nat) : State := s.onStrand fun f => { f with pc := pc }

/-- The target of a B form: the address of its group plus 4 × disp18 (R42). -/
def target (s : State) (i : BitVec 18) : Nat := (((s.grp.addr : Int) + 4 * i.toInt) % (2 ^ 64 : Int)).toNat

/-- The strand's data queues as the assembler names them on A and X: which way a push and a pop go is checked at the group (R40). -/
def pushedEntry (data : BitVec 512) (s : State) : QEntry := ⟨data, s.cycle + 3, false, false, 0, 0⟩

/-- Part j of a vector register, 64 bytes. -/
def part512 (v : VReg) (j : Nat) : BitVec 512 := v.extractLsb' (512 * j) 512

end Sys2Proof.Claims

/-- R97, R98, R128, R130, R75: pushes and pops of the data queues. A pushed entry is poppable three cycles later, a popped one is read in
two; a push blocks on a full queue and a pop on an empty one, and a poisoned entry traps. -/
def Sys2Proof.Claims.DataQueueTransfers : Prop :=
  ∀ (s : State) (q : Fin 8) (d a : Fin 64) (e : QEntry) (front rest : List QEntry),
    ((s.core.q[q]).entries.length < 16 →
      exec (.qpush q a) s = .next (withEntries s q 0 ((s.core.q[q]).entries ++ [pushedEntry ((s.xr a).zeroExtend 512) s]))) ∧
    (16 ≤ (s.core.q[q]).entries.length → exec (.qpush q a) s = .next (s.verdict .blocked)) ∧
    (Poppable s q [e] rest → e.poison = false →
      exec (.qpop d q) s = .next (writesX (withEntries s q 1 rest) d (e.data.extractLsb' 0 64) 2)) ∧
    (Poppable s q [e] rest → e.poison = true → canTrap s → ∃ t, exec (.qpop d q) s = .next t ∧
      Trapped s t 0x30 e.addr (BitVec.ofNat 64 s.grp.iaddr)) ∧
    ((s.core.q[q]).entries = [] → exec (.qpop d q) s = .next (s.verdict .blocked)) ∧
    ((s.core.q[q]).entries.length ≤ 8 →
      exec (.vqpush q a) s = .next (withEntries s q 0 ((s.core.q[q]).entries ++
        (List.range 8).map fun j => pushedEntry (part512 (s.vr a) j) s))) ∧
    (8 < (s.core.q[q]).entries.length → exec (.vqpush q a) s = .next (s.verdict .blocked)) ∧
    (Poppable s q front rest → front.length = 8 → (∀ x, x ∈ front → x.poison = false) → ∃ v : VReg,
      exec (.vqpop d q) s = .next (inFlight (withEntries s q 8 rest)
        (.vec [(physV s.who s.strand d, v)] (BitVec.allOnes 1024)) 0 (if isTStrand s.who then 8 else 2)) ∧
      ∀ j, j < 8 → part512 v j = (front.getD j default).data)

/-- R97: `LDQ` reserves the tail entry for the 64 bytes at its address, and blocks on a full queue; `STQ` pops the head entry and posts it
as a store. -/
def Sys2Proof.Claims.QueueLoadsAndStores : Prop :=
  ∀ (s : State) (q : Fin 8) (a b : Fin 64) (e : QEntry) (rest : List QEntry) (pl : Place),
    (s.place accRead (s.xr a + s.xr b) 64 = .ok pl →
      ((s.core.q[q]).entries.length < 16 → ∃ u, Cached s u ∧ exec (.ldq q a b) s =
        .next (withEntries u q 0 ((s.core.q[q]).entries ++
          [⟨BitVec.ofNat 512 (memValue s pl.pa 64), s.cycle + 14, true, poisonedIn s.mod.poison pl.pa 64, s.xr a + s.xr b, s.grp.addr⟩]))) ∧
      (16 ≤ (s.core.q[q]).entries.length → exec (.ldq q a b) s = .next (s.verdict .blocked))) ∧
    (s.place accWrite (s.xr a + s.xr b) 64 = .ok pl →
      (Poppable s q [e] rest → e.poison = false → ∃ u, Cached s u ∧ exec (.stq q a b) s =
        .next ((withEntries u q 1 rest).onStrand fun f =>
          { f with posted := f.posted ++ [.store pl.pa (bytesOfNat 64 e.data.toNat)] })) ∧
      ((s.core.q[q]).entries = [] → exec (.stq q a b) s = .next (s.verdict .blocked)))

/-- Data queues: pushes, pops, LDQ and STQ, on full and on empty queues: `DataQueueTransfers` and `QueueLoadsAndStores`. -/
def Obligations.QueuesBothWays : Prop := DataQueueTransfers ∧ QueueLoadsAndStores

/-- R98, R109, R75: branch outcomes go from A to X and from X to A; a pushed one is poppable three cycles later, and `BQ` pops one and
branches on it, or blocks. -/
def Obligations.BranchOutcomes : Prop :=
  ∀ (s : State) (p : Fin 16) (i : BitVec 18) (v : Bool) (r : Nat) (es : List (Bool × Nat)),
    (s.who = .a → s.core.bqAX.entries.length < 32 →
      exec (.bqpush p) s = .next { s with core := { s.core with bqAX := ⟨s.core.bqAX.head, s.core.bqAX.entries ++ [(s.pr p, s.cycle + 3)]⟩ } }) ∧
    (s.who = .x → s.core.bqXA.entries.length < 32 →
      exec (.bqpush p) s = .next { s with core := { s.core with bqXA := ⟨s.core.bqXA.head, s.core.bqXA.entries ++ [(s.pr p, s.cycle + 3)]⟩ } }) ∧
    (s.who = .a → s.core.bqXA.entries = (v, r) :: es → r ≤ s.cycle →
      exec (.bq i) s = .next
        (let t := { s with core := { s.core with bqXA := ⟨s.core.bqXA.head + 1, es⟩ } }
         if v then goesTo t (target s i) else t)) ∧
    (s.who = .x → s.core.bqAX.entries = (v, r) :: es → r ≤ s.cycle →
      exec (.bq i) s = .next
        (let t := { s with core := { s.core with bqAX := ⟨s.core.bqAX.head + 1, es⟩ } }
         if v then goesTo t (target s i) else t)) ∧
    (s.who = .a → s.core.bqXA.entries = [] → exec (.bq i) s = .next (s.verdict .blocked)) ∧
    (s.who = .x → s.core.bqAX.entries = [] → exec (.bq i) s = .next (s.verdict .blocked))

/-- R109, R111, R42: branches, calls, indirect jumps and `DBNZ`; a misaligned indirect target traps `ALIGN` and the transfer does not
happen. -/
def Obligations.ControlTransfers : Prop :=
  ∀ (s : State) (p : Fin 16) (i : BitVec 18) (n a : Fin 64),
    exec (.br i) s = .next (goesTo s (target s i)) ∧
    exec (.bp p i) s = .next (if s.pr p then goesTo s (target s i) else s) ∧
    exec (.bpF p i) s = .next (if s.pr p then s else goesTo s (target s i)) ∧
    exec (.call i) s = .next (goesTo (writesX s 63 (BitVec.ofNat 64 s.grp.npc) 1) (target s i)) ∧
    ((s.xr a).toNat % 4 = 0 → exec (.jr a) s = .next (goesTo s (s.xr a).toNat)) ∧
    ((s.xr 63).toNat % 4 = 0 → exec .ret s = .next (goesTo s (s.xr 63).toNat)) ∧
    ((s.xr a).toNat % 4 ≠ 0 → canTrap s → ∃ t, exec (.jr a) s = .next t ∧ Trapped s t 0x12 (s.xr a) (BitVec.ofNat 64 s.grp.iaddr)) ∧
    (s.strand.pendingX n = false →
      exec (.dbnz n i) s = .next (let t := writesX s n (s.xr n - 1) 1
        if s.xr n = 1 then t else goesTo t (target s i)) ∧
      exec (.dbnzG n i) s = .next (let t := writesX s n (s.xr n - 1) 1
        if s.xr n = 0 then s else if s.xr n = 1 then t else goesTo t (target s i))) ∧
    (s.strand.pendingX n = true → exec (.dbnz n i) s = .next (s.verdict .awaits) ∧ exec (.dbnzG n i) s = .next (s.verdict .awaits))

/-- R155: `UBZ` is a control transfer, legal on X only, taken when every bit of the mask top is 0 and never at depth 0; its target is
that of R42. -/
def Obligations.BranchOnEmptyMask : Prop :=
  ∀ (s : State) (i : BitVec 18) (w : Who),
    (s.strand.masks = [] → exec (.ubz i) s = .next s) ∧
    (∀ top rest, s.strand.masks = top :: rest → exec (.ubz i) s = .next (if top = 0 then goesTo s (target s i) else s)) ∧
    isControl (.ubz i) = true ∧ (strandOk w (.ubz i) = true ↔ w = .x) ∧
    ∀ stop : Fin 2, decode (0x14 * 2 ^ 25 + i.toNat + stop.val * 2 ^ 31) [] = (.ok (.ubz i), 1)

/-- R78, R116, R117: a strand whose results are written ends its part: its region is aborted and it issues nothing more; `OVSWAP` on A
names the next overlay. A strand with results in flight waits for them, before its group takes effect (R34). -/
def Obligations.PartEnds : Prop :=
  ∀ (s : State) (a : Fin 64),
    (s.grp.settled = false → s.strand.draining = true → exec .taskend s = .next (s.verdict .awaits) ∧ exec (.ovswap a) s = .next (s.verdict .awaits)) ∧
    (s.grp.settled = true ∨ s.strand.draining = false →
    (s.who = .a ∨ s.who = .x → exec .taskend s = .next (s.onStrand fun f => { f with spec := false, region := none, run := .ended })) ∧
    (s.who = .t 0 → s.core.tokenMode = false →
      exec .taskend s = .next (s.onStrand fun f => { f with spec := false, region := none, run := .ended })) ∧
    (s.who = .t 0 → s.core.tokenMode = true → ∃ t, exec .taskend s = .next t ∧
      t.strand = { s.strand with spec := false, region := none, run := .waiting } ∧ t.mod = s.mod ∧
      ((t.core.queue[(3 : Fin 8)]).started.map fun c => c.due) = (s.core.queue[(3 : Fin 8)]).started.map fun _ => s.cycle + 1) ∧
    (∀ c : Fin 5, c ≠ 0 → s.who = .t c →
      exec .taskend s = .next (s.onStrand fun f => { f with spec := false, region := none, run := .idle })) ∧
    (s.who = .a → ∀ k, s.core.task = some k → s.xr a ≠ 0 → ∃ t, exec (.ovswap a) s = .next t ∧
      t.strand = { s.strand with spec := false, region := none, run := .ended } ∧ t.core.task = some { k with swap := some (s.xr a) } ∧
      t.mod = s.mod) ∧
    (s.who = .x → exec (.ovswap 0) s = .next (s.onStrand fun f => { f with spec := false, region := none, run := .ended })))

/-! ## Counters, speculation, nests, wide issue, rings and tiles -/

namespace Sys2Proof.Claims

/-- C(N) of R108: 2^64 − 1 without a link in force, else k[M] + slack, at most 2^64 − 1. -/
def ceilingOf (s : State) (n : Fin 64) : Nat :=
  let l := (s.counter s.onController n).linkAt s.cycle
  if l.linked then min ((s.counter s.onController l.target).count.toNat + l.slack.toNat) (2 ^ 64 - 1) else 2 ^ 64 - 1

/-- The counters shared by a co-operative group are there (R309): the model keeps sixteen in a list. -/
def sharedWhole (s : State) : Prop := ∀ g, s.sharedGroup = some g → (sharedList s.ctl g).length = 16

/-- No add to a counter is younger than four cycles: every agent sees its count (R75, R309). -/
def settled (s : State) (c : Counter) : Prop := ∀ r, r ∈ c.recent → r.2.2 + 4 ≤ s.cycle

/-- A hold of the strand until a response returns, 14 cycles from now. -/
def holding (s : State) (e : Effect) (c : Option Cause) : Hold := ⟨s.cycle, s.cycle + 14, e, 0, c⟩

/-- Halfword h of the template pair that begins at wN. -/
def pairHalf (u : StrandUnit) (n : Fin 64) (h : Nat) : Nat :=
  if h < 16 then (u.w[n]).toNat / 2 ^ (16 * h) % 2 ^ 16
  else if g : n.val + 1 < 64 then (u.w[n.val + 1]).toNat / 2 ^ (16 * (h - 16)) % 2 ^ 16 else 0

/-- A wide issue has put a command for wN into its queue: the image's halfwords are given by `half`, and nothing else of the strand, of its
templates, of the other queues and of memory has changed. -/
def Issued (s t : State) (n : Fin 64) (half : Nat → Nat) : Prop :=
  ∃ c : Command, (∀ h, h < imageLength c.image → hw c.image h = half h) ∧ c.by_ = s.who ∧ c.name = n ∧ c.fault = none ∧ c.claims = [] ∧
    (s.queue s.onController (queueOf c.image)).waiting.length < queueDepth s.onController (queueOf c.image) ∧
    t.queue s.onController (queueOf c.image) =
      { s.queue s.onController (queueOf c.image) with waiting := (s.queue s.onController (queueOf c.image)).waiting ++ [c] } ∧
    (∀ q, q ≠ queueOf c.image → t.core.queue[q] = s.core.queue[q]) ∧
    t.strand.x = s.strand.x ∧ t.strand.v = s.strand.v ∧ t.strand.flags = s.strand.flags ∧ t.strand.pc = s.strand.pc ∧
    t.mod = s.mod ∧ t.core.scratch = s.core.scratch ∧ t.core.tile = s.core.tile ∧ t.core.k = s.core.k

/-- The queue of an image has room. -/
def Room (s : State) (img : Image) : Prop :=
  (s.queue s.onController (queueOf img)).waiting.length < queueDepth s.onController (queueOf img)

/-- Two tiles overlap in the scratchpad. -/
def overlap (v w : Word) : Prop := tileBase w < tileBase v + tileBytes v ∧ tileBase v < tileBase w + tileBytes w

end Sys2Proof.Claims

/-- R106 to R108: `KADD` adds to its counter below the ceiling and to no other; past it the group traps `CEILING` with N in tval and the
refused increment in orig. `KREAD` reads, `KWAIT` waits for the count, `KLINK` links from the next cycle on; that a link removed leaves
zeros behind is the model's choice (log entry 25). -/
def Sys2Proof.Claims.LocalCounters : Prop :=
  ∀ (s : State) (d a b : Fin 64), sharedWhole s →
    let c := s.counter s.onController d
    (c.count.toNat + (s.xr a).toNat ≤ ceilingOf s d → ∃ t, exec (.kadd d a) s = .next t ∧
      (t.counter s.onController d).count.toNat = c.count.toNat + (s.xr a).toNat ∧
      (t.counter s.onController d).link = c.link ∧ (t.counter s.onController d).newLink = c.newLink ∧
      (∀ m, m ≠ d → t.counter s.onController m = s.counter s.onController m) ∧ t.strand = s.strand ∧ t.mod = s.mod) ∧
    (ceilingOf s d < c.count.toNat + (s.xr a).toNat → canTrap s → ∃ t, exec (.kadd d a) s = .next t ∧
      Trapped s t 0x18 (BitVec.ofNat 64 d.val) (s.xr a)) ∧
    (∃ v, GivesX (.kread a d) s a v 2 ∧ (settled s c → v = c.count)) ∧
    (settled s c → exec (.kwait d b) s = .next (if (s.xr b).toNat ≤ c.count.toNat then s else s.verdict .blocked)) ∧
    ((s.onController = true ∨ s.sharedGroup = none ∨ (48 ≤ d.val ↔ 48 ≤ a.val)) → ∃ t, exec (.klink d a b) s = .next t ∧
      (t.counter s.onController d).count = c.count ∧
      (∀ now, s.cycle < now → (t.counter s.onController d).linkAt now =
        if a = d then ⟨false, 0, 0⟩ else ⟨true, a, s.xr b⟩) ∧
      (t.counter s.onController d).linkAt s.cycle = c.linkAt s.cycle ∧
      (∀ m, m ≠ d → t.counter s.onController m = s.counter s.onController m) ∧ t.strand = s.strand ∧ t.mod = s.mod)

/-- R75, R107: when a `KADD` of a core's strand becomes visible: to the same strand one cycle later, to the core's other strands and
engines two cycles later, and not before. -/
def Sys2Proof.Claims.CounterVisibility : Prop :=
  ∀ (s : State) (d a : Fin 64) (other : Nat), s.who ≠ .c → s.sharedGroup = none →
    let c := s.core.k[d]
    settled s c → c.count.toNat + (s.xr a).toNat ≤ ceilingOf s d →
    other ≠ agentOf s s.who → other / 16 = agentOf s s.who / 16 →
    ∃ t, exec (.kadd d a) s = .next t ∧
      Counter.visible t.core.k[d] (agentOf s s.who) (s.cycle + 1) = c.count.toNat + (s.xr a).toNat ∧
      Counter.visible t.core.k[d] other (s.cycle + 1) = c.count.toNat ∧
      Counter.visible t.core.k[d] other (s.cycle + 2) = c.count.toNat + (s.xr a).toNat

/-- Local counters: ceilings, waits, links, and when an increment becomes visible: `LocalCounters` and `CounterVisibility`. -/
def Obligations.LocalCountersAndVisibility : Prop := LocalCounters ∧ CounterVisibility

/-- R101 to R103, R290, R353, R354: memory counters. `CADD` adds indivisibly and holds the strand for its response; past 2^64 − 1 the
counter is unchanged and `COUNTER_OVERFLOW` is taken with the response; the waiters it satisfies are released. `CREAD` answers the value. A
satisfied `CWAIT` holds the strand; an unsatisfied one registers one waiter and ends A's part, or stops the controller; a full waiter list
raises `WAITER_FULL`. -/
def Obligations.MemoryCounters : Prop :=
  ∀ (s : State) (c : Fin 8) (d a b : Fin 64) (n : Fin 16) (pl : Place), s.part = some n → Memory.wf s.mod.mem = true →
    poisonedIn s.mod.poison pl.pa 8 = false →
    let old := natOfBytes (s.mod.mem.read pl.pa 8)
    let v := (s.xr b).toNat
    (s.place accCounterAdd (s.xr a) 8 = .ok pl → old + v < 2 ^ 64 → ∃ t, exec (.cadd c a b) s = .next t ∧
      Stored s.mod.mem t.mod.mem pl.pa (bytesOfNat 8 (old + v)) ∧ t.strand.hold = some (holding s .flagsOnly none) ∧
      t.strand.x = s.strand.x ∧ t.strand.flags = s.strand.flags ∧ t.core.scratch = s.core.scratch ∧
      (v ≠ 0 → t.mod.waiters = s.mod.waiters.filter fun w =>
        !(w.part = n && w.pa = pl.pa && decide (w.target.toNat ≤ old + v)))) ∧
    (s.place accCounterAdd (s.xr a) 8 = .ok pl → 2 ^ 64 ≤ old + v → ∃ t, exec (.cadd c a b) s = .next t ∧ t.mod = s.mod ∧
      t.strand.x = s.strand.x ∧ t.strand.hold = some (holding s .flagsOnly (some ⟨0x19, s.xr a, s.xr b, 0, false⟩))) ∧
    (s.place accCounterRead (s.xr a) 8 = .ok pl → ∃ u, Cached s u ∧ exec (.cread d a c) s =
      .next (responds u (intoX d (BitVec.ofNat 64 old)))) ∧
    (s.place accCounterRead (s.xr a) 8 = .ok pl → contDescOk s.onController s.unit.w[d] = true →
      (v ≤ old → ∃ u, Cached s u ∧ exec (.cwait d a b) s =
        .next (u.onStrand fun f => { f with hold := some (holding s .flagsOnly none) })) ∧
      (old < v → s.mod.parts[n].quota ≤ waitersAt s.mod pl.home (homeStack pl.pa) n → ∃ t, exec (.cwait d a b) s = .next t ∧
        t.mod = s.mod ∧ t.strand.hold = some (holding s .flagsOnly (some ⟨0x1A, s.xr a, s.xr b, 0, false⟩))) ∧
      (old < v → waitersAt s.mod pl.home (homeStack pl.pa) n < s.mod.parts[n].quota → ∃ t w, exec (.cwait d a b) s = .next t ∧
        t.mod.waiters = s.mod.waiters ++ [w] ∧ w.pa = pl.pa ∧ w.target = s.xr b ∧ w.part = n ∧ t.mod.mem = s.mod.mem ∧
        t.strand.run = (if s.who = .c then .counterWait pl.pa (s.xr b) (contDesc s.unit.w[d]).scope else .ended))) ∧
    (s.place accCounterRead (s.xr a) 8 = .ok pl → contDescOk s.onController s.unit.w[d] = false → canTrap s →
      ∃ t, exec (.cwait d a b) s = .next t ∧
        Trapped s t 0x07 (BitVec.ofNat 64 d.val) ((s.unit.w[d]).extractLsb' 0 64))

/-- R112, R113, R172, R173: a speculation region opens after its checks, and the cached lines of its shadow way go; the strand's writes in it go to the shadow lines, which its own
reads see and the primary bank does not; a commit makes exactly the lines written current, an abort discards them. That the forms do the
same on the controller, over its data RAM, is the model's choice (log entry 35). -/
def Obligations.SpeculationRegions : Prop :=
  ∀ (s : State) (d a b : Fin 64) (o : BitVec 13),
    let base := (s.xr a).toNat
    let len := (s.xr b).toNat
    (base % 128 = 0 → len ≠ 0 → len % 128 = 0 → base + len ≤ s.spSize → len ≤ 262144 → s.strand.spec = false → s.strand.copyBack = none →
      exec (.specBegin a b) s = .next (State.onStrand
        { s with core := { s.core with cache := s.core.cache.filter fun e => e.1 != if s.who = .x then 15 else 14 } }
        fun f => { f with spec := true, region := some ⟨base, len, [], [], []⟩ })) ∧
    (canTrap s → (base % 128 ≠ 0 ∨ len = 0 ∨ len % 128 ≠ 0) → ∃ t, exec (.specBegin a b) s = .next t ∧
      Trapped s t 0x12 (s.xr a) (BitVec.ofNat 64 s.grp.iaddr)) ∧
    (canTrap s → base % 128 = 0 → len ≠ 0 → len % 128 = 0 → s.spSize < base + len → ∃ t, exec (.specBegin a b) s = .next t ∧
      Trapped s t 0x14 (s.xr a) (BitVec.ofNat 64 s.grp.iaddr)) ∧
    (base % 128 = 0 → len ≠ 0 → len % 128 = 0 → base + len ≤ s.spSize → len ≤ 262144 → s.strand.spec = false →
      s.strand.copyBack.isSome = true → exec (.specBegin a b) s = .next (s.verdict .blocked)) ∧
    (canTrap s → base % 128 = 0 → len ≠ 0 → len % 128 = 0 → base + len ≤ s.spSize → (262144 < len ∨ s.strand.spec = true) →
      ∃ t, exec (.specBegin a b) s = .next t ∧ Trapped s t 0x39 (s.xr b) (s.xr a)) ∧
    (∀ r, s.strand.region = some r → Memory.wf r.data = true → Memory.wf s.spMem = true →
      (∃ t, exec .specCommit s = .next t ∧ t.strand.spec = false ∧ t.strand.region = none ∧ t.strand.x = s.strand.x ∧ t.mod = s.mod ∧
        ∀ y, t.spMem.get y = if y / 128 ∈ r.lines then r.data.get y else s.spMem.get y) ∧
      (let at_ := (addrM s a o).toNat
       at_ % 8 = 0 → at_ + 8 ≤ s.spSize → s.couples at_ 8 true = false → s.couples at_ 8 false = false → r.covers (at_ / 128) = true →
        s.spPoison = [] → r.poison = [] →
        ∃ t, exec (.stsp d a o) s = .next t ∧ t.spMem = s.spMem ∧ t.strand.x = s.strand.x ∧ t.mod = s.mod ∧
          GivesX (.ldsp d a o) t d (s.xr d) 6)) ∧
    exec .specAbort s = .next (s.onStrand fun f => { f with spec := false, region := none }) ∧
    (s.strand.region = none → exec .specCommit s = .next s)

/-- R156 to R160: a nest whose descriptor and body pass their checks starts at its first group with its counters at zero, and the stage
predicates 1, 0, …; with a product of 0 the strand goes on behind the body, and nothing else changes; a bad descriptor traps, and so does
a bad body. That the descriptor is checked before the body is the model's choice (log entry 31). -/
def Obligations.LoopNests : Prop :=
  ∀ (s : State) (d : Fin 64) (n : Fin 32) (st : Fin 8),
    (∀ body, nestDescOk (s.nestDesc d) (n.val + 1) 0 = true → s.fetchBody (n.val + 1) s.grp.npc = .ok body →
      (nestTrips (s.nestDesc d) = 0 → exec (.nest d n) s =
        .next (goesTo s (s.grp.npc + 4 * (body.map List.length).sum))) ∧
      (nestTrips (s.nestDesc d) ≠ 0 → exec (.nest d n) s = .next (s.onStrand fun f => { f with
        pc := s.grp.npc
        nest := some ⟨s.nestDesc d, body, s.grp.npc, [0, 0, 0, 0, 0, 0], 0, nestTrips (s.nestDesc d), 0, false, 0⟩ }))) ∧
    (∀ body, nestDescOk (s.nestDesc d) (n.val + 1) st.val = true → s.fetchBody (n.val + 1) s.grp.npc = .ok body →
      nestTrips (s.nestDesc d) ≠ 0 → ∃ t, exec (.nestR d n st) s = .next t ∧ t.strand.pc = s.grp.npc ∧
      t.strand.nest = some ⟨s.nestDesc d, body, s.grp.npc, [0, 0, 0, 0, 0, 0], 0, nestTrips (s.nestDesc d), st.val, true, 0⟩ ∧
      (∀ j : Fin 16, 8 ≤ j.val → j.val < 8 + st.val → t.pr j = decide (j.val = 8)) ∧
      (∀ j : Fin 16, j.val < 8 ∨ 8 + st.val ≤ j.val → t.pr j = s.pr j) ∧ t.strand.x = s.strand.x ∧ t.strand.v = s.strand.v ∧ t.mod = s.mod) ∧
    (∀ body, nestDescOk (s.nestDesc d) (n.val + 1) st.val = true → s.fetchBody (n.val + 1) s.grp.npc = .ok body →
      nestTrips (s.nestDesc d) = 0 → exec (.nestR d n st) s = .next (goesTo s (s.grp.npc + 4 * (body.map List.length).sum))) ∧
    (canTrap s →
      (nestDescOk (s.nestDesc d) (n.val + 1) 0 = false → ∃ t, exec (.nest d n) s = .next t ∧
        Trapped s t 0x07 (BitVec.ofNat 64 d.val) ((s.nestDesc d).extractLsb' 0 64)) ∧
      (nestDescOk (s.nestDesc d) (n.val + 1) st.val = false → ∃ t, exec (.nestR d n st) s = .next t ∧
        Trapped s t 0x07 (BitVec.ofNat 64 d.val) ((s.nestDesc d).extractLsb' 0 64)) ∧
      (∀ (c : Nat) (tval orig : Word), c < 256 → s.fetchBody (n.val + 1) s.grp.npc = .error (c, tval, orig) →
        (nestDescOk (s.nestDesc d) (n.val + 1) 0 = true → ∃ t, exec (.nest d n) s = .next t ∧ Trapped s t c tval orig) ∧
        (nestDescOk (s.nestDesc d) (n.val + 1) st.val = true → ∃ t, exec (.nestR d n st) s = .next t ∧ Trapped s t c tval orig)))

/-- R57 to R59, R192: the issue forms put one command in its queue, with the template's image or the image with a quarter or a halfword
replaced; `WGO.NB` says in its predicate whether it did, at a latency of 1 that is the model's choice (log entry 27); a sticky patch is
also written into the template; a full queue blocks. -/
def Obligations.WideIssue : Prop :=
  ∀ (s : State) (d a : Fin 64) (q : Fin 8) (p : Fin 16) (k : Fin 32) (v : BitVec 16), s.strand.results = [] → s.strand.replays = [] →
    (Room s (formImage s.unit d []) → ∃ t, exec (.wgo d) s = .next t ∧ Issued s t d (pairHalf s.unit d) ∧ t.unit = s.unit) ∧
    (¬Room s (formImage s.unit d []) → exec (.wgo d) s = .next (s.verdict .blocked)) ∧
    (Room s (formImage s.unit d []) → ∃ t, exec (.wgoNb d p) s = .next (writesP t p true 1) ∧ t.strand.p = s.strand.p ∧
      t.strand.prb = s.strand.prb ∧ Issued s t d (pairHalf s.unit d) ∧ t.unit = s.unit) ∧
    (¬Room s (formImage s.unit d []) → exec (.wgoNb d p) s = .next (writesP s p false 1)) ∧
    (∀ img, wideOf s (.wpatch d a q) = some (d, img, 4 * q.val) → Room s img → ∃ t, exec (.wpatch d a q) s = .next t ∧
      Issued s t d (fun h => if h / 4 = q.val then (s.xr a).toNat / 2 ^ (16 * (h % 4)) % 2 ^ 16 else pairHalf s.unit d h) ∧ t.unit = s.unit) ∧
    (∀ img r, s.grp.patches = [] → wideOf s (.pw d k v) = some (d, img, r) → Room s img →
      (∃ t, exec (.pw d k v) s = .next t ∧ Issued s t d (fun h => if h = k.val then v.toNat else pairHalf s.unit d h) ∧ t.unit = s.unit) ∧
      (d.val + 1 < 64 → ∃ t, exec (.pwS d k v) s = .next t ∧ Issued s t d (fun h => if h = k.val then v.toNat else pairHalf s.unit d h) ∧
        (∀ h, h < 32 → pairHalf t.unit d h = if h = k.val then v.toNat else pairHalf s.unit d h)))

namespace Sys2Proof.Claims

/-- The definitions of a ring that commands do not use yet stand in the order of their cycles, none more than two cycles ahead (R222). -/
def inOrder (r : Ring) (now : Nat) : Prop := (r.changes.map (·.1)).Pairwise (· ≤ ·) ∧ ∀ d, d ∈ r.changes → d.1 ≤ now + 2

/-- A ring word with D = 0, its other fields as they were. -/
def undefinedRing (w : Word) : Word := w &&& ~~~(BitVec.ofNat 64 (2 ^ 31))

end Sys2Proof.Claims

/-- R222: `RINGDEF` sets D, first, cnt and the pointers, `RINGDEF.U` clears D; commands that claim in the second cycle from the issue or later
use the new definition, and earlier ones what they would have used without it, whether the definition before stands or is itself still to
come. Claims made keep their tiles, and the claims of commands move the pointers of the definition that they use. -/
def Obligations.RingDefinitions : Prop :=
  ∀ (s : State) (r : Fin 8) (f : Fin 64) (n : Fin 16), inOrder s.core.ring[r] s.cycle →
    (∀ now, s.cycle ≤ now → inOrder s.core.ring[r] now) ∧
    (∀ dest, inOrder ((s.core.ring[r]).claimed s.cycle dest) s.cycle ∧
      ((s.core.ring[r]).claimed s.cycle dest).at s.cycle = ringNext ((s.core.ring[r]).at s.cycle) dest) ∧
    (∃ t, exec (.ringdef r f n) s = .next t ∧ t.core.tile = s.core.tile ∧ t.core.queue = s.core.queue ∧ t.strand = s.strand ∧ t.mod = s.mod ∧
      (∀ j, j ≠ r → t.core.ring[j] = s.core.ring[j]) ∧
      inOrder t.core.ring[r] s.cycle ∧
      (∀ now, s.cycle + 2 ≤ now → (t.core.ring[r]).at now = (t.core.ring[r]).latest) ∧
      (∀ now, s.cycle ≤ now → now < s.cycle + 2 → (t.core.ring[r]).at now = (s.core.ring[r]).at now) ∧
      ringD (t.core.ring[r]).latest = true ∧ ringFirst (t.core.ring[r]).latest = f.val ∧ ringCount (t.core.ring[r]).latest = n.val + 1 ∧
      ringHead (t.core.ring[r]).latest = 0 ∧ ringTail (t.core.ring[r]).latest = 0) ∧
    (∃ t, exec (.ringdefU r) s = .next t ∧ t.core.tile = s.core.tile ∧ t.core.queue = s.core.queue ∧ t.strand = s.strand ∧ t.mod = s.mod ∧
      (∀ j, j ≠ r → t.core.ring[j] = s.core.ring[j]) ∧ inOrder t.core.ring[r] s.cycle ∧
      ringD (t.core.ring[r]).latest = false ∧ (t.core.ring[r]).latest = undefinedRing (s.core.ring[r]).latest ∧
      (∀ now, s.cycle + 2 ≤ now → (t.core.ring[r]).at now = (t.core.ring[r]).latest) ∧
      (∀ now, s.cycle ≤ now → now < s.cycle + 2 → (t.core.ring[r]).at now = (s.core.ring[r]).at now))

/-- R223 to R225, R182: `RINGPOP` empties the head slot's tile and advances head, or waits; `RINGSTAT` and `TFE` read; `TDEF` defines an
unclaimed tile and refuses a bad definition; `TFE` sets or clears the full bit; a free dormant context takes the oldest request. That
`RINGPOP` and `RINGSTAT` use a new definition at once is the model's choice (log entry 38). -/
def Obligations.RingsAndTiles : Prop :=
  ∀ (s : State) (r : Fin 8) (d t a : Fin 64),
    let w := (s.core.ring[r]).latest
    let head : Fin 64 := Fin.ofNat 64 (ringFirst w + ringHead w)
    let tile := s.core.tile[head]
    (ringD w = true → tileD tile = true → tileF tile = true → tileC tile = false → ∃ u, exec (.ringpop r) s = .next u ∧
      u.core.tile[head] = tile &&& ~~~(BitVec.ofNat 64 (2 ^ 63)) ∧ (∀ j, j ≠ head → u.core.tile[j] = s.core.tile[j]) ∧
      ringHead (u.core.ring[r]).latest = (ringHead w + 1) % ringCount w ∧ ringTail (u.core.ring[r]).latest = ringTail w ∧
      ringFirst (u.core.ring[r]).latest = ringFirst w ∧ ringCount (u.core.ring[r]).latest = ringCount w ∧ u.strand = s.strand ∧ u.mod = s.mod) ∧
    (ringD w = true → tileD tile = true → (tileF tile = false ∨ tileC tile = true) → exec (.ringpop r) s = .next (s.verdict .blocked)) ∧
    ((ringD w = false ∨ tileD tile = false) → canTrap s → ∃ u, exec (.ringpop r) s = .next u ∧
      Trapped s u 0x15 (BitVec.ofNat 64 r.val) (BitVec.ofNat 64 s.grp.iaddr)) ∧
    GivesX (.ringstat d r) s d w 2 ∧ GivesX (.tfeRd d t) s d s.core.tile[t] 2 ∧
    (tileC s.core.tile[t] = false → (s.xr a).toNat / 2 ^ 47 % 2 ^ 15 = 0 → (s.xr a).toNat / 2 ^ 22 % 2 ^ 10 = 0 → (s.xr a).toNat % 128 = 0 →
      (tileD (s.xr a) = true → ∀ j, j ≠ t → tileD s.core.tile[j] = true → ¬overlap (s.xr a) s.core.tile[j]) →
      exec (.tdef t a) s = .next { s with core := { s.core with tile := s.core.tile.set t (s.xr a) } }) ∧
    (tileC s.core.tile[t] = true → exec (.tdef t a) s = .next (s.verdict .blocked)) ∧
    (tileC s.core.tile[t] = false → canTrap s → ((s.xr a).toNat / 2 ^ 47 % 2 ^ 15 ≠ 0 ∨ (s.xr a).toNat / 2 ^ 22 % 2 ^ 10 ≠ 0 ∨
        (s.xr a).toNat % 128 ≠ 0 ∨ (tileD (s.xr a) = true ∧ ∃ j, j ≠ t ∧ tileD s.core.tile[j] = true ∧ overlap (s.xr a) s.core.tile[j])) →
      ∃ u, exec (.tdef t a) s = .next u ∧ Trapped s u 0x15 (BitVec.ofNat 64 t.val) (BitVec.ofNat 64 s.grp.iaddr)) ∧
    (tileD s.core.tile[t] = true → tileC s.core.tile[t] = false →
      exec (.tfeSet d t) s = .next (writesX { s with core := { s.core with
        tile := s.core.tile.set t (s.core.tile[t] ||| BitVec.ofNat 64 (2 ^ 63)) } } d s.core.tile[t] 2) ∧
      exec (.tfeClr d t) s = .next (writesX { s with core := { s.core with
        tile := s.core.tile.set t (s.core.tile[t] &&& ~~~(BitVec.ofNat 64 (2 ^ 63))) } } d s.core.tile[t] 2)) ∧
    (∀ q qs (c : Fin 5), s.core.starts = q :: qs → s.core.halt = none →
      (∃ k, s.core.task = some k ∧ k.readyAt ≤ s.cycle ∧ (k.forced = false ∨ k.ending.isSome = true)) → c ≠ 0 →
      (s.core.strand (.t c)).run = .idle → (∀ e : Fin 5, e ≠ 0 → e < c → (s.core.strand (.t e)).run ≠ .idle) →
      ∃ u, exec .dormantContextStart s = .next u ∧ u.core.starts = qs ∧ (u.core.strand (.t c)).run = .running ∧
        (u.core.strand (.t c)).pc = q.handler ∧ (u.core.strand (.t c)).x[(1 : Fin 64)] = q.x1 ∧
        (u.core.strand (.t c)).x[(2 : Fin 64)] = q.x2 ∧ (u.core.strand (.t c)).x[(3 : Fin 64)] = q.x3 ∧
        (∀ e : Fin 5, e ≠ c → u.core.strand (.t e) = s.core.strand (.t e)) ∧ u.core.a = s.core.a ∧ u.core.x = s.core.x ∧ u.mod = s.mod)

/-- R196, R226 to R229, R267: `EQSTAT` reads the status word and may clear its flags; `ECANCEL` resumes a frozen queue, drops its oldest
faulted command, or drops all its commands and releases their tiles; `RCFENCE` removes cached records, and `RECLD` installs one and answers
its bytes 8 to 15 with the response. -/
def Obligations.EngineControl : Prop :=
  ∀ (s : State) (d a : Fin 64) (q : Fin 8), s.who ≠ .c →
    let v := s.core.queue[q]
    GivesX (.eqstat d q) s d v.status 2 ∧
    exec (.eqstatC d q) s = .next (writesX { s with core := { s.core with
      queue := s.core.queue.set q { v with flags := 0, range := false, nan := false } } } d v.status 2) ∧
    (v.frozen = true → ∃ t, exec (.ecancelRes q) s = .next t ∧ (t.core.queue[q]).frozen = false ∧
      (∀ c, c ∈ (t.core.queue[q]).waiting ++ (t.core.queue[q]).started → c.fault = none) ∧
      (t.core.queue[q]).waiting.map (·.image) = v.waiting.map (·.image) ∧
      (t.core.queue[q]).started.map (·.image) = v.started.map (·.image) ∧ t.core.tile = s.core.tile ∧ t.strand = s.strand ∧ t.mod = s.mod) ∧
    (v.frozen = false → exec (.ecancelRes q) s = .next s) ∧
    (∀ c, v.frozen = true → v.oldestFault = some c → ∃ t, exec (.ecancelOne q) s = .next t ∧
      (t.core.queue[q]).waiting = v.waiting.filter (fun e => e.seq != c.seq) ∧
      (t.core.queue[q]).started = v.started.filter (fun e => e.seq != c.seq) ∧ (t.core.queue[q]).last = 0x0C ∧
      ((t.core.queue[q]).frozen = true ↔ ∃ e, e ∈ (t.core.queue[q]).waiting ++ (t.core.queue[q]).started ∧ e.fault ≠ none) ∧
      t.strand = s.strand ∧ t.mod = s.mod) ∧
    (∃ t, exec (.ecancelAll q) s = .next t ∧ (t.core.queue[q]).waiting = [] ∧ (t.core.queue[q]).started = [] ∧
      (t.core.queue[q]).frozen = false ∧ (∀ p, p ≠ q → t.core.queue[p] = s.core.queue[p]) ∧
      (∀ c l, c ∈ v.waiting ++ v.started → l ∈ c.claims → tileC t.core.tile[l.tile] = false) ∧
      (∀ j : Fin 64, tileF t.core.tile[j] = tileF s.core.tile[j]) ∧ t.strand = s.strand ∧ t.mod = s.mod) ∧
    ((s.xr a).toNat % 128 = 0 → s.strand.posted = [] → exec (.rcfence a) s = .next { s with ctl := { s.ctl with
      records := s.ctl.records.filter fun e => s.xr a != 0 && e.1 != (s.xr a).toNat } }) ∧
    (∀ pl, s.place accRead (s.xr a) 128 = .ok pl → poisonedIn s.mod.poison pl.pa 128 = false →
      (parseRec (physRead s.mod pl.pa 128)).ok = true → ∃ t, exec (.recld d a) s = .next t ∧
        t.strand.hold = some (holding s (.scalar d (BitVec.ofNat 64 (natOfBytes (((physRead s.mod pl.pa 128).drop 8).take 8)))) none) ∧
        t.ctl.records.find? (fun e => e.1 = (s.xr a).toNat) = some ((s.xr a).toNat, physRead s.mod pl.pa 128) ∧
        t.mod.mem = s.mod.mem ∧ t.strand.x = s.strand.x)

/-! ## Vector instructions -/

namespace Sys2Proof.Claims

/-- Lane j of width w of a register. -/
def lane (w : Nat) (v : VReg) (j : Nat) : Nat := v.toNat / 2 ^ (w * j) % 2 ^ w

/-- Element j of a register, as a format reads it: a 6-bit format has bits [5:0] of its byte (R43). -/
def elem (t : ElemType) (v : VReg) (j : Nat) : Nat := lane t.width v j % 2 ^ t.bits

/-- A byte of elements of type t: one of a 6-bit format has bits [7:6] zero (R43). -/
def clean (t : ElemType) (b : Nat) : Nat := if t.bits = 6 then b % 64 else b

/-- Whether lane j of width w is written: bit n of the mask top, n its first nibble (R123). -/
def active (s : State) (w j : Nat) : Bool := s.top.getLsbD (j * (w / 4))

/-- The latency of a vector result: four times as long on T (R75, R121). -/
def vecLat (s : State) (l : Nat) : Nat := if isTStrand s.who then 4 * l else l

/-- The register group a vector instruction writes, lane by lane: it puts one result in flight, whose write gives lane j of register d + k the
value (f k j).1 where `on j`, and leaves every other lane, every other vector register and the scalar registers as they are; the flags it
raises are those of the lanes written. Nothing else of the state changes. -/
def LanesOf (i : Instr) (s : State) (d : Fin 64) (g w l : Nat) (on : Nat → Bool) (f : Nat → Nat → Nat × Flags) : Prop :=
  ∃ e, exec i s = .next (inFlight s e (((List.range g).flatMap fun k => (List.range (4096 / w)).map fun j =>
      if on j then (f k j).2 else 0).foldl (· ||| ·) 0) (vecLat s l)) ∧
    (∀ k j, k < g → j < 4096 / w → lane w ((s.applyEffect s.who e).vr (d + Fin.ofNat 64 k)) j =
      if on j then (f k j).1 % 2 ^ w else lane w (s.vr (d + Fin.ofNat 64 k)) j) ∧
    (∀ r : Fin 64, (∀ k, k < g → r ≠ physV s.who s.strand (d + Fin.ofNat 64 k)) →
      (s.applyEffect s.who e).strand.v[r] = s.strand.v[r]) ∧
    (s.applyEffect s.who e).strand.x = s.strand.x ∧ (s.applyEffect s.who e).mod = s.mod

/-- One register of elements of type t under the mask. -/
def Each (i : Instr) (s : State) (d : Fin 64) (t : ElemType) (l : Nat) (f : Nat → Nat × Flags) : Prop :=
  LanesOf i s d 1 t.width l (active s t.width) fun _ j => f j

/-- A form of two sources, element by element. -/
def Two (i : Instr) (s : State) (d a b : Fin 64) (t : ElemType) (l : Nat) (f : Nat → Nat → Nat × Flags) : Prop :=
  Each i s d t l fun j => f (elem t (s.vr a) j) (elem t (s.vr b) j)

/-- The whole of a register is written, whatever the mask. -/
def WholeOf (i : Instr) (s : State) (d : Fin 64) (v : VReg) (fl : Flags) (l : Nat) : Prop :=
  exec i s = .next (inFlight s (.vec [(physV s.who s.strand d, v)] (BitVec.allOnes 1024)) fl (vecLat s l))

/-- Ones where a relation holds. -/
def onesIf (t : ElemType) (r : Bool × Flags) : Nat × Flags := (if r.1 then 2 ^ t.width - 1 else 0, r.2)

/-- The stochastic word of element n (R126, R152): the seed, the work identifier, the stream and the position from x62. -/
def streamOf (s : State) (n : Nat) : Nat :=
  srWord s.unit.seed s.workId.1 ((s.xr 62).toNat / 2 ^ 48 % 2 ^ 16) (((s.xr 62).toNat % 2 ^ 34 + n) % 2 ^ 34)

/-- Node j of level l of the pairwise tree of R147, in binary32. -/
def treeNode (leaf : Nat → Nat × Flags) : Nat → Nat → Nat × Flags
  | 0, j => leaf j
  | l + 1, j =>
    let a := treeNode leaf l (2 * j)
    let b := treeNode leaf l (2 * j + 1)
    let r := addElem .f32 a.1 b.1
    (r.1, r.2 ||| a.2 ||| b.2)

/-- The running value of R148 over the active elements before n, with the flags of its steps. -/
def running (s : State) (t : ElemType) (op : Nat) (v : VReg) (n : Nat) : Nat × Flags :=
  ((List.range n).filter (active s t.width)).foldl (fun acc i =>
    let r := combine t op acc.1 (elem t v i)
    (r.1, acc.2 ||| r.2)) (identityOf t op, 0)

end Sys2Proof.Claims

/-- R132 to R134, R136, R139: sums, differences, products, minima, maxima, signs, fused forms and compares, element by element under the
mask, at their latencies. `addElem` and the other element functions wrap integers and round floating point once. -/
def Sys2Proof.Claims.VectorArithmetic : Prop :=
  ∀ (s : State) (d a b : Fin 64) (t : ElemType),
    Two (.vadd d a b t) s d a b t 2 (addElem t) ∧ Two (.vsub d a b t) s d a b t 2 (subElem t) ∧
    Two (.vmul d a b t) s d a b t 4 (mulElem t) ∧ Two (.vmin d a b t) s d a b t 2 (pickElem t false) ∧
    Two (.vmax d a b t) s d a b t 2 (pickElem t true) ∧ Two (.vamax d a b t) s d a b t 2 (amaxElem t) ∧
    Each (.vabs d a t) s d t 2 (fun j => absElem t (elem t (s.vr a) j)) ∧
    Each (.vneg d a t) s d t 2 (fun j => negElem t (elem t (s.vr a) j)) ∧
    Each (.vfma d a b t) s d t 4 (fun j => fmaElem t false (elem t (s.vr a) j) (elem t (s.vr b) j) (elem t (s.vr d) j)) ∧
    Each (.vfms d a b t) s d t 4 (fun j => fmaElem t true (elem t (s.vr a) j) (elem t (s.vr b) j) (elem t (s.vr d) j)) ∧
    Two (.vcmpEq d a b t) s d a b t 2 (fun x y => onesIf t (cmpElem t .eq x y)) ∧
    Two (.vcmpNe d a b t) s d a b t 2 (fun x y => onesIf t (cmpElem t .ne x y)) ∧
    Two (.vcmpLt d a b t) s d a b t 2 (fun x y => onesIf t (cmpElem t .lt x y)) ∧
    Two (.vcmpLe d a b t) s d a b t 2 (fun x y => onesIf t (cmpElem t .le x y)) ∧
    Two (.vcmpGt d a b t) s d a b t 2 (fun x y => onesIf t (cmpElem t .gt x y)) ∧
    Two (.vcmpGe d a b t) s d a b t 2 (fun x y => onesIf t (cmpElem t .ge x y)) ∧
    Two (.vcmpUn d a b t) s d a b t 2 (fun x y => onesIf t (cmpElem t .un x y))

/-- R128, R131, R135: bitwise logic, shifts by elements, moves, broadcasts, insertion and extraction of one element. -/
def Sys2Proof.Claims.VectorLogicAndMoves : Prop :=
  ∀ (s : State) (d a b : Fin 64) (t : ElemType),
    Two (.vand d a b t) s d a b t 2 (fun x y => (x &&& y, 0)) ∧ Two (.vor d a b t) s d a b t 2 (fun x y => (x ||| y, 0)) ∧
    Two (.vxor d a b t) s d a b t 2 (fun x y => (x ^^^ y, 0)) ∧
    Two (.vandn d a b t) s d a b t 2 (fun x y => (x - (x &&& y), 0)) ∧
    Two (.vshl d a b t) s d a b t 2 (fun x y => (x * 2 ^ y, 0)) ∧
    Two (.vshr d a b t) s d a b t 2 (fun x y => (x / 2 ^ y, 0)) ∧
    Two (.vsra d a b t) s d a b t 2 (fun x y => (unsignedOf t.width (signedOf t.width x / (2 ^ y : Nat)), 0)) ∧
    Each (.vmov d a t) s d t 2 (fun j => (elem t (s.vr a) j, 0)) ∧
    Each (.vbcst d a t) s d t 2 (fun _ => ((s.xr a).toNat % 2 ^ t.bits, 0)) ∧
    LanesOf (.vins d a b t) s d 1 t.width 2 (fun j => active s t.width j && decide (j = (s.xr b).toNat % t.count))
      (fun _ _ => ((s.xr a).toNat % 2 ^ t.bits, 0)) ∧
    GivesX (.vextr d a b t) s d
      (let e := elem t (s.vr a) ((s.xr b).toNat % t.count)
       BitVec.ofInt 64 (if t.isSigned && decide (2 ^ (t.width - 1) ≤ e) then (e : Int) - 2 ^ t.width else e)) (vecLat s 2)

/-- R137: `VSEL` takes v[a] where the old vd has ones and v[b] where it has zeros, bit by bit, for each active element, on X and on T (of a 6-bit element, bits [7:6] of its byte
are zero). -/
def Obligations.VectorSelect : Prop :=
  ∀ (s : State) (d a b : Fin 64) (t : ElemType),
    ∃ e, exec (.vsel d a b t) s = .next (inFlight s e 0 (vecLat s 2)) ∧
      ∀ n, n < 4096 → ((s.applyEffect s.who e).vr d).getLsbD n =
        if active s t.width (n / t.width) then decide (n % t.width < t.bits) &&
          (((s.vr a).getLsbD n && (s.vr d).getLsbD n) || ((s.vr b).getLsbD n && !(s.vr d).getLsbD n))
        else (s.vr d).getLsbD n

/-- R145: `VSLIDE` slides by one element: element j of vd is element j + 1 of v[a], and the last one is element 0 of v[b]. -/
def Obligations.VectorSlide : Prop :=
  ∀ (s : State) (d a b : Fin 64) (t : ElemType),
    Each (.vslide d a b t) s d t 3 fun j =>
      (if j < t.count - 1 then elem t (s.vr a) (j + 1) else elem t (s.vr b) 0, 0)

/-- R138 to R144, R151: widening arithmetic, dot products, conversions, permutation, zip and unzip, table lookup: the source elements and the
places of their results. The order in which `VDOT4` adds special values is the model's choice (log entry 150). -/
def Obligations.VectorShapes : Prop :=
  ∀ (s : State) (d a b : Fin 64) (t e : ElemType) (sat : Bool) (r : Rm),
    let wideLanes (i : Instr) (f : Nat → Nat → Nat → Nat × Flags) : Prop :=
      LanesOf i s d 2 t.wide.width 4 (active s t.wide.width) fun k j =>
        f (elem t (s.vr a) (2 * j + k)) (elem t (s.vr b) (2 * j + k)) (elem t.wide (s.vr (d + Fin.ofNat 64 k)) j)
    (t.widening = true →
      wideLanes (.vwmul d a b t) (fun x y _ => if t.isInt then (unsignedOf t.wide.width (intOf t x * intOf t y), 0)
        else roundExact .f32 .rne (exactMul (decodeElem t x) (decodeElem t y))) ∧
      wideLanes (.vwadd d a b t) (fun x y _ => if t.isInt then (unsignedOf t.wide.width (intOf t x + intOf t y), 0)
        else roundExact .f32 .rne (exactAdd .rne (decodeElem t x) (decodeElem t y))) ∧
      wideLanes (.vwfma d a b t) (fun x y z => if t.isInt then (unsignedOf t.wide.width (intOf t.wide z + intOf t x * intOf t y), 0)
        else roundExact .f32 .rne (exactFma .rne (decodeElem t x) (decodeElem t y) (decodeElem .f32 z)))) ∧
    (t.dot = true → LanesOf (.vdot4 d a b t) s d 1 32 4 (active s 32) fun _ j =>
      dotLane t (elem .i32 (s.vr d) j) ((List.range 4).map fun q => elem t (s.vr a) (4 * j + q))
        ((List.range 4).map fun q => elem t (s.vr b) (4 * j + q))) ∧
    (t.width ≤ e.width → e.width ≤ 4 * t.width → LanesOf (.vcvt d a sat e t r) s d (e.width / t.width) e.width 3 (active s e.width) fun k j =>
      let n := e.width / t.width * j + k
      convertElem t e r sat (if r = .sr then streamOf s n else 0) (elem t (s.vr a) n)) ∧
    (e.width ≤ t.width → t.width ≤ 4 * e.width → LanesOf (.vnarrow d a sat e t r) s d 1 e.width 3 (active s e.width) fun _ j =>
      let g := t.width / e.width
      convertElem t e r sat (if r = .sr then streamOf s j else 0) (elem t (s.vr (a + Fin.ofNat 64 (j % g))) (j / g))) ∧
    Each (.vperm d a b t) s d t 3 (fun j =>
      let g := min (2 ^ t.bits) t.count
      (elem t (s.vr a) (g * (j / g) + elem t (s.vr b) j % g), 0)) ∧
    LanesOf (.vzip d a b t) s d 2 t.width 3 (active s t.width) (fun k j =>
      let n := k * t.count + j
      (if n % 2 = 0 then elem t (s.vr a) (n / 2) else elem t (s.vr b) (n / 2), 0)) ∧
    LanesOf (.vunzip d a b t) s d 2 t.width 3 (active s t.width) (fun k j =>
      let n := 2 * j + k
      (if n < t.count then elem t (s.vr a) n else elem t (s.vr b) (n - t.count), 0)) ∧
    (t.index = true → LanesOf (.vlut d a t) s d (16 / t.width) 16 5 (active s 16) fun k j =>
      (lane 16 s.unit.lut (elem t (s.vr a) (16 / t.width * j + k)), 0))

/-- R146 to R152: reductions over the active elements (an integer sum exact, a floating-point sum by the fixed pairwise tree), scans, special
functions, the lookup table's load, and the stream words of `VRNG`. That a minimum, a maximum and a scan start from the identity of their
operation is the model's choice (log entry 41). -/
def Obligations.VectorReductions : Prop :=
  ∀ (s : State) (d a : Fin 64) (o : Fin 4) (t : ElemType) (r : Rm), t.arith = true → o.val < 3 →
    let leaf (j : Nat) : Nat × Flags :=
      if active s t.width j then roundTo .f32 .rne false 0 (decodeElem t (elem t (s.vr a) j)) else (2 ^ 31, 0)
    (o.val = 0 → t.isInt = true → WholeOf (.vred d a o t) s d (BitVec.ofNat 4096 (unsignedOf 64
      (((List.range t.count).filter (active s t.width)).map fun j => intOf t (elem t (s.vr a) j)).sum)) 0 6) ∧
    (o.val = 0 → t.isInt = false → WholeOf (.vred d a o t) s d
      (BitVec.ofNat 4096 (treeNode leaf (Nat.log2 t.count) 0).1) (treeNode leaf (Nat.log2 t.count) 0).2 6) ∧
    (o.val ≠ 0 → WholeOf (.vred d a o t) s d (BitVec.ofNat 4096 (running s t o.val (s.vr a) t.count).1)
      (running s t o.val (s.vr a) t.count).2 6) ∧
    Each (.vscan d a o t) s d t 6 (fun j => ((running s t o.val (s.vr a) (j + 1)).1, (running s t o.val (s.vr a) t.count).2)) ∧
    Each (.vexp2 d a r t) s d t 8 (fun j => specialFn .exp2 t r (elem t (s.vr a) j)) ∧
    Each (.vlog2 d a r t) s d t 8 (fun j => specialFn .log2 t r (elem t (s.vr a) j)) ∧
    Each (.vrcp d a r t) s d t 8 (fun j => specialFn .rcp t r (elem t (s.vr a) j)) ∧
    Each (.vrsq d a r t) s d t 8 (fun j => specialFn .rsq t r (elem t (s.vr a) j)) ∧
    Each (.vtanh d a r t) s d t 8 (fun j => specialFn .tanh t r (elem t (s.vr a) j)) ∧
    exec (.vlutld a) s = .next (inFlight s (.lut (s.vr a)) 0 (vecLat s 5)) ∧
    Each (.vrng d) s d .n32 4 (fun j => (streamOf s j, 0))

/-- R153, R154: the mask stack: a push narrows the top by the nonzero nibbles, `MINV` takes the other side under the parent, `MPOP` removes
the top, `MTOP` reads it; a push at depth 16 and a pop or `MINV` at depth 0 trap `MASK_DEPTH` with the depth in tval. -/
def Obligations.MaskStack : Prop :=
  ∀ (s : State) (d a : Fin 64),
    (s.strand.masks.length < 16 → ∃ m : Mask, exec (.mpush a) s = .next (inFlight s (.maskPush m) 0 1) ∧
      ∀ n, n < 1024 → m.getLsbD n = (s.top.getLsbD n && decide (lane 4 (s.vr a) n ≠ 0))) ∧
    (∀ top rest, s.strand.masks = top :: rest → ∃ m : Mask, exec .minv s = .next (inFlight s (.maskTop m) 0 1) ∧
      (∀ n, n < 1024 → m.getLsbD n = ((match rest with
        | [] => true
        | p :: _ => p.getLsbD n) && !top.getLsbD n)) ∧
      exec .mpop s = .next (inFlight s .maskPop 0 1)) ∧
    (∃ v : VReg, WholeOf (.mtop d) s d v 0 1 ∧ ∀ n, n < 1024 → lane 4 v n = if s.top.getLsbD n then 15 else 0) ∧
    (16 ≤ s.strand.masks.length → canTrap s → ∃ t, exec (.mpush a) s = .next t ∧ Trapped s t 0x0B 16 0) ∧
    (s.strand.masks = [] → canTrap s → (∃ t, exec .minv s = .next t ∧ Trapped s t 0x0B 0 0) ∧
      ∃ t, exec .mpop s = .next t ∧ Trapped s t 0x0B 0 0)

/-- R43, R123, R128, R129: `VLD` reads the 512 bytes at its address and puts the active elements in flight; `VST` writes the nibbles of the active
elements and no other byte of the scratchpad; bits [7:6] of an element of a 6-bit format are zero in both, which for the bytes stored is the
model's choice (log entry 39), as it is that only the lines of active elements can poison (log entry 40); a misaligned address traps `ALIGN`, one outside the pinned ways `SCRATCH_RANGE`. -/
def Obligations.VectorLoadsAndStores : Prop :=
  ∀ (s : State) (d a b : Fin 64) (t : ElemType), Memory.wf s.spMem = true → s.strand.region = none →
    let va := s.xr a + s.xr b
    let at_ := va.toNat
    let on (n : Nat) : Bool := active s t.width (n / (t.width / 4))
    (at_ % 64 = 0 → at_ + 512 ≤ s.spSize → s.couples at_ 512 false = false → poisonedIn s.spPoison at_ 512 = false →
      ∃ (v : VReg) (m : Mask), exec (.vld d a b t) s = .next (inFlight s (.vec [(physV s.who s.strand d, v)] m) 0 (vecLat s 8)) ∧
        (∀ k, k < 512 → lane 8 v k = clean t (s.spMem.get (at_ + k)).toNat) ∧ ∀ n, n < 1024 → m.getLsbD n = on n) ∧
    (at_ % 64 = 0 → at_ + 512 ≤ s.spSize → s.couples at_ 512 true = false → ∃ u, exec (.vst d a b t) s = .next u ∧
      u.strand = s.strand ∧ u.unit = s.unit ∧ u.mod = s.mod ∧
      (∀ y, y < at_ ∨ at_ + 512 ≤ y → u.spMem.get y = s.spMem.get y) ∧
      ∀ n, n < 1024 → (u.spMem.get (at_ + n / 2)).toNat / 16 ^ (n % 2) % 16 =
        if on n then clean t (lane 8 (s.vr d) (n / 2)) / 16 ^ (n % 2) % 16 else (s.spMem.get (at_ + n / 2)).toNat / 16 ^ (n % 2) % 16) ∧
    (at_ % 64 ≠ 0 → canTrap s → (∃ u, exec (.vld d a b t) s = .next u ∧ Trapped s u 0x12 va (BitVec.ofNat 64 s.grp.iaddr)) ∧
      ∃ u, exec (.vst d a b t) s = .next u ∧ Trapped s u 0x12 va (BitVec.ofNat 64 s.grp.iaddr)) ∧
    (at_ % 64 = 0 → s.spSize < at_ + 512 → canTrap s →
      (∃ u, exec (.vld d a b t) s = .next u ∧ Trapped s u 0x14 va (BitVec.ofNat 64 s.grp.iaddr)) ∧
      ∃ u, exec (.vst d a b t) s = .next u ∧ Trapped s u 0x14 va (BitVec.ofNat 64 s.grp.iaddr))

namespace Sys2Proof.Claims

/-- The instruction completes: it puts one result in flight, l cycles ahead on X and four times as long on T (R75, R121), and changes nothing
else. -/
def Completes (i : Instr) (s : State) (l : Nat) : Prop := ∃ e fl, exec i s = .next (inFlight s e fl (vecLat s l))

end Sys2Proof.Claims

/-- R75, R121, R128, R132 to R139, R141 to R153: a vector instruction whose operands are registers, the lookup table and the mask stack completes in
every state, on X and on T, whatever its operands: its result is in flight for its exposed latency. The forms that change the mask stack
complete where the stack has room, or has an entry. -/
def Sys2Proof.Claims.VectorFormsComplete : Prop :=
  ∀ (s : State) (d a b : Fin 64) (o : Fin 4) (t e : ElemType) (sat : Bool) (r : Rm),
    (Completes (.vmov d a t) s 2 ∧ Completes (.vbcst d a t) s 2 ∧ Completes (.vins d a b t) s 2 ∧ Completes (.vextr d a b t) s 2) ∧
    (Completes (.vadd d a b t) s 2 ∧ Completes (.vsub d a b t) s 2 ∧ Completes (.vmul d a b t) s 4 ∧ Completes (.vmin d a b t) s 2 ∧
      Completes (.vmax d a b t) s 2 ∧ Completes (.vamax d a b t) s 2 ∧ Completes (.vabs d a t) s 2 ∧ Completes (.vneg d a t) s 2 ∧
      Completes (.vfma d a b t) s 4 ∧ Completes (.vfms d a b t) s 4) ∧
    (Completes (.vwmul d a b t) s 4 ∧ Completes (.vwadd d a b t) s 4 ∧ Completes (.vwfma d a b t) s 4 ∧ Completes (.vdot4 d a b t) s 4) ∧
    (Completes (.vand d a b t) s 2 ∧ Completes (.vor d a b t) s 2 ∧ Completes (.vxor d a b t) s 2 ∧ Completes (.vandn d a b t) s 2 ∧
      Completes (.vshl d a b t) s 2 ∧ Completes (.vshr d a b t) s 2 ∧ Completes (.vsra d a b t) s 2) ∧
    (Completes (.vcmpEq d a b t) s 2 ∧ Completes (.vcmpNe d a b t) s 2 ∧ Completes (.vcmpLt d a b t) s 2 ∧ Completes (.vcmpLe d a b t) s 2 ∧
      Completes (.vcmpGt d a b t) s 2 ∧ Completes (.vcmpGe d a b t) s 2 ∧ Completes (.vcmpUn d a b t) s 2) ∧
    (Completes (.vsel d a b t) s 2 ∧ Completes (.vperm d a b t) s 3 ∧ Completes (.vzip d a b t) s 3 ∧ Completes (.vunzip d a b t) s 3 ∧
      Completes (.vslide d a b t) s 3) ∧
    (Completes (.vcvt d a sat e t r) s 3 ∧ Completes (.vnarrow d a sat e t r) s 3) ∧
    (Completes (.vred d a o t) s 6 ∧ Completes (.vscan d a o t) s 6) ∧
    (Completes (.vlut d a t) s 5 ∧ Completes (.vlutld a) s 5 ∧ Completes (.vexp2 d a r t) s 8 ∧ Completes (.vlog2 d a r t) s 8 ∧
      Completes (.vrcp d a r t) s 8 ∧ Completes (.vrsq d a r t) s 8 ∧ Completes (.vtanh d a r t) s 8 ∧ Completes (.vrng d) s 4) ∧
    (Completes (.mtop d) s 1 ∧
      (s.strand.masks.length < 16 → ∃ m, exec (.mpush a) s = .next (inFlight s (.maskPush m) 0 1)) ∧
      (s.strand.masks ≠ [] → (∃ m, exec .minv s = .next (inFlight s (.maskTop m) 0 1)) ∧ exec .mpop s = .next (inFlight s .maskPop 0 1)))

/-- Element arithmetic, logic, moves and broadcasts under the mask; where register forms complete: `VectorArithmetic` and `VectorLogicAndMoves` and `VectorFormsComplete`. -/
def Obligations.VectorElementwise : Prop := VectorArithmetic ∧ VectorLogicAndMoves ∧ VectorFormsComplete

/-! ## Attention and key-value forms of the strands, privileged forms, strand events -/

namespace Sys2Proof.Claims

/-- The strand waits for a response that raises flags with the value it writes. -/
def holdingWith (s : State) (e : Effect) (fl : Flags) : Hold := ⟨s.cycle, s.cycle + 14, e, fl, none⟩

/-- The cached translations of a partition that a test does not name. -/
def tlbWithout (s : State) (n : Fin 16) (hit : Nat → Nat → Prop) (tlb : List Translation) : Prop :=
  ∀ e, e ∈ tlb ↔ e ∈ s.mod.tlb ∧ ¬(e.part = n ∧ hit (e.page * 2 ^ levelShift e.level) (2 ^ levelShift e.level))

/-- The bytes of a run of the scratchpad. -/
def spBytes (s : State) (a n : Nat) : List Byte := (List.range n).map fun k => s.spMem.get (a + k)

/-- The strand can take a trap, and no load in flight is poisoned; poison may have arrived. -/
def canTrapOn (s : State) : Prop := canTrap (s.onStrand fun f => { f with poisons := [] })

/-- The scratchpad of s with the 128 bytes of a line zero. -/
def zeroLine : List Byte := List.replicate 128 0

end Sys2Proof.Claims

/-- R231, R239, R247: `ATTMASK` sets the mask register after its checks; `ATTST.ST` writes a slot's image to the scratchpad and `ATTST.LD`
loads one, so that the slot's image is what was read; the merging form merges an image of equal shape; `SEQBIND` binds a slot to a handle
that its check accepts. The moves hold the strand for one cycle in every 512 bytes. That bs is checked in mode 2 alone, and the size of an
image not at all, is the model's choice (log entries 52 and 139). -/
def Sys2Proof.Claims.AttentionStrandForms : Prop :=
  ∀ (s : State) (n : Fin 2) (sl : Fin 8) (a b : Fin 64), s.strand.region = none → Memory.wf s.spMem = true →
    Memory.wf (s.core.dle[n]).record = true → Memory.wf (s.core.dle[n]).ram = true →
    let w := (s.xr a).toNat
    let img := (s.core.dle[n]).image
    let size := imageSize (natOfBytes (spBytes s w 4))
    let held (k : Nat) : Hold := ⟨s.cycle, s.cycle + (k + 511) / 512, .flagsOnly, 0, none⟩
    (w / 2 ^ 56 = 0 → w / 2 ^ 8 % 2 ^ 24 = 0 → w % 8 < 4 → (w % 8 = 2 → w / 8 % 32 ≤ 6) → (w % 8 = 3 → (s.xr b).toNat % 8 = 0) →
      exec (.attmask a b) s = .next { s with core := { s.core with maskMode := s.xr a, maskBase := s.xr b } }) ∧
    (w % 64 = 0 → w + 64 ≤ s.spSize → w + img.length ≤ s.spSize → s.dleBusy n = false → s.couples w img.length true = false → ∃ t,
      exec (.attstSt n a) s = .next t ∧ Stored s.spMem t.spMem w img ∧ t.strand.hold = some (held img.length) ∧
      t.core.dle = s.core.dle ∧ t.strand.x = s.strand.x ∧ t.mod = s.mod) ∧
    (w % 64 = 0 → w + 64 ≤ s.spSize → w + size ≤ s.spSize → s.dleBusy n = false → s.couples w 64 false = false → s.couples w size false = false →
      poisonedIn s.spPoison w size = false → imageOk (spBytes s w size) = true →
      (∃ t, exec (.attstLd n a) s = .next t ∧ (t.core.dle[n]).image = spBytes s w size ∧ t.strand.hold = some (held size) ∧
        (∀ j, j ≠ n → t.core.dle[j] = s.core.dle[j]) ∧ t.strand.x = s.strand.x ∧ t.mod = s.mod ∧ t.core.scratch = s.core.scratch) ∧
      (natOfBytes (img.take 4) = natOfBytes (spBytes s w 4) → ∃ t, exec (.attstLdM n a) s = .next t ∧
        (t.core.dle[n]).image = mergeImage img (spBytes s w size) ∧ t.strand.hold = some (held size) ∧
        (∀ j, j ≠ n → t.core.dle[j] = s.core.dle[j]) ∧ t.strand.x = s.strand.x ∧ t.mod = s.mod)) ∧
    (∀ q t, w < 2 ^ 32 → s.runKv (kvSeq s.kvCtx w) = .ok (q, t) → ∃ u, exec (.seqbind sl a) s = .next u ∧
      u.core.slots[sl] = some (BitVec.ofNat 32 w) ∧ (∀ j, j ≠ sl → u.core.slots[j] = t.core.slots[j]) ∧
      u.strand.hold = some (holding t .flagsOnly none) ∧ u.mod = t.mod)

/-- R254, R255, R257, R258: the key-value stores of the A strand, where their checks pass and their pages take the rows: the response writes
the position to x[d] and raises the flags of the conversions; `KVINV` clears its bits and answers without a value. A bad control word or a
misaligned source traps first; the control word as tval of the former is the model's choice (log entry 55). -/
def Sys2Proof.Claims.KeyValueStrandForms : Prop :=
  ∀ (s : State) (d a b : Fin 64),
    let ctl := s.xr a
    let src := (s.xr b).toNat % 2 ^ 22
    let p0 := (s.xr b).toNat / 2 ^ 32
    (∀ q t p fl u, s.runKv (kvSeq s.kvCtx (ctlHandle ctl)) = .ok (q, t) → ctlLayer ctl < q.layers → ctlHead ctl < q.heads →
      src + 4 * ctlN ctl * q.d ≤ s.spSize → s.spBad src (4 * ctlN ctl * q.d) = false → src % 64 = 0 →
      ((s.xr b).toNat < 2 ^ 22 → q.end_ + ctlN ctl ≤ 64 * q.pages →
        (ctl.getLsbD 63 = true → if ctl.getLsbD 62 then q.tent + ctlN ctl ≤ q.w else q.tent = 0) →
        t.runKv (kvAppendStep s.kvCtx ctl q (s.spRead src (4 * ctlN ctl * q.d))) = .ok ((p, fl), u) →
        exec (.kvappend d a b) s = .next (u.onStrand fun f =>
          { f with hold := some (holdingWith u (.scalar d (BitVec.ofNat 64 p)) fl) })) ∧
      ((s.xr b).toNat / 2 ^ 22 % 2 ^ 10 = 0 → ctl.getLsbD 63 = false → ctl.getLsbD 62 = false → p0 + ctlN ctl ≤ q.end_ →
        t.runKv (kvPutStep s.kvCtx ctl p0 q (s.spRead src (4 * ctlN ctl * q.d))) = .ok ((p, fl), u) →
        exec (.kvput d a b) s = .next (u.onStrand fun f =>
          { f with hold := some (holdingWith u (.scalar d (BitVec.ofNat 64 p)) fl) }))) ∧
    (∀ q t r u, s.runKv (kvSeq s.kvCtx (ctlHandle ctl)) = .ok (q, t) → ctl.toNat / 2 ^ 32 % 64 = 0 →
      t.runKv (kvInvStep t.kvCtx q (ctl.toNat / 2 ^ 32) (s.xr b).toNat) = .ok (r, u) →
      exec (.kvinv a b) s = .next (u.onStrand fun f => { f with hold := some (holdingWith u .flagsOnly 0) })) ∧
    (2 ^ 22 ≤ (s.xr b).toNat → canTrap s → ∃ t, exec (.kvappend d a b) s = .next t ∧
      Trapped s t 0x15 ctl (BitVec.ofNat 64 s.grp.iaddr)) ∧
    ((s.xr b).toNat < 2 ^ 22 → (s.xr b).toNat % 64 ≠ 0 → canTrap s → ∃ t, exec (.kvappend d a b) s = .next t ∧
      Trapped s t 0x12 (s.xr b) (BitVec.ofNat 64 s.grp.iaddr))

/-- The attention and key-value forms of the A strand: `AttentionStrandForms` and `KeyValueStrandForms`. -/
def Obligations.AttentionAndKeyValueForms : Prop := AttentionStrandForms ∧ KeyValueStrandForms

/-- R341, R360: `XLINV` removes exactly the cached translations of the partition that its form names, once the partition's posted stores are
performed; `POISON.CLR` zeroes a line and clears its poison, in memory or in the scratchpad, and changes no other byte; in memory it drops
the line from the RDCs, and a home L2 keeps it with its pin. That they wait for the posted stores is the model's choice (log entry 74). -/
def Obligations.PrivilegedForms : Prop :=
  ∀ (s : State) (a b : Fin 64) (n : Fin 16), s.part = some n →
    (s.storesDone n = true →
      let va := (s.xr a).toNat % 2 ^ 57
      (∃ tlb, tlbWithout s n (fun base size => base ≤ va ∧ va < base + size) tlb ∧
        exec (.xlinvPg a) s = .next { s with mod := { s.mod with tlb := tlb } }) ∧
      (∃ tlb, tlbWithout s n (fun base size => s.xr b ≠ 0 ∧ base < va + (s.xr b).toNat ∧ va < base + size) tlb ∧
        exec (.xlinvRg a b) s = .next { s with mod := { s.mod with tlb := tlb } }) ∧
      (∃ tlb, tlbWithout s n (fun _ _ => True) tlb ∧ exec .xlinvAll s = .next { s with mod := { s.mod with tlb := tlb } })) ∧
    (s.storesDone n = false → exec (.xlinvPg a) s = .next (s.verdict .blocked) ∧ exec (.xlinvRg a b) s = .next (s.verdict .blocked) ∧
      exec .xlinvAll s = .next (s.verdict .blocked)) ∧
    (∀ pl, s.strand.posted = [] → s.place accWrite (s.xr a) 128 = .ok pl → pl.typ ≠ 3 → Memory.wf s.mod.mem = true → ∃ t,
      exec (.poisonClr a) s = .next t ∧ Stored s.mod.mem t.mod.mem pl.pa zeroLine ∧ (pl.pa / 128) ∉ t.mod.poison ∧
      (∀ l, l ≠ pl.pa / 128 → (l ∈ t.mod.poison ↔ l ∈ s.mod.poison)) ∧
      (∀ e, e ∈ t.mod.rdc → e.line ≠ pl.pa / 128) ∧
      t.mod.l2.map (fun l => (l.part, l.id, l.coord, l.pinned)) = s.mod.l2.map (fun l => (l.part, l.id, l.coord, l.pinned)) ∧
      t.core = s.core ∧ t.ctl = s.ctl) ∧
    (let at_ := (s.xr a).toNat
     at_ % 128 = 0 → at_ + 128 ≤ s.spSize → s.couples at_ 128 true = false → s.strand.region = none → Memory.wf s.spMem = true → ∃ t,
      exec (.poisonClrSp a) s = .next t ∧ Stored s.spMem t.spMem at_ zeroLine ∧ (at_ / 128) ∉ t.spPoison ∧
      (∀ l, l ≠ at_ / 128 → (l ∈ t.spPoison ↔ l ∈ s.spPoison)) ∧ t.strand = s.strand ∧ t.mod = s.mod)

/-- R86, R94, R97, R172, R192, R263 to R267: the events of a strand: a response or a replay entry that is due is written with its flags; a
holding response lets the strand go on or traps; an `LDQ`'s data fill their entry, and poisoned ones are noted for the A strand; a copy-back
ends; poison, an engine fault report and the issue watchdog trap at the strand's boundary, and a report finds a strand that has ended its
part at its last group again. That further poison stays pending, through a halt too, and that poison restarts an A strand as a report
does, are the model's choices (log entries 132 and 122). -/
def Obligations.StrandEvents : Prop :=
  ∀ (s : State) (d : Fin 64) (v : Word) (fl : Flags) (g : Nat), d ≠ 0 →
    (s.strand.results = [⟨.scalar d v, fl, s.cycle, true, none, g, false, false⟩] → ∃ t, exec .loadResponse s = .next t ∧
      (∀ q, t.xr q = if q = d then v else s.xr q) ∧ t.strand.flags = s.strand.flags ||| fl ∧ t.mod = s.mod) ∧
    (s.strand.results = [⟨.scalar d v, fl, s.cycle, false, none, g, true, false⟩] → ∃ t, exec .replayEntryComplete s = .next t ∧
      (∀ q, t.xr q = if q = d then v else s.xr q) ∧ t.strand.flags = s.strand.flags ||| fl ∧ t.mod = s.mod) ∧
    (∀ h, s.strand.hold = some h → h.due ≤ s.cycle → h.trap = none → h.write = .scalar d v → ∃ t, exec .holdingResponse s = .next t ∧
      (∀ q, t.xr q = if q = d then v else s.xr q) ∧ t.strand.flags = s.strand.flags ||| h.flags ∧ t.strand.hold = none ∧ t.mod = s.mod) ∧
    (∀ h c, s.strand.hold = some h → h.due ≤ s.cycle → h.trap = some c → canTrap s → ∃ t, exec .holdingResponse s = .next t ∧
      t.strand.epc = BitVec.ofNat 64 s.strand.pc ∧ t.strand.cause = c.code.zeroExtend 64 ∧ t.strand.tval = c.tval ∧ t.strand.hold = none ∧
      t.strand.pc = s.strand.handler.toNat ∧ t.strand.th = true ∧ t.strand.pl = true ∧ t.strand.x = s.strand.x ∧ t.mod = s.mod) ∧
    (∀ q es e, s.filling = some (q, es, e) → e.poison = false → exec .ldqFill s = .next (withEntries s q 0 es)) ∧
    (∀ q es e, s.filling = some (q, es, e) → e.poison = true → ∃ t, exec .ldqFill s = .next t ∧ (t.core.q[q]).entries = es ∧
      t.core.a.poisons = s.core.a.poisons ++ [(e.addr, e.group)] ∧ t.core.a.x = s.core.a.x ∧ t.core.x = s.core.x ∧ t.mod = s.mod) ∧
    (∀ c, s.strand.copyBack = some c → c ≤ s.cycle →
      exec .committedLinesCopiedBack s = .next (s.onStrand fun f => { f with copyBack := none })) ∧
    (∀ va l rest, canTrapOn s → s.coreHalted = false → (s.strand.poisons = (va, l) :: rest ∨ s.strand.poisons = [] ∧ s.strand.held = (va, l) :: rest) →
      ∃ t, exec .poisonArrival s = .next t ∧
      t.strand.cause = 0x30 ∧ t.strand.tval = va ∧
      t.strand.epc = BitVec.ofNat 64 (if s.strand.run = .ended then s.strand.endGroup else s.strand.pc) ∧ t.strand.poisons = [] ∧
      t.strand.held = (if s.strand.poisons = [] then rest else s.strand.held ++ rest) ∧
      t.strand.pc = s.strand.handler.toNat ∧ t.strand.th = true ∧ t.strand.x = s.strand.x ∧ t.mod = s.mod) ∧
    (∀ q r, s.strand.reports = [(q, r)] → canTrap s → ∃ t, exec .engineFaultReport s = .next t ∧
      t.strand.cause = 0x0C ∧ t.strand.tval = BitVec.ofNat 64 q ∧
      t.strand.epc = BitVec.ofNat 64 (if s.strand.run = .ended then s.strand.endGroup else s.strand.pc) ∧ t.strand.reports = [] ∧
      t.strand.run = .running ∧
      (s.strand.run = .ended → s.who = .a → ∀ k, s.core.task = some k → t.core.task = some { k with swap := none }) ∧
      t.strand.pc = s.strand.handler.toNat ∧ t.strand.th = true ∧
      (spBytes t (s.strand.traparea.toNat + 0x40) 64) = bytesOfNat 64 r.toNat) ∧
    (∀ n q c, 2 ^ 22 ≤ s.strand.stall → s.stalledIssue = some (n, q) → s.headWait q = .counter c → canTrap s → ∃ t,
      exec .issueStall s = .next t ∧ t.strand.cause = 0x0A ∧ t.strand.epc = BitVec.ofNat 64 s.strand.pc ∧
      t.strand.tval = BitVec.ofNat 64 (q.val * 2 ^ 24 + (waitK c.image).val * 2 ^ 16 + hw c.image 2) ∧
      t.strand.pc = s.strand.handler.toNat ∧ t.strand.th = true)

/-! ## Engines -/

namespace Sys2Proof.Claims

/-- The head of queue q starts now: it passes its checks, its wait is satisfied, its engine is free, and its claims can be made (R191, R194). -/
def HeadStarts (s : State) (q : Fin 8) (e op : Nat) (c : Command) : Prop :=
  s.headState q = .starts c ∧ engineOfImage c.image = e ∧ opOf c.image = op

/-- The state in which an engine takes up its head: the command has left the queue, its tiles are claimed, now or as it reached its claims, and
copies are numbered. -/
def Taken (s : State) (q : Fin 8) (c : Command) (t : State) (c1 : Command) : Prop :=
  ∃ u c0, (s.putQueue false q ((s.core.queue[q]).remove c.seq)).headClaims q c = .ok (u, c0) ∧
    t = { u with core := { u.core with
      copies := if q = 1 then u.core.copies + 1 else u.core.copies
      opaLast := if q = 0 ∨ q = 2 then some q.val else u.core.opaLast } } ∧
    c1 = { c0 with number := if q = 1 then t.core.copies % 512 else 0 }

/-- The command has performed its accesses: it stands among the started commands of its queue, in their order of issue, and signals `dur` cycles after its start, at
least one; the state is otherwise u. -/
def Signals (u : State) (q : Fin 8) (c : Command) (dur : Nat) : State :=
  { u with core := { u.core with queue := u.core.queue.set q { u.core.queue[q] with
    started := insertStarted { c with due := u.cycle + max 1 dur, paused := false } (u.core.queue[q]).started } } }

/-- Cell and plane words of a block are zero. -/
def planeZero (m : Memory) (p : Nat) : Prop := ∀ a, 65536 * p ≤ a → a < 65536 * (p + 1) → m.get a = 0

end Sys2Proof.Claims

/-- R203, R184: `MZERO` on one core zeroes every plane of its blocks and no other byte of the accumulators, clears the blocks' flags, and signals
16 cycles after its start and one more for every block. -/
def Sys2Proof.Claims.MatrixZero : Prop :=
  ∀ (s : State) (c : Command), HeadStarts s 0 0 2 c → flagOf c.image 1 = false → c.cursor.block ≤ rangeUb c.image → Memory.wf s.core.acc = true →
    s.ctl.die = s.core.die → s.ctl.number = s.core.cluster → tilePlane c.image + planeWidth c.image * tileBlocks c.image ≤ s.core.accPlanes →
    rangeUb c.image + rangeNb c.image ≤ tileBlocks c.image → s.core.accPlanes ≤ 32 →
    let e := planeWidth c.image
    let p0 := tilePlane c.image + e * rangeUb c.image
    ∃ t d, exec .mzero s = .next t ∧
      (∀ j, j < e * rangeNb c.image → planeZero t.core.acc (p0 + j)) ∧
      (∀ a, a < 65536 * p0 ∨ 65536 * (p0 + e * rangeNb c.image) ≤ a → t.core.acc.get a = s.core.acc.get a) ∧
      (∀ j, j < rangeNb c.image → t.core.blockFlags (p0 + e * j) = ⟨0, .none⟩) ∧
      d ∈ (t.core.queue[(0 : Fin 8)]).started ∧ d.seq = c.seq ∧ d.due = s.cycle + 16 + rangeNb c.image ∧
      (∀ x, x ∈ (t.core.queue[(0 : Fin 8)]).waiting → x.seq ≠ c.seq) ∧ t.core.scratch = s.core.scratch ∧ t.mod = s.mod

/-- R219, R220: `TSTART` hands a token to the T strand that waits for one: x1 and x2 are the token's quarters, x3 counts the tokens, and T runs
from the entry. -/
def Sys2Proof.Claims.TokenStart : Prop :=
  ∀ (s : State) (c : Command), HeadStarts s 3 3 0 c →
    ∃ t, exec .tstart s = .next t ∧ t.core.t.run = .running ∧ t.core.t.pc = 4 * hw c.image 4 ∧
      t.core.t.x[(1 : Fin 64)] = BitVec.ofNat 64 (c.image.toNat / 2 ^ 128 % 2 ^ 64) ∧
      t.core.t.x[(2 : Fin 64)] = BitVec.ofNat 64 (c.image.toNat / 2 ^ 192 % 2 ^ 64) ∧
      t.core.t.x[(3 : Fin 64)] = BitVec.ofNat 64 s.core.tokens ∧ t.core.tokens = s.core.tokens + 1 ∧
      (∀ r : Fin 64, 3 < r.val → t.core.t.x[r] = s.core.t.x[r]) ∧ t.core.t.v = s.core.t.v ∧ t.core.a = s.core.a ∧ t.core.x = s.core.x ∧
      t.core.scratch = s.core.scratch ∧ t.mod = s.mod

/-- MZERO zeroes exactly its planes; TSTART hands a token to the T strand: `MatrixZero` and `TokenStart`. -/
def Obligations.MatrixZeroAndTokens : Prop := MatrixZero ∧ TokenStart

/-- R178, R191, R55, R108: a due command retires: its destinations become full and its consumed sources empty, its claims end, it leaves the queue,
its flags join the queue's, and its signal is applied to its counter; a signal past the ceiling freezes the queue at the signal phase, and
the strand gets a report. -/
def Obligations.CommandRetirement : Prop :=
  ∀ (s : State) (q : Fin 8) (c : Command), s.who ≠ .c → s.retiring = some (q, c) → c.cursor.signal = false → q ≠ 5 → sharedWhole s →
    (∀ d, d ∈ c.claims → ∀ e, e ∈ c.claims → d.tile = e.tile → d = e) →
    (sigEn c.image = false ∨ (s.counter false (sigK c.image)).count.toNat + sigInc c.image ≤ s.ceiling false (sigK c.image) →
      ∃ t, exec .commandRetire s = .next t ∧
        (∀ l, l ∈ c.claims → tileC t.core.tile[l.tile] = false ∧ tileF t.core.tile[l.tile] = l.dest) ∧
        (∀ j, (∀ l, l ∈ c.claims → l.tile ≠ j) → t.core.tile[j] = s.core.tile[j]) ∧
        (∀ x, x ∈ (t.core.queue[q]).started ++ (t.core.queue[q]).waiting → x.seq ≠ c.seq) ∧
        (t.core.queue[q]).flags = (s.core.queue[q]).flags ||| c.flags ∧
        (t.counter false (sigK c.image)).count.toNat =
          (s.counter false (sigK c.image)).count.toNat + (if sigEn c.image then sigInc c.image else 0) ∧
        t.mod = s.mod ∧ t.core.scratch = s.core.scratch) ∧
    (sigEn c.image = true → s.ceiling false (sigK c.image) < (s.counter false (sigK c.image)).count.toNat + sigInc c.image →
      s.core.endsByCwait = false → ∃ t f, exec .commandRetire s = .next t ∧ (t.core.queue[q]).frozen = true ∧
        (∃ x, x ∈ (t.core.queue[q]).started ∧ x.seq = c.seq ∧ x.fault = some f ∧ f.code = 0x18 ∧ x.cursor.signal = true) ∧
        (t.counter false (sigK c.image)).count = (s.counter false (sigK c.image)).count ∧
        (t.strandOf c.by_).reports.length = (s.strandOf c.by_).reports.length + 1)

/-! ## What the commands of the engines read and write

Each command's effect is said by the addresses of what it reads and writes and by the value of each element, block or row, in the order of the
spec's own description; the recursion by which the model's engines walk them is not named. -/

namespace Sys2Proof.Claims

/-- What a command does from where it stands: the state it leaves, the command with its flags, and the cycles from there to its signal, or none
where it waits at its cursor; or something that cuts it, of which the statement says nothing. -/
abbrev CommandEffect := State → Command → Except EngineFault (State × Command × Option Nat)

def stopped {α : Type} : Except EngineFault α := .error (mkFault 0 0)
def require (p : Bool) : Except EngineFault Unit := if p then .ok () else stopped

/-- The command stands among the started ones of its queue: until its signal, or at its cursor, its engine taken. -/
def Stands (u : State) (q : Fin 8) (c : Command) (dur : Option Nat) : State :=
  match dur with
  | some n => Signals u q c n
  | none => { u with core := { u.core with queue := u.core.queue.set q { u.core.queue[q] with
      started := insertStarted { c with due := 0, paused := true } (u.core.queue[q]).started } } }

/-- A command that was cut, or that waited, goes on: it has left its queue (R187, R195). -/
def GoesOn (s : State) (q : Fin 8) (e op : Nat) (c : Command) (t : State) : Prop :=
  s.headState q = .resumes c ∧ engineOfImage c.image = e ∧ opOf c.image = op ∧ t = s.putQueue false q ((s.core.queue[q]).remove c.seq)

/-- An instruction performs an effect: where a head that `pre` accepts starts, or a command goes on, and nothing cuts the effect on the way, the
instruction answers the state that the effect leaves, in which the command stands started until its signal, or waits. -/
def Performs (i : Instr) (q : Fin 8) (e op : Nat) (pre : Command → Prop) (f : CommandEffect) : Prop :=
  ∀ (s : State) (c : Command) (t : State) (c1 : Command) (w : State) (c2 : Command) (dur : Option Nat),
    pre c → (HeadStarts s q e op c ∧ Taken s q c t c1 ∨ GoesOn s q e op c t ∧ c1 = c) → f t c1 = .ok (w, c2, dur) →
    exec i s = .next (Stands w q c2 dur)

def anyHead (_ : Command) : Prop := True

/-! ### Matrix commands -/

/-- The blocks whose planes are checked lie in the accumulator range of their core (R185). -/
def planesLie (t : State) (img : Image) (coop : Bool) (us : List Nat) : Bool :=
  us.all fun u => (t.holder img coop u).2 + planeWidth img ≤ (t.clusterCore (t.holder img coop u).1).accPlanes

/-- R198: an element of 2 bytes at k of row or column r of a strip of 128, in an operand of K elements a row. -/
def plainElement (m : Memory) (base size strip r k : Nat) : Nat := m.nat (base + ((strip * size + k) * 128 + r) * 2) 2

/-- R198: the MX block that holds element k of row or column r of a strip. -/
def mxBlock (m : Memory) (base size strip r k slot : Nat) : List Byte :=
  m.read (base + ((strip * (size / 32) + k / 32) * 128 + r) * slot) slot

/-- The elements 32 g to 32 g + 31 of the 128 rows or columns of a strip, each with its rate Kc (R22, R199). They lie in the operand, and
hold no poison. -/
def operand (t : State) (pl : Nat × Nat) (fmt size strip g : Nat) : Except EngineFault (List (List Val × Nat)) := do
  let bytes := if fmt ≤ 1 then 8192 else 128 * mmaSlot fmt
  let _ ← t.placeRead pl (pl.1 + (strip * (size / 32) + g) * bytes : Nat) bytes
  (List.range 128).mapM fun r =>
    if fmt ≤ 1 then
      .ok ((List.range 32).map fun k =>
        decodeElem (if fmt = 0 then .bf16 else .f16) (plainElement t.core.scratch pl.1 size strip r (32 * g + k)), 2)
    else
      let b := mxBlock t.core.scratch pl.1 size strip r (32 * g) (mmaSlot fmt)
      match mmaValues (mmaSlot fmt) b with
      | none => stopped
      | some vs => .ok (vs, mxRate (b.headD 0).toNat)

/-- A word of a tile after the 32 products of a k group: in steps of Kc products into an ACC32 word, one after another into an ACCX word. -/
def productsInto (x : Bool) (anchor : Int) (row col : List Val × Nat) (w : Nat) (fl : BlockFlags) : Nat × BlockFlags :=
  let ps := (row.1.zip col.1).map fun p => exactMul p.1 p.2
  if x then
    let v := ps.foldl (fun v p => accxAdd v.1 p.1 anchor v.2) (signedOf 128 w, fl.x)
    (unsignedOf 128 v.1, { fl with x := v.2 })
  else
    let kc := min row.2 col.2
    let v := (List.range (32 / kc)).foldl (fun (v : Nat × Flags) j =>
      let y := acc32Step v.1 ((ps.drop (kc * j)).take kc)
      (y.1, v.2 ||| y.2)) (w, fl.f32)
    (v.1, { fl with f32 := v.2 })

/-- One k group g of block u (R199); the cycles grow by 32 / Kc. -/
def mmaGroup (c : Command) (acc : State × Nat) (ug : Nat × Nat) : Except EngineFault (State × Nat) := do
  let img := c.image
  let (u, g) := ug
  let e := planeWidth img
  let (n, p) := acc.1.holder img (flagOf img 2) u
  let t := if flagOf img 1 && g = 0 then acc.1.onClusterCore n (Core.zeroBlock · p e) else acc.1
  let size := 32 * (hw img 8 + 1)
  let rows ← operand t (c.places.getD 0 (0, 0)) (hwBits img 6 4 4) size (u / (tileCb img + 1)) g
  let cols ← operand t (c.places.getD 1 (0, 0)) (hwBits img 6 0 4) size (u % (tileCb img + 1)) g
  let k := t.clusterCore n
  require (!k.blockPoisoned p e)
  let r := (List.range 16384).foldl (fun (a : List Nat × BlockFlags) i =>
    let y := productsInto (flagOf img 0) (anchorOf img) (rows.getD (i / 128) ([], 2)) (cols.getD (i % 128) ([], 2)) (accCell k.acc p e i) a.2
    (y.1 :: a.1, y.2)) ([], k.blockFlags p)
  return (t.onClusterCore n (Core.putBlock · p e r.1.reverse r.2), acc.2 + 32 / ((rows ++ cols).foldl (fun m o => min m o.2) 8))

/-- R199: `MMA`, from the cursor: every k group of every block that this core computes, all of the tile or its share of a shared one
(R186, R205). -/
def mmaEffect : CommandEffect := fun t c => do
  let img := c.image
  let (b, m) := t.core.share (tileBlocks img)
  let own := (List.range (tileBlocks img)).filter fun u => !flagOf img 2 || (m * b ≤ u && u < (m + 1) * b)
  require (planesLie t img (flagOf img 2) own)
  require (c.cursor.k ≤ hw img 8 && (c.cursor.k = 0 || own.contains c.cursor.block))
  let todo := own.flatMap fun u => (List.range (hw img 8 + 1)).map fun g => (u, g)
  let (w, cycles) ← (todo.filter fun x => c.cursor.block < x.1 || (c.cursor.block = x.1 && c.cursor.k ≤ x.2)).foldlM (mmaGroup c) (t, 16)
  return (w, c, some cycles)

/-- The blocks of a range of a tile, from the cursor; the planes of all of them lie in their core's range, on one core those of the whole tile
(R185, R201, R205). -/
def overRange (f : State × Command → Nat → Except EngineFault (State × Command)) : CommandEffect := fun t c => do
  let img := c.image
  let named := (List.range (rangeNb img)).map (rangeUb img + ·)
  require (planesLie t img (flagOf img 1) (if flagOf img 1 then named else List.range (tileBlocks img)))
  let (w, c) ← (named.filter (c.cursor.block ≤ ·)).foldlM f (t, c)
  return (w, c, some (16 + rangeNb img))

/-- Where element (i, j) of a range of elements of n bytes lies, from the operand's start (R201). -/
def rangeElement (img : Image) (i j n : Nat) : Nat := (i - 128 * (rangeUb img / (tileCb img + 1))) * hw img 8 + j * n

/-- Row and column of the first element of a block in its tile. -/
def cornerOf (img : Image) (u : Nat) : Nat × Nat := (128 * (u / (tileCb img + 1)), 128 * (u % (tileCb img + 1)))

/-- R202: what a drain writes for row i of a block whose columns begin at j0: the offset and bytes, the flags of the conversions, and the values
that are written. -/
def drainedRow (c : Command) (i j0 : Nat) (vs : List Val) : Nat × List Byte × Flags × List Val :=
  let img := c.image
  let rm := (Rm.ofCode (hwBits img 5 5 3)).getD .rne
  let stream (j : Nat) : Nat := srWord c.seed c.wid (hw img 10) (i * tileCols img + j)
  match drainFmt (hwBits img 5 8 4) with
  | some (.elem e) =>
    let out := vs.zipIdx.map fun v => roundTo e rm (hwBits img 5 4 1 = 1) (stream (j0 + v.2)) v.1
    (rangeElement img i j0 (e.width / 8), out.flatMap (fun o => bytesOfNat (e.width / 8) o.1), out.foldl (fun f o => f ||| o.2) 0,
      out.map fun o => decodeElem e o.1)
  | some (.mx f) =>
    let slot := slotBytes (hwBits img 5 0 2)
    let out := (List.range 4).map fun b => mxEncode f slot rm (fun k => stream (j0 + 32 * b + k)) ((vs.drop (32 * b)).take 32)
    (rangeElement img i (j0 / 32) slot, out.flatMap (·.1), out.foldl (fun f o => f ||| o.2) 0,
      out.flatMap fun o => (mxDecode slot o.1).getD [])
  | none => (0, [], 0, [])

/-- R202: the word that a block's merge brings: the largest magnitude written, or the quiet NaN. -/
def largestWritten (vs : List Val) : Nat :=
  if vs.any (·.isNan) then qnan .f32
  else (roundTo .f32 .rup true 0 (vs.foldl (fun m v => if m.lt v.abs then v.abs else m) Val.zero)).1

/-- R202: one block of a drain: its 128 rows are written, its flags and those of the conversions join the command's; with AMAX its largest
magnitude is merged by an atomic maximum, and with CLR the block and its flags are zeroed. -/
def drainedBlock (sc : State × Command) (u : Nat) : Except EngineFault (State × Command) := do
  let (s, c) := sc
  let img := c.image
  let x := flagOf img 0
  let e := planeWidth img
  let (n, p) := s.holder img (flagOf img 1) u
  let k := s.clusterCore n
  require (!k.blockPoisoned p e)
  let fl := k.blockFlags p
  let (i0, j0) := cornerOf img u
  let value (r j : Nat) : Val := accValue x (anchorOf img) fl.x.nan (accCell k.acc p e (128 * r + j))
  let rows := (List.range 128).map fun r => drainedRow c (i0 + r) j0 ((List.range 128).map (value r))
  let pl := c.places.getD 0 (0, 0)
  let t ← rows.foldlM (fun t o => State.placeWrite t pl (pl.1 + o.1 : Nat) o.2.1) s
  let conv := rows.foldl (fun f o => f ||| o.2.2.1) (if x && fl.x.nan then flagIV else 0)
  let c := { c with
    flags := c.flags ||| conv ||| (if x then (if fl.x.nx then flagNX else 0) else fl.f32)
    range := c.range || (x && fl.x.range), nan := c.nan || (x && fl.x.nan) }
  let t ← if flagOf img 2 then do
      let pl ← t.engPlace accAtomic (quarter img 3) 4
      let t := t.note (BitVec.ofNat 64 (quarter img 3)) pl false
      pure { t with mod := amoAt t.mod t.partNo false 0x1C pl.pa (largestWritten (rows.flatMap (·.2.2.2))) 0 }
    else pure t
  return (if flagOf img 3 then t.onClusterCore n (Core.zeroBlock · p e) else t, c)

/-- R204: a loaded word of a block, with the block's flags so far. -/
def loadedWord (img : Image) (w : Nat) (fl : BlockFlags) : Nat × BlockFlags :=
  match hwBits img 5 8 4 with
  | 3 => (w, fl)
  | f =>
    let v := decodeElem (match f with | 0 => .f32 | 1 => .bf16 | _ => .f16) w
    if flagOf img 0 then
      let y := accxAdd 0 v (anchorOf img) fl.x
      (unsignedOf 128 y.1, { fl with x := y.2 })
    else if v.isNan then (qnan .f32, { fl with f32 := fl.f32 ||| flagIV })
    else ((roundTo .f32 .rne false 0 v).1, fl)

/-- R204: one block of a load: cell (r, j) takes element (i0 + r, j0 + j) of the source; the block's flags are those of the load, and the IV of
an ACC32 block joins the command's. -/
def loadedBlock (sc : State × Command) (u : Nat) : Except EngineFault (State × Command) := do
  let (s, c) := sc
  let img := c.image
  let n := loadBytes (hwBits img 5 8 4)
  let (h, p) := s.holder img (flagOf img 1) u
  let (i0, j0) := cornerOf img u
  let pl := c.places.getD 0 (0, 0)
  let at_ (r j : Nat) : Nat := pl.1 + rangeElement img (i0 + r) (j0 + j) n
  let _ ← (List.range 128).mapM fun r => s.placeRead pl (at_ r 0) (128 * n)
  let r := (List.range 16384).foldl (fun (a : List Nat × BlockFlags) i =>
    let y := loadedWord img (s.core.scratch.nat (at_ (i / 128) (i % 128)) n) a.2
    (y.1 :: a.1, y.2)) ([], noBlockFlags)
  return (s.onClusterCore h (Core.putBlock · p (planeWidth img) r.1.reverse r.2), { c with flags := c.flags ||| r.2.f32 })

/-! ### Copies -/

/-- The places of a copy's two sides in the scratchpad (R209). -/
def sidePlace (c : Command) (dest : Bool) : Nat × Nat := c.places.getD (if dest then 1 else 0) (0, 0)

/-- R209, R217: the source element at x: none where it is skipped. -/
def sourceElement (c : Command) (r : Option TensorRec) (t : State) (x : List Int) : Except EngineFault (Nat × State) := do
  let w := (copySfmt c.image).width
  let size := max 1 (w / 8)
  let bits (high : Bool) (bs : List Byte) : Nat := pickNibble w high (natOfBytes bs)
  let offset := elemOffset x (cnestS c.nest)
  match copySmode c.image, r with
  | 1, some r =>
    let co := x.zipIdx.map fun p => (cnestSraw c.nest p.2 : Int) + p.1
    if r.inside co then do
      let (bs, t) ← t.tensorLoad r co size
      return (bits (r.address co).2 bs, t)
    else return (0, t)
  | 0, _ => do
    let a := elemAt (copySrc c.image : Nat) offset w
    let (bs, t) ← t.engLoad (wrapVa a.1) size (flagOf c.image 0)
    return (bits a.2 bs, t)
  | _, _ => do
    let a := elemAt ((sidePlace c false).1 : Nat) offset w
    let bs ← t.placeRead (sidePlace c false) a.1 size
    return (bits a.2 bs, t)

/-- Where element x goes, in elements of the destination's dimensions: `CPY.T` exchanges dimensions 0 and 1 (R211), and WIDEN puts element i of a
run of N into unit i mod g, lane i / g (R213). -/
def destElement (img : Image) (x : List Nat) : List Int :=
  let n := (copySfmt img).count
  let g := (copyDfmt img).width / (copySfmt img).width
  let i := x.getD 0 0
  let (run, place) := if flagOf img 2 then (i / n * n, i % n % g * (n / g) + i % n / g) else (i, 0)
  ((if opOf img = 1 then (x.set 0 (x.getD 1 0 + place)).set 1 run else x.set 0 (run + place))).map fun (v : Nat) => (v : Int)

/-- R209, R217: writes v at the destination element of x; one that is skipped is not written, and one of 4 bits keeps the other nibble of its
byte. -/
def putElement (c : Command) (r : Option TensorRec) (t : State) (x : List Nat) (v : Nat) : Except EngineFault State := do
  let w := (copyDfmt c.image).width
  let y := destElement c.image x
  let offset := elemOffset y (cnestD c.nest)
  match copyDmode c.image, r with
  | 1, some r =>
    let co := y.zipIdx.map fun p => (cnestDraw c.nest p.2 : Int) + p.1
    if !r.inside co then return t
    else if w = 4 then t.tensorPut r co 1 fun old => mergeNibble 4 (r.address co).2 (natOfBytes old) v
    else t.tensorStore r co (bytesOfNat (w / 8) v)
  | 0, _ =>
    let a := elemAt (copyDst c.image : Nat) offset w
    if w = 4 then do
      let pl ← t.engPlace { accWrite with tensor := flagOf c.image 0 } (wrapVa a.1) 1
      return (t.note (BitVec.ofNat 64 (wrapVa a.1)) pl false).storeAt pl (mergeNibble 4 a.2 (natOfBytes (physRead t.mod pl.pa 1)) v)
    else t.engStore (wrapVa a.1) (bytesOfNat (w / 8) v) (flagOf c.image 0)
  | _, _ =>
    let a := elemAt ((sidePlace c true).1 : Nat) offset w
    t.placeWrite (sidePlace c true) a.1 (mergeNibble w a.2 (t.core.scratch.get a.1.toNat).toNat v)

/-- R210: the element that a copy writes for nest index x: padding, +0 where the source is skipped, or the source element, converted with the stream
word of its linear index n. -/
def copiedElement (c : Command) (src : Option TensorRec) (t : State) (x : List Nat) (n entry : Nat) : Except EngineFault (Nat × Flags × State) := do
  let img := c.image
  let dims := cnestDim c.nest + 1
  let converted (v : Nat) : Nat × Flags :=
    if copySfmt img = copyDfmt img then (v, 0)
    else convertElem (copySfmt img) (copyDfmt img) ((Rm.ofCode (hwBits img 13 5 3)).getD .rne) (hwBits img 13 4 1 = 1)
      (srWord c.seed c.wid (hw img 14) n) v
  let y : List Int := x.map fun (v : Nat) => (v : Int)
  if opOf img = 3 then do
    let y := y.zipIdx.map fun p => if p.2 < dims then p.1 - (padLo img p.2 : Int) else p.1
    if (List.range dims).any fun d => y.getD d 0 < 0 || (padExt img d : Int) ≤ y.getD d 0 then
      return (hw32 img 18 % 2 ^ (copyDfmt img).width, 0, t)
    else do
      let (v, t) ← sourceElement c src t y
      return ((converted v).1, (converted v).2, t)
  else if opOf img = 2 && entry = 2 ^ 32 - 1 then return ((converted 0).1, (converted 0).2, t)
  else do
    let (v, t) ← sourceElement c src t (if opOf img = 2 then y.set (copyIdim img) (entry : Int) else y)
    return ((converted v).1, (converted v).2, t)

/-- A walk of a copy: the state, the flags, the table's entry in force, and the table reads. -/
abbrev Walk := State × Flags × Nat × Nat

/-- R212: the table is read where the index of its dimension takes a new value. -/
def tableRead (c : Command) (start : Nat) (a : Walk) (n : Nat) : Except EngineFault Walk := do
  let bounds := nestBounds c.nest
  if (opOf c.image = 2 || opOf c.image = 4) && (n = start || n % product (bounds.take (copyIdim c.image)) = 0) then
    let bs ← a.1.engRead (copyTable c.image + 4 * (nestIndex bounds n).getD (copyIdim c.image) 0) 4
    return (a.1, a.2.1, natOfBytes bs, a.2.2.2 + 1)
  else return a

/-- R210: element n of a copy. -/
def copyElement (c : Command) (src dst : Option TensorRec) (start : Nat) (a : Walk) (n : Nat) : Except EngineFault Walk := do
  let (t, fl, entry, reads) ← tableRead c start a n
  let x := nestIndex (nestBounds c.nest) n
  let (v, f, t) ← copiedElement c src t x n entry
  return (← putElement c dst t x v, fl ||| f, entry, reads)

/-- R235: entry n of an address generation: the byte address that a gather would read, or all ones for an entry of all ones. -/
def agenElement (c : Command) (start : Nat) (a : Walk) (n : Nat) : Except EngineFault Walk := do
  let (t, fl, entry, reads) ← tableRead c start a n
  let x : List Int := (nestIndex (nestBounds c.nest) n).map fun (v : Nat) => (v : Int)
  let y := x.set (copyIdim c.image) (entry : Int)
  let v := if entry = 2 ^ 32 - 1 then 2 ^ 64 - 1
    else wrapVa ((copySrc c.image : Int) + elemOffset y (cnestS c.nest) * ((copySfmt c.image).width / 8 : Nat))
  let pl := sidePlace c true
  return (← t.placeWrite pl ((pl.1 : Int) + elemOffset x (cnestD c.nest) * 8) (bytesOfNat 8 v), fl, entry, reads)

/-- R216: the first destination address of a copy with HEN, and the span to the byte after the last element. -/
def copySpan (c : Command) : Nat × Nat :=
  let w := if opOf c.image = 4 then 64 else (copyDfmt c.image).width
  let bounds := nestBounds c.nest
  let at_ (n : Nat) : Int := (elemAt ((sidePlace c true).1 : Nat) (elemOffset (destElement c.image (nestIndex bounds n)) (cnestD c.nest)) w).1
  (wrapVa (at_ 0), wrapVa (at_ (product bounds - 1) + (max 1 (w / 8) : Nat) - at_ 0))

/-- R209, R217, R218: reads the records of the tensor sides, which are valid and have their side's format. -/
def copyRecordsRead (t : State) (c : Command) : Except EngineFault (State × Command) := do
  let named := (if copySmode c.image = 1 then [copySrc c.image] else []) ++ (if copyDmode c.image = 1 then [copyDst c.image] else [])
  let (t, rs) ← (named.drop c.records.length).foldlM (fun (a : State × List (List Byte)) va => do
    let (bs, t) ← a.1.readRecord va
    return (t, a.2 ++ [bs])) (t, c.records)
  return (t, { c with records := rs })

/-- R210 to R217, R235: a copy, from its cursor: every element of the nest in order, dimension 0 innermost. Each table read adds 24 cycles. -/
def copyEffect : CommandEffect := fun t c => do
  let bounds := nestBounds c.nest
  if product bounds = 0 then return (t, c, some 1)
  let (t, c) ← copyRecordsRead t c
  let src := if copySmode c.image = 1 then (c.records.map parseRec).head? else none
  let dst := if copyDmode c.image = 1 then (c.records.map parseRec).getLast? else none
  require (src.all fun r => r.ok && r.fmt = copySfmt c.image)
  require (dst.all fun r => r.ok && r.fmt = copyDfmt c.image)
  let start := nestLinear bounds c.cursor.c
  let each := if opOf c.image = 4 then agenElement c start else copyElement c src dst start
  let (t, fl, _, reads) ← (List.range' start (product bounds - start)).foldlM each (t, 0, 0, 0)
  let c := { c with flags := c.flags ||| fl }
  return (t, if flagOf c.image 1 then { c with aux := 1, places := [(0, 0), copySpan c] } else c, some (1 + 24 * reads))

end Sys2Proof.Claims

/-- R199, R202, R204, R205, R210 to R217, R235: what `MMA`, `MDRAIN`, `MLOAD`, the copies and `AGEN` read and write. Of their choices the model's are
that every access falls in the step in which the command starts (log entry 34), the NaN of an MX block of scale 0xFF (log entry 57), and that a copy
fills no line but by one access (log entry 117). -/
def Sys2Proof.Claims.MatrixAndCopyCommands : Prop :=
  Performs .mma 0 0 0 anyHead mmaEffect ∧ Performs .mdrain 0 0 1 anyHead (overRange drainedBlock) ∧
  Performs .mload 0 0 3 anyHead (overRange loadedBlock) ∧ Performs .cpy 1 1 0 anyHead copyEffect ∧
  Performs .cpyT 1 1 1 anyHead copyEffect ∧ Performs .cpyG 1 1 2 anyHead copyEffect ∧
  Performs .cpyPad 1 1 3 anyHead copyEffect ∧ Performs .agen 1 1 4 anyHead copyEffect

namespace Sys2Proof.Claims

/-! ### Attention -/

/-- A step of the store that succeeds. -/
def gets {α : Type} (t : State) (x : KvCtx → KvM α) : Except EngineFault (α × State) :=
  match t.runKv (x t.kvCtx) with
  | .ok r => .ok r
  | .error _ => stopped

/-- R231, R232, R251: what a command reads first: the descriptor of its handle, once, and its gather list, once; and its page indices, those of
the range that are not beyond the end, or those of the list. -/
def attReads (t : State) (c : Command) : Except EngineFault (State × AttJob) := do
  let (c, t) ← (match c.records, c.handle with
    | [], some h => do
      let (q, u) ← gets t (kvSeq · h.toNat)
      return ({ c with records := [seqBytes q], readAt := t.cycle }, u)
    | [], none => stopped
    | _, _ => .ok (c, t) : Except EngineFault (Command × State))
  let q := parseSeq (c.records.getD 0 [])
  if opOf c.image = 3 then
    let at_ := hw32 c.image 22
    let bs ← if c.records.length = 1 then do
        let n := natOfBytes (← t.engRead at_ 4) % 2 ^ 16
        t.engRead (at_ + 4) (4 * n)
      else .ok (c.records.getD 1 [])
    let c := { c with records := if c.records.length = 1 then c.records ++ [bs] else c.records }
    return (t, ⟨c, q, (List.range (bs.length / 4)).map fun e => bytesAt bs (4 * e) 4⟩)
  else
    let first := hw32 c.image 16
    let count := hw32 c.image 18
    return (t, ⟨c, q, (List.range ((q.end_ + 63) / 64)).filter fun i => first ≤ i && (count = 0 || i < first + count)⟩)

/-- R246, R245: where a command begins, or goes on at its cursor. INIT zeroes the outputs of its rows, makes their states those of no key, and writes the header of its
slot; ACC keeps the state, in a slot that agrees; both begin at entry 0, and RESUME at the stored cursor. -/
def attFrom (t : State) (j : AttJob) : Except EngineFault (State × Nat) := do
  let (lo, hi) := j.rows t.core
  let z := t.core.dle[j.dslot]
  let word := 2 ^ 31 + attNq j.img * 2 ^ 20 + j.seq.dsel * 2 ^ 18 + unsignedOf 10 (anchorOf j.img)
  if j.cmd.aux = 1 then return (t, j.cmd.cursor.entry)
  else if attStart j.img = 1 then
    let u : State :=
      if j.opa then
        { t with core := (List.range ((hi - lo) / 128 * j.cb)).foldl (fun k b => Core.zeroBlock k (j.plane + 4 * b) 4) t.core }
      else
        let record := (((z.record.writeNat 0 4 word).writeNat 8 4 ((j.cmd.handle.map (·.toNat)).getD 0)).writeNat 12 4
          (j.layer + j.head * 2 ^ 16)).writeNat 16 16 0
        t.setDle j.dslot ⟨record, z.ram.write 0 (List.replicate (16 * (hi - lo) * j.seq.d) 0)⟩
    let u ← ((List.range (hi - lo)).map (lo + ·)).foldlM (fun u r => State.putRow u j r ⟨-(2 ^ 31 : Nat), 1, 0⟩) (u.putCursor j 0)
    return (u, 0)
  else
    require (j.opa || z.record.nat 0 4 = word)
    if attStart j.img = 2 then return (t, if j.opa then t.core.opaCursor else z.record.nat 4 4)
    else return (t.putCursor j 0, 0)

/-- R232: the walker copies the table entries of the next page indices, up to 64, to its table in the scratchpad. -/
def walkerRun (j : AttJob) (t : State) (is : List Nat) : Except EngineFault State := do
  let (es, t) ← (is.take 64).foldlM (fun (a : List Nat × State) i => do
    let (e, t) ← gets a.2 (kvNat · (j.seq.entryAt j.layer j.head i) 8)
    return (a.1 ++ [e], t)) ([], t)
  t.engWrite (hw32 j.img 20) (es.flatMap (bytesOfNat 8))

/-- R232, R233: the records of a page index by its table entry: none where the entry is 0. `SSEL` reads those of K alone. -/
def pageRecords (j : AttJob) (t : State) (i : Nat) : Except EngineFault (List (Nat × Page) × State) := do
  let (e, t) ← gets t (kvNat · (j.seq.entryAt j.layer j.head i) 8)
  if e = 0 then return ([], t)
  let ids := if opOf j.img = 2 then (j.seq.idsOf e).take j.seq.halves else j.seq.idsOf e
  require (e % 2 ^ 32 != 0 && e / 2 ^ 32 != 0 && (t.mod.parts[t.partNo].pool.any fun p => ids.all (· < p.nrec)))
  gets t fun k => ids.mapM fun r => do return (r, ← kvPage k r)

/-- The answer of a lender to a command's read of a record. -/
def lenderAnswer (t : State) (j : AttJob) (r : Nat) (o : FabricOp) : Bool :=
  o.die = t.core.die && o.cluster = t.core.cluster && o.core = t.core.number && o.seq = j.cmd.seq && o.id = r

/-- R233: the data of a record, not poisoned: those of its frame in HBM or CXL, or those that its lender has sent. -/
def pageData (j : AttJob) (t : State) (g : Nat × Page) : Except EngineFault (List Byte × State) := do
  let n := dataBytes g.2.format j.seq.dh
  if g.2.tier = 2 then
    match t.mod.ops.find? (lenderAnswer t j g.1) with
    | none => stopped
    | some o => do
      require (!o.bad.any (· < (n + 127) / 128))
      return (padTo n ((o.received.headD (0, [])).2), t)
  else do
    require (t.mod.parts[t.partNo].pool.any fun p => g.2.frame < p.nhbm + p.ncxl)
    gets t (kvData · g.2 j.seq.dh)

/-- R241: one key of one row: the row's state and outputs after it. -/
def keyInto (img : Image) (q : List Val) (row : Row) (o : List Int) (k v : List Val) : Row × List Int :=
  let dot := (exactTree 9 ((q.zip k).map fun x => exactMul x.1 x.2)).1
  let t := (roundTo .f32 .rne false 0 (exactMul (decodeElem .f32 (hw32 img 14)) dot).1).1
  let row := row.setBit 0 false
  match weight t with
  | none => (row.setBit 2 true, o)
  | some (p, top) =>
    let lim : Int := (2 ^ 31 : Nat) - 1
    let m := match top with
      | some c => max (-lim) (min lim (max row.m c))
      | none => row.m
    let (l, f) := accxAdd row.l p (anchorOf img) row.flags
    let (os, f) := (o.zip v).foldl (fun (a : List Int × AccFlags) x =>
      let y := accxAdd x.1 (exactMul p x.2).1 (anchorOf img) a.2
      (y.1 :: a.1, y.2)) ([], f)
    (({ row with m := m, l := l } : Row).setFlags f, os.reverse)

/-- R232, R178: the tail slot of the page ring, claimed once the slot consumed before is released: record k of the page index lies from 18,688 k of
its tile, its scale area 18,432 further on. -/
def slotFilled (j : AttJob) (t : State) (held : Option (Fin 64)) (ds : List Loaded) : Except EngineFault (State × Fin 64) := do
  let t := { t with core := t.core.releaseSlot held }
  let rn : Fin 8 := Fin.ofNat 8 (hwBits j.img 4 3 3)
  require (t.claimState (.ring rn true) matches .ready)
  match t.operandTile (.ring rn true) with
  | none => stopped
  | some slot => do
    let w := t.core.tile[slot]
    require (146 * ds.length ≤ tileLines w)
    let u ← ds.zipIdx.foldlM (fun u d => do
      let u ← State.engWrite u (tileBase w + 18688 * d.2) d.1.2
      State.engWrite u (tileBase w + 18688 * d.2 + 18432) d.1.1.2.scales) (t.onRing rn slot)
    return (u, slot)

/-- R233, R450: REMOTE records whose data are not here are asked for, once, over the ports of their loans; the walker waits for them. -/
def lendersAsked (j : AttJob) (t : State) (gs : List (Nat × Page)) : Option State :=
  let want := gs.filter fun g => g.2.state = 5 && !(t.mod.ops.any fun o => lenderAnswer t j g.1 o && o.met)
  let new := want.filter fun g => !(t.mod.ops.any (lenderAnswer t j g.1))
  let request (g : Nat × Page) : FabricOp := {
    die := t.core.die, cluster := t.core.cluster, core := t.core.number, part := t.partNo, seq := j.cmd.seq
    started := t.cycle, limit := 2 ^ 24, id := g.1, hash := [], ranks := [g.2.lmod, g.2.frame, g.2.slot], rank := 0, desc := []
    expected := dataBytes g.2.format j.seq.dh, received := [], reduced := [], bad := [], met := false, innet := false, fb := false
    lost := false, cut := false, network := false, lanes := [] }
  let port (g : Nat × Page) : Nat := (t.mod.parts[t.partNo].pool.map fun p => p.portOf g.2.lmod g.2.frame).getD 0
  let sent (m : Module) (g : Nat × Page) : Module :=
    (lendingData g.2.lmod 0 g.2.frame g.2.slot [] []).foldl (fun m p => sendVia m t.partNo (Fin.ofNat 6 (port g)) p) m
  if want.isEmpty then none else some { t with mod := new.foldl sent { t.mod with ops := t.mod.ops ++ new.map request } }

/-- R233, R234, R241: one page index with pages that are here: the slot is filled, each record counts as read, and every allowed key that is
valid in every record is added to every row. -/
def pageAttended (j : AttJob) (t : State) (i : Nat) (gs : List (Nat × Page)) (held : Option (Fin 64)) :
    Except EngineFault (State × Fin 64) := do
  let (ds, t) ← gs.foldlM (fun (a : List Loaded × State) g => do
    let (bs, t) ← pageData j a.2 g
    return (a.1 ++ [(g, bs)], t)) ([], t)
  require (t.badPage j.seq.dh ds).isNone
  let (t, slot) ← slotFilled j t held ds
  let (_, t) ← gets t fun k => gs.forM fun g => kvTouch k g.1
  let valid := gs.foldl (fun v g => v &&& g.2.valid) (2 ^ 64 - 1)
  let (lo, hi) := j.rows t.core
  let t ← ((List.range (hi - lo)).map (lo + ·)).foldlM (fun t r => do
    let q ← j.query t r
    let row ← t.getRow j r
    let (row, o) ← (List.range 64).foldlM (fun (a : Row × List Int) p => do
      if bitOf valid p && (← (if bitOf valid p then j.allowed t r (64 * i + p) else .ok false)) then
        return keyInto j.img q a.1 a.2 (j.vector ds 0 p) (j.vector ds j.seq.halves p)
      else return a) (row, t.getOut j lo r)
    State.putRow (t.putOut j lo r o) j r row) t
  return (t, slot)

/-- A walk over the entries: the state, the page slot that the engine consumes, the next entry, and whether the walker waits there. -/
abbrev AttWalk := State × Option (Fin 64) × Nat × Bool

/-- R232, R233, R246, R251: entry e of a command that begins at entry e0; the cursor is then e + 1. A page beyond the end is skipped, and an entry
without pages claims no slot; the walker waits for a lender's data, and for a slot. -/
def attEntry (j : AttJob) (e0 : Nat) (a : AttWalk) (x : Nat × Nat) : Except EngineFault AttWalk := do
  let (t, held, e, waits) := a
  let i := x.1
  if waits then return a
  require (opOf j.img != 3 || ((e = 0 || j.list.getD (e - 1) 0 < i) && i < j.seq.pages))
  let t ← if (e - e0) % 64 = 0 then walkerRun j t (j.list.drop e) else .ok t
  if opOf j.img = 3 && j.seq.end_ ≤ 64 * i then return (t.putCursor j (e + 1), held, e + 1, false)
  let (gs, t) ← pageRecords j t i
  if gs.isEmpty then return ((t.dropRemote j.cmd.seq).putCursor j (e + 1), held, e + 1, false)
  require (gs.all fun g => g.2.state = 1 || g.2.state = 3 || g.2.state = 5)
  require (j.poisonedBlock t.core).isNone
  match lendersAsked j t gs with
  | some t => return (t, held, e, true)
  | none =>
    if !t.pageSlotFree j.img held then return (t, held, e, true)
    let (t, slot) ← pageAttended j t i gs held
    return ((t.dropRemote j.cmd.seq).putCursor j (e + 1), some slot, e + 1, false)

/-- R242: the output bytes of a row, their flags, and the row with its UNDER bit. -/
def rowGives (e : ElemType) (rm : Rm) (row : Row) (o : List Int) : List Byte × Flags × Row :=
  let out (x : Int) : Nat × Flags :=
    if row.bit 0 then (0, 0)
    else if row.bit 2 then (qnan e, flagIV)
    else if row.l = 0 then (0, flagNX)
    else if x = 0 then (0, 0)
    else roundRatio e rm false 0 ((x < 0) != (row.l < 0)) x.natAbs row.l.natAbs
  (o.flatMap fun x => bytesOfNat (e.width / 8) (out x).1, o.foldl (fun f x => f ||| (out x).2) 0,
    row.setBit 1 (row.l = 0 && !row.bit 0 && !row.bit 2))

/-- R242: with FIN, row r writes its d outputs from r × d elements on; the rows' RANGE and NX join the command's flags. -/
def rowsFinished (j : AttJob) (t : State) : Except EngineFault (State × Flags × Bool) := do
  let (lo, hi) := j.rows t.core
  let e : ElemType := match hwBits j.img 8 6 2 with
    | 0 => .f32 | 1 => .bf16 | _ => .f16
  let pl := j.cmd.places.getD 1 (0, 0)
  require (j.poisonedBlock t.core).isNone
  ((List.range (hi - lo)).map (lo + ·)).foldlM (fun (a : State × Flags × Bool) r => do
    let row ← a.1.getRow j r
    let (bs, f, row) := rowGives e ((Rm.ofCode (hwBits j.img 8 3 3)).getD .rne) row (a.1.getOut j lo r)
    let t ← a.1.placeWrite pl (pl.1 + j.seq.d * (e.width / 8) * r : Nat) bs
    let t ← t.putRow j r row
    return (t, a.2.1 ||| f ||| (if row.bit 4 then flagNX else 0), a.2.2 || row.bit 3)) (t, 0, false)

/-- R232, R241, R242, R246, R253: `ATTP`, `ATTD` and `ATTG`, to their end or to a wait. -/
def attEffect : CommandEffect := fun t c => do
  let (t, j) ← attReads t c
  require (j.ok t.core)
  let (t, e0) ← attFrom t j
  let (t, held, e, waits) ← (j.list.zipIdx.drop e0).foldlM (attEntry j e0) (t, c.pageSlot, e0, false)
  let n := j.list.length - e0
  let cycles := 16 + 24 * ((n + 63) / 64) + n * (2 * ((64 * (attNq j.img + 1) * j.seq.d + 2047) / 2048))
  let c := { j.cmd.holding held with aux := 1, cursor := { j.cmd.cursor with entry := e } }
  if waits then return (t, c, none)
  else if attFin c.image then
    let (t, fl, range) ← rowsFinished j t
    return (t, { c with flags := c.flags ||| fl, range := c.range || range }, some cycles)
  else return (t, c, some cycles)

/-- R249: the bound of a query row over the K swatches of a page index. -/
def queryBound (img : Image) (ks : List Page) (q : List Val) : Val :=
  let up (v : Val) : Val := decodeElem .f32 (roundTo .f32 .rup false 0 v).1
  let s := q.zipIdx.foldl (fun (s : Val) x =>
    let k := ks.getD (x.2 / 128) default
    let lo := (exactMul x.1 (decodeElem .bf16 (swatchMin k (x.2 % 128)))).1
    let hi := (exactMul x.1 (decodeElem .bf16 (swatchMax k (x.2 % 128)))).1
    up (exactAdd .rne s (if lo.isNan || hi.isNan then .inf false else if lo.lt hi then hi else lo)).1) Val.zero
  let b := up (exactMul (decodeElem .f32 (hw32 img 14)) s).1
  if b.isNan then .inf false else b

/-- R249: the bound of a page index: the greatest of its rows; +∞ where a K page is ABSENT, −∞ where no position is allowed for any row. -/
def pageBound (j : AttJob) (t : State) (i : Nat) : Except EngineFault (Val × State) := do
  let (gs, t) ← pageRecords j t i
  let ks := gs.map (·.2)
  require (ks.all fun g => g.state != 0 && g.state != 7)
  if gs.isEmpty then return (.inf true, t)
  if ks.any (·.state = 6) then return (.inf false, t)
  let rows := List.range (attNq j.img + 1)
  let valid := (List.range 64).filter fun p => ks.all fun g => bitOf g.valid p
  if !(← rows.anyM fun r => valid.anyM fun p => j.allowed t r (64 * i + p)) then return (.inf true, t)
  let b ← rows.foldlM (fun (b : Val) r => do
    let v := queryBound j.img ks (← j.query t r)
    return if b.lt v then v else b) (.inf true)
  return (b, t)

/-- R250: the gather list: the window pages, the sink page, and of the rest the k highest, or those of τ at least; cut to `cap` in that order, in
ascending page index, with OVF where it was cut. -/
def gatherList (img : Image) (q : Seq) (bs : List (Nat × Val)) : List Byte :=
  let window := bs.filter fun b => q.end_ ≤ 64 * b.1 + 63 + q.w
  let sink := bs.filter fun b => flagOf img 3 && b.1 = 0 && !window.contains b
  let rest := (bs.filter fun b => !window.contains b && !sink.contains b).foldl (fun l b => insertBound b l) []
  let picked := if flagOf img 4 then rest.filter fun b => !b.2.lt (decodeElem .f32 (hw32 img 26))
    else (rest.filter fun b => b.2 != .inf true).take (hw32 img 26)
  let all := (window ++ sink ++ picked).map (·.1)
  let kept := (all.take (hw img 28)).foldl (fun l i => insertNat i l) []
  bytesOfNat 4 (kept.length + (if hw img 28 < all.length then 2 ^ 31 else 0)) ++ kept.flatMap (bytesOfNat 4)

/-- R232, R249, R250, R253: `SSEL` bounds every page of its range, and then writes its list. -/
def sselEffect : CommandEffect := fun t c => do
  let (t, j) ← attReads t c
  require (j.ok t.core)
  let (bs, t) ← j.list.zipIdx.foldlM (fun (a : List (Nat × Val) × State) x => do
    let t ← if x.2 % 64 = 0 then walkerRun j a.2 (j.list.drop x.2) else .ok a.2
    let (b, t) ← pageBound j t x.1
    return (a.1 ++ [(x.1, b)], t)) ([], t)
  let t ← t.engWrite (hw32 c.image 22) (gatherList c.image j.seq bs)
  return (t, j.cmd, some (16 + 24 * ((j.list.length + 63) / 64) + 4 * j.list.length * j.seq.halves))

/-! ### The tile cache -/

/-- R347: the record that a command names, read, checked, and with its tile index in the tensor where the command has one. -/
def tensorNamed (t : State) (c : Command) (tile : Bool) : Except EngineFault (State × Command × TensorRec) := do
  let (t, rs) ← ([quarter c.image 1].drop c.records.length).foldlM (fun (a : State × List (List Byte)) va => do
    let (bs, t) ← a.1.readRecord va
    return (t, a.2 ++ [bs])) (t, c.records)
  let r := parseRec (rs.headD [])
  require (r.ok && (!tile || r.tileIndexOk ((List.range 6).map fun d => hw c.image (8 + d))))
  return (t, { c with records := rs }, r)

/-- R348: the distinct lines that hold elements of a tensor, each under its tag and home. -/
def linesHeld (t : State) (r : TensorRec) (xs : List (List Nat)) : Except EngineFault (List TagLine) := do
  let ls ← xs.mapM fun x => do
    match ← t.tensorPlace accRead r (x.map Int.ofNat) 1 with
    | (pl, some tag) => .ok ⟨r.id, tag, pl.pa / 128, pl.home, false⟩
    | (pl, none) => .ok (⟨0, pl.pa / 128, pl.pa / 128, pl.home, pl.typ = 3⟩ : TagLine)
  return ls.eraseDups

/-- A command of the tile cache: its record is read and checked, and `f` gives the state and the cycles after its first 16. -/
def tcEffect (tile : Bool) (f : State → Image → TensorRec → Except EngineFault (State × Nat)) : CommandEffect := fun t c => do
  let (t, c, r) ← tensorNamed t c tile
  let (t, dur) ← f t c.image r
  return (t, c, some (16 + dur))

/-- The tile index that an image names, and its elements in extent. -/
def tileNamed (img : Image) : List Nat := (List.range 6).map fun d => hw img (8 + d)

/-- R348: `TC.LOOK` writes how many of the tile's lines are present, bit 32 where all are, and bit 33 where one is pinned. -/
def lookEffect (t : State) (img : Image) (r : TensorRec) : Except EngineFault (State × Nat) := do
  let ls ← linesHeld t r (r.tileElems (tileNamed img))
  let here := (t.presentLines ls).length
  let pinned := ls.any fun l => t.mod.l2.any fun x => x.is t.partNo l && x.pinned
  let u ← t.engWrite (hw32 img 14 % 2 ^ 22)
    (bytesOfNat 8 (here + (if here = ls.length then 2 ^ 32 else 0) + (if pinned then 2 ^ 33 else 0)))
  return ({ u with draw := u.draw + ls.length }, ls.length)

/-- R349: the tiles at offsets −1 to 1 in dimensions 0 to 2 that the mask chooses, those that the tensor has. -/
def neighboursNamed (img : Image) (r : TensorRec) : List (List Nat) :=
  let t := tileNamed img
  ((List.range 26).filter fun b => bitOf (hw32 img 14) b).filterMap fun b =>
    let n := if b < 13 then b else b + 1
    let off (d : Nat) : Int := if d < 3 then ((n / 3 ^ d % 3 : Nat) : Int) - 1 else 0
    let x (d : Nat) : Int := (t.getD d 0 : Int) + off d
    let y := (List.range 6).map fun d => (x d).toNat
    if ((List.range 3).all fun d => d ≤ r.ndim || off d = 0) && ((List.range 6).all fun d => 0 ≤ x d) && r.tileIndexOk y then some y else none

/-- R348: `TC.PF` makes the lines of the tile and of the neighbours present in their home L2; those of another die come into this die's RDC
with a new lease. -/
def prefetchEffect (t : State) (img : Image) (r : TensorRec) : Except EngineFault (State × Nat) := do
  let n := t.partNo
  let ls ← linesHeld t r ((tileNamed img :: neighboursNamed img r).flatMap r.tileElems)
  let m := (ls.filter fun l => l.home != t.core.die.val && !l.mside).foldl (fun m l =>
    (m.rdcDrop t.core.die n l.id l.coord).rdcRead ⟨t.core.die, n, l.id, l.coord, l.line, t.cycle⟩) t.mod
  return ({ t with mod := ls.foldl (installLine n) m }, ls.length)

/-- R350: the coordinates of the elements of a halo, in the order in which they are written. -/
def haloOrder (img : Image) (r : TensorRec) : List (List Int) :=
  let t := tileNamed img
  let h := hw32 img 14 / 2 ^ 22 % 256
  let n0 := r.tile.getD 0 0
  let n1 := r.tile.getD 1 0
  (indices ((List.range 4).map fun d => (0, if d + 2 ≤ r.ndim then r.tile.getD (d + 2) 1 else 1))).flatMap fun j =>
    (List.range (n1 + 2 * h)).flatMap fun j1 => (List.range (n0 + 2 * h)).map fun j0 =>
      [((t.getD 0 0 * n0 + j0 : Nat) : Int) - h, ((t.getD 1 0 * n1 + j1 : Nat) : Int) - h] ++ (List.range 4).map fun d =>
        if d + 2 ≤ r.ndim then ((t.getD (d + 2) 0 * r.tile.getD (d + 2) 1 + j.getD d 0 : Nat) : Int) else 0

/-- R350: `TC.HALO` writes the elements of the tile and its border, zero bits for those outside the tensor. -/
def haloEffect (t : State) (img : Image) (r : TensorRec) : Except EngineFault (State × Nat) := do
  let h := hw32 img 14 / 2 ^ 22 % 256
  require (r.fmt.width != 4 && r.ndim != 0 && h ≤ r.tile.getD 0 0 && h ≤ r.tile.getD 1 0)
  let (bs, t) ← (haloOrder img r).foldlM (fun (a : List Byte × State) x => do
    if r.inside x then
      let (e, t) ← a.2.tensorLoad r x (r.fmt.width / 8)
      return (a.1 ++ e, t)
    else return (a.1 ++ List.replicate (r.fmt.width / 8) 0, a.2)) ([], t)
  return (← t.engWrite (hw32 img 14 % 2 ^ 22) bs, bs.length / 128)

/-- R348: the lines of a tensor leave every L2 slice and every RDC; their dirty data are discarded, and their pins removed. -/
def linesDropped (t : State) (r : TensorRec) (ls : List TagLine) : State :=
  let m := (t.mod.l2.filter (tensorHas t.partNo r ls)).foldl uncover t.mod
  { t with mod := { m with
    l2 := m.l2.filter fun x => !tensorHas t.partNo r ls x
    rdc := m.rdc.filter fun x => !tensorInRdc t.partNo r ls x
    gone := (ls.foldl (fun m l => m.noteGone (t.partNo, l.id, l.coord)) m).gone } }

/-- R348: `TC.INV` drops every line of the tensor. -/
def invalidateEffect (t : State) (_ : Image) (r : TensorRec) : Except EngineFault (State × Nat) := do
  return (linesDropped t r (← linesHeld t r r.allElems), 16384 - 16)

/-- R348: `TC.WB` writes every dirty line of the tensor to HBM and leaves it clean; with INV the lines are then dropped as `TC.INV` drops
them. -/
def writeBackEffect (t : State) (img : Image) (r : TensorRec) : Except EngineFault (State × Nat) := do
  let ls ← linesHeld t r r.allElems
  let dirty := t.mod.l2.filter fun x => tensorHas t.partNo r ls x && x.dirty
  let u := { t with mod := dirty.foldl writeBackLine t.mod }
  return (if flagOf img 0 then linesDropped u r ls else u, dirty.length)

/-- R348: `TC.PIN` makes every line of the tensor present and pinned, where no die's budget of 2,048 lines for each of the partition's slices is
passed. -/
def pinEffect (t : State) (_ : Image) (r : TensorRec) : Except EngineFault (State × Nat) := do
  let n := t.partNo
  let ls ← linesHeld t r r.allElems
  let new := ls.filter fun l => !l.mside && !t.mod.l2.any fun x => x.is n l && x.pinned
  require ((List.range 24).all fun d =>
    (t.mod.l2.filter fun x => x.part = n && x.pinned && x.home = d).length + (new.filter fun l => l.home = d).length ≤
      pinBudget t.mod.parts[n] d)
  return ({ t with mod := new.foldl (fun m l =>
    let m := installLine n m l
    { m with l2 := m.l2.map fun x => if x.is n l then { x with pinned := true } else x }) t.mod }, ls.length)

/-- R348: `TC.PIN` with UN unpins every line of the tensor. -/
def unpinEffect (t : State) (_ : Image) (r : TensorRec) : Except EngineFault (State × Nat) := do
  let ls ← linesHeld t r r.allElems
  return ({ t with mod := { t.mod with
    l2 := t.mod.l2.map fun x => if tensorHas t.partNo r ls x then { x with pinned := false } else x } }, ls.length)

end Sys2Proof.Claims

/-- R232, R241, R242, R246, R249, R250, R251, R347 to R350: what attention, selection and the tile cache read and write; `TC.PIN` and
`TC.UNPIN` are told apart by their flag. Of their choices the model's are that every access falls in the step in which the command starts or goes on (log
entry 34), the order of a page's faults (log entry 51), what a bad MX block of a page is (log entry 135), the window pages that stay under a cap (log
entry 137), reserved bits of a row state (log entry 138), when an output is claimed (log entry 141), and that the tile-cache commands need R (log entry 148). -/
def Sys2Proof.Claims.AttentionAndTileCacheCommands : Prop :=
  Performs .attp 2 2 0 anyHead attEffect ∧ Performs .attd 7 2 1 anyHead attEffect ∧ Performs .ssel 7 2 2 anyHead sselEffect ∧
  Performs (.attg true) 2 2 3 anyHead attEffect ∧ Performs (.attg false) 7 2 3 anyHead attEffect ∧
  Performs .tcLook 4 4 0 anyHead (tcEffect true lookEffect) ∧ Performs .tcPf 4 4 1 anyHead (tcEffect true prefetchEffect) ∧
  Performs .tcHalo 4 4 2 anyHead (tcEffect true haloEffect) ∧ Performs .tcInv 4 4 3 anyHead (tcEffect false invalidateEffect) ∧
  Performs .tcWb 4 4 4 anyHead (tcEffect false writeBackEffect) ∧
  Performs .tcPin 4 4 5 (fun c => flagOf c.image 0 = false) (tcEffect false pinEffect) ∧
  Performs .tcUnpin 4 4 5 (fun c => flagOf c.image 0 = true) (tcEffect false unpinEffect)

namespace Sys2Proof.Claims

/-! ### The key-value store -/

def zeros (n : Nat) : List Byte := List.replicate n 0

/-- What a step of the store needs. -/
def kvNeed (p : Bool) : KvM Unit := if p then return () else kvFail (mkFault 0 0)

/-- R419: a command ends: its result stands at its result address where RES asks for it. The spec gives the commands no durations but that of a
registration, and 64 cycles are the model's choice (log entry 59). -/
def gives (t : State) (c : Command) (r : List Byte) (more : Nat := 0) : Except EngineFault (State × Command × Option Nat) := do
  let t ← if hwBits c.image 13 15 1 = 1 then t.engWrite (hwBits c.image 12 0 22) r else .ok t
  return (t, c, some (madCycles + more))

/-- A command of one indivisible step. -/
def stepEffect (f : KvCtx → Image → KvM Nat) : CommandEffect := fun t c => do
  let (v, t) ← gets t (f · c.image)
  gives t c (bytesOfNat 8 v)

/-- One step for each index from the cursor to hi; the cursor keeps the index, and the sum of what the steps answer. -/
def eachIndex (t : State) (c : Command) (hi : Nat) (f : KvCtx → Nat → KvM Nat) : Except EngineFault (State × Command) := do
  let k := t.kvCtx
  let (t, n) ← (List.range' c.cursor.entry (hi - c.cursor.entry)).foldlM (fun (a : State × Nat) i => do
    let (v, t) ← gets a.1 fun _ => f k i
    return (t, a.2 + v)) (t, c.cursor.block)
  return (t, { c with cursor := { c.cursor with entry := c.cursor.entry + (hi - c.cursor.entry), block := n } })

/-- R420, R422: a descriptor written at the lowest index that is not live and that no walker may still read; its handle. -/
def newSequence (k : KvCtx) (q : Seq) : KvM Nat := do
  let p ← kvPool k
  match ← kvFreeIndex k p p.nseq 0 with
  | none => kvFail (mkFault 0 0)
  | some i =>
    let h := k.part.val * 2 ^ 28 + i
    let p ← kvPool k
    kvWrite k (p.seqbase + 256 * (h % 2 ^ 28)) (seqBytes { q with live := true })
    kvOnPool k fun p => { p with freed := p.freed.filter fun f => f.1 != i }
    return h

/-- R420: `KV_NEW` reads an image, zeroes the block table entry by entry, and writes the descriptor with no token; its result is the handle. -/
def newEffect : CommandEffect := fun t c => do
  let (bs, t) ← (match c.records with
    | bs :: _ => .ok (bs, t)
    | [] => gets t fun k => do
      let _ ← kvPool k
      kvRead k (madAddr c.image) 256 : Except EngineFault (List Byte × State))
  require (seqImageOk bs)
  let q := { parseSeq bs with len := 0, tent := 0 }
  let (t, c) ← eachIndex t { c with records := [bs] } (q.layers * q.heads * q.pages) fun k i => do
    kvWrite k (q.btbase + 8 * i) (zeros 8)
    return 0
  let (h, t) ← gets t (newSequence · q)
  gives t c (bytesOfNat 8 h)

/-- R399: `KV_NEW.POOL` reads and checks the pool record of a partition without a pool, and zeroes the page records one by one, 64 cycles each; the
pool is registered when the command retires. -/
def registerEffect : CommandEffect := fun t c => do
  let va := madAddr c.image
  let (bs, t) ← (match c.records with
    | bs :: _ => .ok (bs, t)
    | [] => gets t (kvRead · va 256) : Except EngineFault (List Byte × State))
  let p : Pool := { (default : Pool) with va := va, record := bs }
  require ((t.mod.parts[t.partNo].pool).isNone && poolRecordOk bs && poolRegionsOk t.mod t.die t.partNo p)
  let (t, c) ← eachIndex t { c with records := [bs] } p.nrec fun k i => do
    kvWrite k (p.recbase + 1024 * i) (zeros 1024)
    return 0
  gives t c (bytesOfNat 8 0) (64 * p.nrec)

/-- R421: a fork of the first L tokens shares the pages of the first ⌈L / 64⌉ page indices, each record with a count one higher; its further
entries are zero. -/
def forked (k : KvCtx) (img : Image) : KvM Nat := do
  let h := madHandle img
  let l := madArg0 img
  let q ← kvSeq k h
  let _ ← kvPool k
  kvNeed (l ≤ q.len)
  let m := (l + 63) / 64
  let es ← q.lanes.mapM fun lh => (List.range (min m q.pages)).mapM fun i => kvNat k (q.entryAt lh.1 lh.2 i) 8
  let ids := es.flatten.flatMap q.idsOf
  let gs ← ids.mapM fun r => kvPage k r
  kvNeed (gs.all fun g => g.refcount != 65535)
  let n := { q with btbase := madAddr img, len := l, tent := 0 }
  let new ← newSequence k n
  (q.lanes.zip es).forM fun x => (List.range q.pages).forM fun i =>
    kvWrite k (n.entryAt x.1.1 x.1.2 i) (bytesOfNat 8 (x.2.getD i 0))
  ids.forM fun r => do
    let g ← kvPage k r
    kvPutPage k r { g with refcount := g.refcount + 1 }
  return new

/-- R409: the entries of a sequence at page indices that `out` names are released: each record has one reference less, and one without any becomes
FREE, now or when no walk that may read it remains; the entry is zero. -/
def released (k : KvCtx) (q : Seq) (out : Nat → Bool) : KvM Unit :=
  q.lanes.forM fun lh => ((List.range q.pages).filter out).forM fun i => do
    let e ← kvNat k (q.entryAt lh.1 lh.2 i) 8
    if e = 0 then return ()
    else do
      (q.idsOf e).forM fun r => do
        let g ← kvPage k r
        kvPutPage k r { g with refcount := g.refcount - 1 }
        if g.refcount ≤ 1 then do
          if k.walking k.now || (← kvPool k).inward r then kvOnPool k fun p => { p with pending := p.pending ++ [(r, k.now)] }
          else do
            let p ← kvPool k
            kvWrite k (p.recbase + 1024 * r) (zeros 1024)
        else return ()
      kvWrite k (q.entryAt lh.1 lh.2 i) (zeros 8)

/-- The descriptor of a handle is written. -/
def putSequence (k : KvCtx) (h : Nat) (q : Seq) : KvM Unit := do
  let p ← kvPool k
  kvWrite k (p.seqbase + 256 * (h % 2 ^ 28)) (seqBytes q)

/-- R409: the pages at or beyond the end, or before the sliding window, are released. -/
def settledPages (k : KvCtx) (q : Seq) : KvM Unit :=
  let ws := if q.slide = 0 then 0 else q.len - q.slide
  released k q fun i => q.len + q.tent ≤ 64 * i || 64 * i + 63 < ws

/-- R422: every entry is released, and the descriptor is no longer live. -/
def freed (k : KvCtx) (img : Image) : KvM Nat := do
  let h := madHandle img
  let q ← kvSeq k h
  released k q fun _ => true
  putSequence k h { q with live := false }
  if k.walking k.now then kvOnPool k fun p => { p with freed := p.freed ++ [(h % 2 ^ 28, k.now)] }
  return 0

/-- R410: the tentative tokens are dropped. -/
def truncated (k : KvCtx) (img : Image) : KvM Nat := do
  let q ← kvSeq k (madHandle img)
  putSequence k (madHandle img) { q with tent := 0 }
  settledPages k { q with tent := 0 }
  return q.len

/-- R410: n tentative tokens are committed, and the others dropped. -/
def committed (k : KvCtx) (img : Image) : KvM Nat := do
  let q ← kvSeq k (madHandle img)
  kvNeed (madArg0 img ≤ q.tent)
  let q := { q with len := q.len + madArg0 img, tent := 0 }
  putSequence k (madHandle img) q
  settledPages k q
  return q.len

/-- The entries of page indices that are not 0, with their layer, head and page index. -/
def tableEntries (k : KvCtx) (q : Seq) (is : List Nat) : KvM (List ((Nat × Nat × Nat) × Nat)) :=
  (q.lanes.flatMap fun lh => is.map fun i => (lh.1, lh.2, i)).foldlM (fun a x => do
    let e ← kvNat k (q.entryAt x.1 x.2.1 x.2.2) 8
    return if e = 0 then a else a ++ [(x, e)]) []

/-- R422: the class of a sequence, and of its records: that of a shared record only where it is lower. -/
def classed (k : KvCtx) (img : Image) : KvM Nat := do
  let q ← kvSeq k (madHandle img)
  let cls := madArg0 img % 8
  putSequence k (madHandle img) { q with cls := cls }
  let es ← tableEntries k q (List.range q.pages)
  (es.flatMap fun e => q.idsOf e.2).forM fun r => do
    let g ← kvPage k r
    kvPutPage k r { g with cls := if 1 < g.refcount then min g.cls cls else cls }
  return 0

/-- A record that a page index names, with its layer, head and page index. -/
abbrev Named := (Nat × Nat × Nat) × Nat × Page

/-- The records of one page index in every layer and head. -/
def recordsOf (k : KvCtx) (q : Seq) (i : Nat) : KvM (List Named) := do
  let es ← tableEntries k q [i]
  (es.flatMap fun e => (q.idsOf e.2).map fun r => (e.1, r)).foldlM (fun a x => do return a ++ [(x.1, x.2, ← kvPage k x.2)]) []

/-- R419: the page indices of a range command, from its cursor; it begins at pfirst. -/
def rangeEnd (img : Image) (q : Seq) : Nat :=
  min q.pages (if madArg1 img = 0 then (q.len + q.tent + 63) / 64 else madArg0 img + madArg1 img)
def atFirst (c : Command) (lo : Nat) : Command :=
  if c.aux = 0 then { c with cursor := { c.cursor with entry := lo, block := 0 }, aux := 1 } else c

/-- A range command: one step for each page index; its result is the count of what the steps did. -/
def rangeEffect (f : KvCtx → Seq → Image → Nat → KvM Nat) : CommandEffect := fun t c => do
  let (q, t) ← gets t (kvSeq · (madHandle c.image))
  let (t, c) ← eachIndex t (atFirst c (madArg0 c.image)) (rangeEnd c.image q) fun k i => f k q c.image i
  gives t c (bytesOfNat 8 c.cursor.block)

/-- R423: what may be promoted: pages of every layer and head, none lent out; a CXL frame's data are not poisoned, unless its stream is malformed. -/
def promotable (k : KvCtx) (q : Seq) (i : Nat) : KvM Unit := do
  q.lanes.forM fun lh => do kvNeed ((← kvNat k (q.entryAt lh.1 lh.2 i) 8) != 0)
  (← recordsOf k q i).forM fun r =>
    match r.2.2.state with
    | 0 | 4 | 7 => kvFail (mkFault 0 0)
    | 3 => do
      let x ← kvFetch k r.2.2 q.dh
      kvNeed (x.bad.isEmpty || x.malformed.isSome)
    | _ => return ()

/-- R406, R413, R423: a record gets its frame: an ABSENT one is RESIDENT and empty; another one is IN_TRANSIT with the ready counter and its goal, and
its move is under way, a lender's data being asked for. -/
def moveBegun (k : KvCtx) (q : Seq) (ready goal : Nat) (x : Nat × Nat × Nat) : KvM Unit := do
  let p ← kvPool k
  let old ← kvPage k x.1
  let g : Page := { old with tier := 0, frame := x.2.1, slot := x.2.2 }
  if old.state = 6 then kvPutPage k x.1 { g with valid := 0, swatch := emptySwatch q.dh, loose := false, state := 1 }
  else do
    kvPutPage k x.1 { g with state := 2, ready := ready, target := goal, lmod := 0 }
    let port := p.portOf old.lmod old.frame
    let m : Move := {
      record := x.1, tier := old.tier, frame := old.frame, slot := old.slot, module := old.lmod, port := port
      due := k.now + (if old.state = 5 then 2 ^ 24 else moveCycles), data := none, buf := [], bad := [], own := false }
    kvOnPool k fun p => { p with moves := p.moves ++ [m] }
    if old.state = 5 then (lendingData old.lmod 0 old.frame old.slot [] []).forM (kvSend k port) else return ()

/-- R411, R423: one page index: frames are had for its CXL, REMOTE and ABSENT records, and can be written; then the moves begin. -/
def promotedIndex (k : KvCtx) (q : Seq) (keep : List Nat) (ready goal i : Nat) : KvM Nat := do
  promotable k q i
  let go := (← recordsOf k q i).filter fun r => [3, 5, 6].contains r.2.2.state
  let (ps, _) ← go.foldlM (fun (a : List (Nat × Nat × Nat) × Machine.Taken) r => do
    let (f, s, taken) ← kvTakeFrame k keep a.2 (slotsOf r.2.2.format q.dh)
    return (a.1 ++ [(r.2.1, f, s)], taken)) ([], Machine.Taken.none)
  let p ← kvPool k
  let m ← get
  kvNeed (ps.all fun x => (rangeRefused m k accWrite (p.frameAt x.2.1 + 4608 * x.2.2) 4608).isNone)
  ps.forM (moveBegun k q ready goal)
  return ps.length

/-- R423, R413, R357: `KV_PROMOTE` reads its ready counter once, at its start; it moves its range, and waits for its moves; then it adds 1 to the
counter as a release, and ends with the count of the records moved, and with `STREAM_MALFORMED` where a stream of them was. -/
def promoteEffect : CommandEffect := fun t c => do
  let (q, t) ← gets t (kvSeq · (madHandle c.image))
  let ready := if madAddr c.image = 0 then (t.mod.parts[t.partNo].pool.map Pool.rkpool).getD 0 else madAddr c.image
  let lo := madArg0 c.image
  let (t, c) ← (if c.aux != 0 then .ok (t, c) else do
    let pl ← t.engPlace accCounterRead ready 8
    require (!poisonedIn t.mod.poison pl.pa 8)
    return (t.note (BitVec.ofNat 64 ready) pl true,
      { c with aux := 1, cursor := { c.cursor with entry := lo, block := 0, k := t.mod.mem.nat pl.pa 8 } }) :
    Except EngineFault (State × Command))
  let c := { c with places := t.rangeRecords q lo (rangeEnd c.image q) }
  let (t, c) ← eachIndex t c (rangeEnd c.image q) fun k i => promotedIndex k q (c.places.map (·.1)) ready (c.cursor.k + 1) i
  if t.madWaiting c then return (t, c, none)
  match t.addMemAt (BitVec.ofNat 64 ready) 1 with
  | .error _ => stopped
  | .ok t =>
    let mine (x : Nat × Nat) : Bool := c.places.any fun r => r.1 = x.1
    match t.mod.parts[t.partNo].pool with
    | none => gives t c (bytesOfNat 8 c.cursor.block)
    | some p =>
      let t := { t with mod := { t.mod with parts := t.mod.parts.set t.partNo { t.mod.parts[t.partNo] with
        pool := some { p with malformed := p.malformed.filter fun x => !mine x } } } }
      let c := match p.malformed.find? mine with
        | none => c
        | some x => { c with status := 0x29, statusAt := x.2 }
      gives t c (bytesOfNat 8 c.cursor.block)

/-- R412, R424: the format that an action gives a RESIDENT record, and whether the record stays in HBM; none where it is skipped. -/
def demotedTo (action format : Nat) : Option (Nat × Bool) :=
  match action with
  | 0 | 3 => some (format, false)
  | 1 => some (max 1 format, false)
  | 2 => some (3, false)
  | 4 => if format = 2 then none else some (2, true)
  | 5 => if format = 1 then none else some (1, true)
  | _ => if format = 3 then none else some (3, true)

/-- R424: one page index of a demotion: every RESIDENT record of class 1 to 7 is dropped, goes to CXL, or is requantised where it lies. The data
are all had before anything is written. -/
def demotedIndex (k : KvCtx) (q : Seq) (img : Image) (i : Nat) : KvM Nat := do
  let action := hwBits img 0 0 6
  let p ← kvPool k
  let rs := ((← recordsOf k q i).filter fun r => r.2.2.state = 1 && 1 ≤ r.2.2.cls).filterMap fun r =>
    (demotedTo action r.2.2.format).map fun f => (r.2.1, r.2.2, f.1, f.2)
  if action = 3 then do
    rs.forM fun r => kvPutPage k r.1 { r.2.1 with state := 6, tier := 3, frame := 0, slot := 0, ready := 0, target := 0 }
    return rs.length
  else do
    let (ws, _) ← rs.foldlM (fun (a : List (Nat × Page × List Byte) × List Slots) r => do
      let data ← if r.2.2.1 = r.2.1.format then kvData k r.2.1 q.dh else kvDecoded k r.2.1 q.dh
      let (g, bs, _) := requantise r.2.1 q.dh data r.2.2.1
      let n := slotsOf r.2.2.1 q.dh
      if r.2.2.2 then return (a.1 ++ [(r.1, g, bs)], a.2)
      else do
        match ← kvCxlSlots k a.2 n (p.nrec + 1) with
        | none => kvFail (mkFault 0 0)
        | some (f, s) => return (a.1 ++ [(r.1, { g with state := 3, tier := 1, frame := f, slot := s }, bs)], (f, s, n) :: a.2)) ([], [])
    ws.forM fun w => do
      if w.2.1.tier = 1 then kvPlaceCxl k w.2.1.frame w.2.1.slot (4608 * slotsOf w.2.1.format q.dh) w.2.2 []
      else kvWrite k (p.frameAt w.2.1.frame + 4608 * w.2.1.slot) w.2.2
      kvPutPage k w.1 w.2.1
    return ws.length

/-- R405, R426: the swatches of a page index, from the valid positions of its records in HBM, CXL or a lender's frame. -/
def refreshedIndex (k : KvCtx) (q : Seq) (_ : Image) (i : Nat) : KvM Nat := do
  let rs := (← recordsOf k q i).filter fun r => [1, 3, 5].contains r.2.2.state
  rs.forM fun r => do
    let g := r.2.2
    let data ← kvDecoded k g q.dh
    let values (ch : Nat) : List Val := ((List.range 64).filter fun p => bitOf g.valid p).map fun p => pageValue g q.dh data p ch
    kvPutPage k r.2.1 { g with swatch := mergeSwatch { g with swatch := emptySwatch q.dh } q.dh values, loose := false }
  return rs.length

/-- R417: the image of a record in a page area: its positions at or beyond L are not valid. -/
def exportedImage (g : Page) (l i : Nat) : List Byte :=
  pageBytes { g with
    valid := g.valid % 2 ^ min 64 (l - 64 * i), refcount := 1, state := 1, tier := 0, age := 0, ready := 0, target := 0, frame := 0, slot := 0
    lmod := 0 }

/-- R417, R425: the bytes of one page index in a page area: record images and data, layer by layer and head by head, K before V. -/
def exportedIndex (k : KvCtx) (q : Seq) (l at_ i : Nat) : KvM (List Byte) := do
  let bs ← q.lanes.foldlM (fun bs lh => do
    let e ← kvNat k (q.entryAt lh.1 lh.2 i) 8
    kvNeed (e != 0)
    let more ← (q.idsOf e).foldlM (fun bs r => do
      let g ← kvPage k r
      let p ← kvPool k
      kvNeed ([1, 3, 5].contains g.state)
      let n := 4608 * slotsOf g.format q.dh
      let data ← if g.tier = 0 then do
          let _ ← kvPool k
          kvRead k (p.frameAt g.frame + 4608 * g.slot) n
        else do return padTo n (← kvData k g q.dh)
      return bs ++ exportedImage g l i ++ data) []
    return bs ++ more) []
  kvWrite k at_ bs
  return bs

/-- R425: the bytes that a page area takes. -/
def exportedSize (k : KvCtx) (q : Seq) (l : Nat) : KvM Nat := do
  let es ← tableEntries k q (List.range (min q.pages ((l + 63) / 64)))
  (es.flatMap fun e => q.idsOf e.2).foldlM (fun n r => do return n + 1024 + 4608 * slotsOf (← kvPage k r).format q.dh) 0

/-- R417: the signed part of a mordant record: magic and version, L, the geometry, the pages, the partition's binding, the hash of the page area, and
the signer's key. -/
def mordantRecord (part : Partition) (q : Seq) (l : Nat) (area : List Byte) : List Byte :=
  let geom := q.layers + (q.heads - 1) * 2 ^ 16 + q.dsel * 2 ^ 24 + q.w * 2 ^ 32
  let body := bytesOfNat 8 (0x4B564D52 + 2 ^ 32) ++ bytesOfNat 8 l ++ bytesOfNat 8 geom ++
    bytesOfNat 8 ((l + 63) / 64 * q.layers * q.heads * 2 * q.halves) ++ padTo 32 part.binding ++ padTo 64 (part.binding.drop 32) ++
    padTo 16 (part.binding.drop 96) ++ sha3 area ++ zeros 48 ++ padTo 2592 (Config.publicKey part.attestSeed)
  padTo 8192 (body ++ padTo 4627 (Config.sign part.attestSeed body))

/-- R425: `KV_EXPORT` writes the page area from 8,192 bytes into its buffer, page index by page index, and then the mordant record before it; its
result is the bytes written. -/
def exportEffect : CommandEffect := fun t c => do
  let l := madArg0 c.image
  let base := madAddr c.image
  let part := t.mod.parts[t.partNo]
  require (!part.binding.isEmpty)
  let (q, t) ← gets t (kvSeq · (madHandle c.image))
  require (l ≤ q.len)
  let (n, t) ← if c.aux != 0 then .ok (0, t) else gets t (exportedSize · q l)
  require (c.aux != 0 || 8192 + n ≤ 1024 * madArg1 c.image)
  let c := atFirst c 0
  let (t, c) ← (List.range' c.cursor.entry ((l + 63) / 64 - c.cursor.entry)).foldlM (fun (a : State × Command) i => do
    let (bs, t) ← gets a.1 (exportedIndex · q l (base + 8192 + a.2.cursor.block) i)
    return (t, { a.2 with
      records := a.2.records ++ [bs], cursor := { a.2.cursor with entry := i + 1, block := a.2.cursor.block + bs.length } })) (t, c)
  let (_, t) ← gets t (kvWrite · base (mordantRecord part q l c.records.flatten))
  gives t c (bytesOfNat 8 (8192 + c.cursor.block))

/-- R425: the pages of a page area of npages records, by the channels that its geometry gives. -/
def areaRead (k : KvCtx) (dh npages at_ : Nat) : KvM (List (Page × List Byte × List Byte)) := do
  let (ps, _) ← (List.range npages).foldlM (fun (a : List (Page × List Byte × List Byte) × Nat) _ => do
    let img ← kvRead k a.2 1024
    let n := 4608 * slotsOf (parsePage img).format dh
    let data ← kvRead k (a.2 + 1024) n
    return (a.1 ++ [(parsePage img, img, data)], a.2 + 1024 + n)) ([], at_)
  return ps

/-- R425: the seven checks on a buffer, in their order. -/
def verified (binding rec_ area : List Byte) (q : Seq) (ps : List (Page × List Byte × List Byte)) : Bool :=
  let signer := (rec_.drop 256).take 2592
  let trusted := ((List.range 8).map fun j => padTo 64 (binding.drop (112 + 64 * j))).filter fun d => d.any (· != 0)
  let l := bytesAt rec_ 8 8
  bytesAt rec_ 0 8 = 0x4B564D52 + 2 ^ 32 && Config.verify signer (rec_.take 2848) ((rec_.drop 2848).take 4627) &&
  trusted.contains (sha3 signer) && (rec_.drop 32).take 112 = padTo 112 binding && (rec_.drop 144).take 64 = sha3 area &&
  bytesAt rec_ 24 8 = areaPages q l && bytesAt rec_ 16 8 = geomOf q && l ≤ 64 * q.pages &&
  ps.all fun p => imageFieldsOk p.1 p.2.1

/-- A page index to be imported: its entry's address, and its records with their pages and data. -/
abbrev Import := Nat × List (Nat × Page × List Byte)

/-- R411, R425: the records and frames of one page index of one layer and head are had: the K ids, the V ids, then a frame for each. -/
def importPlanned (k : KvCtx) (q : Seq) (page : Nat → Page × List Byte) (at_ : Nat) (taken : Machine.Taken) : KvM (Import × Machine.Taken) := do
  let (kid, taken) ← kvTakeIds k taken q.halves
  let (vid, taken) ← kvTakeIds k taken q.halves
  let ids := (List.range q.halves).map (kid + ·) ++ (List.range q.halves).map (vid + ·)
  let (rs, taken) ← ids.zipIdx.foldlM (fun (a : List (Nat × Page × List Byte) × Machine.Taken) x => do
    let (g, data) := page x.2
    let (f, s, taken) ← kvTakeFrame k [] a.2 (slotsOf g.format q.dh)
    return (a.1 ++ [(x.1, { g with
      refcount := 1, state := 1, tier := 0, frame := f, slot := s, cls := q.cls, age := 0, ready := 0, target := 0, lmod := 0 }, data)], taken))
    ([], taken)
  return ((at_, rs), taken)

/-- R425: one page index is written: data, records, and its entry. -/
def importWritten (k : KvCtx) (q : Seq) (x : Import) : KvM Unit := do
  x.2.forM fun r => do
    if !r.2.2.isEmpty then
      let p ← kvPool k
      kvWrite k (p.frameAt r.2.1.frame + 4608 * r.2.1.slot) r.2.2
    kvPutPage k r.1 r.2.1
    kvOnPool k fun p => { p with narrow := (if q.dh = 64 then [r.1] else []) ++ p.narrow.filter (· != r.1) }
  let id (j : Nat) : Nat := (x.2.getD j (0, default, [])).1
  kvWrite k x.1 (bytesOfNat 8 (id 0 + id q.halves * 2 ^ 32))

/-- R425: `KV_IMPORT` verifies the buffer, has every record and frame, and writes the sequence: its table, its pages, and its descriptor last. -/
def imported (binding : List Byte) (k : KvCtx) (img : Image) : KvM Nat := do
  let pool ← kvPool k
  let buf := madArg0 img + madArg1 img * 2 ^ 32
  let image ← kvRead k (madAddr img) 256
  kvNeed (seqImageOk image)
  let q := parseSeq image
  let rec_ ← kvRead k buf 8192
  -- the record is checked before the page area is read
  kvNeed (mordantSigned binding rec_)
  let dh := if bytesAt rec_ 16 8 / 2 ^ 24 % 256 = 0 then 64 else 128
  let ps ← areaRead k dh (bytesAt rec_ 24 8) (buf + 8192)
  kvNeed (verified binding rec_ (ps.flatMap fun p => p.2.1 ++ p.2.2) q ps)
  let l := bytesAt rec_ 8 8
  let q := { q with len := l, tent := 0 }
  let places := (List.range ((l + 63) / 64)).flatMap fun i => q.lanes.map fun lh => q.entryAt lh.1 lh.2 i
  let (plans, _) ← places.zipIdx.foldlM (fun (a : List Import × Machine.Taken) x => do
    let page (j : Nat) : Page × List Byte := let p := ps.getD (2 * q.halves * x.2 + j) default; (p.1, p.2.2)
    let (p, taken) ← importPlanned k q page x.1 a.2
    return (a.1 ++ [p], taken)) ([], Machine.Taken.none)
  kvNeed (← kvFreeIndex k pool pool.nseq 0).isSome
  (List.range (q.layers * q.heads * q.pages)).forM fun i => kvWrite k (q.btbase + 8 * i) (zeros 8)
  plans.forM (importWritten k q)
  newSequence k q

/-- The import of a partition that has a binding. -/
def importEffect : CommandEffect := fun t c => do
  require (!(t.mod.parts[t.partNo]).binding.isEmpty)
  stepEffect (imported (t.mod.parts[t.partNo]).binding) t c

/-- R414, R429: the partition has a pool and a job, a module of the job lies beyond the port, and a lane group of the port is up. -/
def portLends (t : State) (port : Fin 6) : Bool :=
  let p := t.mod.parts[t.partNo]
  p.pool.isSome && p.jobId != 0 && (p.beyond port).isSome && !(lanesUp t.mod p port).isEmpty

/-- R411, R414: n whole frames are had, a FREE record is LENT_OUT for each, and the frames are offered to the module beyond the port. -/
def lentFrames (k : KvCtx) (port dst n : Nat) : KvM (List Nat) := do
  let (rs, _) ← (List.range n).foldlM (fun (a : List (Nat × Nat) × Machine.Taken) _ => do
    let (r, taken) ← kvTakeIds k a.2 1
    let (f, _, taken) ← kvTakeFrame k [] taken 4
    return (a.1 ++ [(r, f)], taken)) ([], Machine.Taken.none)
  rs.forM fun r => do
    kvPutPage k r.1 { (default : Page) with state := 4, frame := r.2, lmod := dst, scales := zeros 256, swatch := zeros 512 }
    kvOnPool k fun p => { p with lent := p.lent ++ [⟨r.2, [], [], dst, port, false, none, 0⟩] }
    kvSend k port (lendingControl dst 1 r.2 0)
  return rs.map (·.2)

/-- R414: `KV_LEND` offers its frames and waits for the answers; its result is the number of frames that the borrower took. -/
def lendEffect : CommandEffect := fun t c => do
  let port : Fin 6 := Fin.ofNat 6 (madArg0 c.image)
  let p := t.mod.parts[t.partNo]
  if c.aux = 0 then do
    require (portLends t port)
    let (fs, t) ← gets t (lentFrames · port.val (p.neighbour port) (madArg1 c.image))
    let c := { c with aux := 1, places := fs.map fun f => (f, 0) }
    -- a lending of no frame waits for nothing
    if t.madWaiting c then do
      require (!madWrites c.image || madRes c.image + 8 ≤ 262144 * t.core.ways)
      return (t, c, none)
    else gives t c (bytesOfNat 8 fs.length)
  else do
    let kept := c.places.filter fun r => (p.pool.map fun q => q.lent.any fun l => l.frame = r.1).getD false
    require (!kept.isEmpty || c.places.isEmpty || !(lanesUp t.mod p port).isEmpty)
    gives t c (bytesOfNat 8 kept.length)

/-- R415: `KV_LEND` with RECALL recalls the n frames lent last over its port, with their notice, and waits until they have returned. -/
def recallEffect : CommandEffect := fun t c => do
  let port : Fin 6 := Fin.ofNat 6 (madArg0 c.image)
  let p := t.mod.parts[t.partNo]
  if c.aux = 0 then do
    require (portLends t port)
    let mine := ((p.pool.map (·.lent)).getD []).filter fun l => l.port = port.val && l.recalled.isNone
    let fs := (mine.reverse.take (madArg1 c.image)).map (·.frame)
    let now := t.cycle
    let (_, t) ← gets t fun k => do
      let mark (l : Loan) : Loan := if fs.contains l.frame then { l with recalled := some now, notice := madHandle c.image } else l
      kvOnPool k fun p => { p with lent := p.lent.map mark }
      fs.forM fun f => kvSend k port.val (lendingControl (p.neighbour port) 4 f (madHandle c.image))
    let c := { c with aux := 1, places := fs.map fun f => (f, 0) }
    if t.madWaiting c then do
      require (!madWrites c.image || madRes c.image + 8 ≤ 262144 * t.core.ways)
      return (t, c, none)
    else gives t c (bytesOfNat 8 fs.length)
  else gives t c (bytesOfNat 8 c.places.length)

/-- R426: the eight words of `KV_STAT`, of the pool for handle 0 and else of a sequence. -/
def statistics (k : KvCtx) (img : Image) : KvM (List Byte) := do
  let words (ws : List Nat) : List Byte := ws.flatMap (bytesOfNat 8)
  if madHandle img = 0 then do
    let p ← kvPool k
    let rs ← kvRecords k
    let state (n : Nat) : Nat := (rs.filter fun r => r.2.state = n).length
    let used ← kvUsed k []
    let hbm := (used.filter fun u => u.1 < p.nhbm).foldl (fun n u => n + u.2.2) 0
    let cxl := ((List.range p.ncxl).filter fun f => used.any fun u => u.1 = p.nhbm + f).length
    let inUse := (p.borrowed.filter fun l => rs.any fun r => r.2.state = 5 && r.2.lmod = l.module && r.2.frame = l.frame).length
    return words [state 1, state 2, state 6, 4 * p.nhbm - hbm, p.ncxl - cxl, p.pending.length, p.lent.length,
      p.borrowed.length + inUse * 2 ^ 32]
  else do
    let q ← kvSeq k (madHandle img)
    let es ← tableEntries k q (List.range q.pages)
    let gs ← (es.flatMap fun e => q.idsOf e.2).mapM fun r => kvPage k r
    let n (t : Page → Bool) : Nat := (gs.filter t).length
    return words [q.len, q.tent, gs.length, n (·.state = 6), n (fun g => g.state = 3 || g.state = 5), n (1 < ·.refcount), 0, 0]

def statEffect : CommandEffect := fun t c => do
  let (bs, t) ← gets t (statistics · c.image)
  gives t c bs

end Sys2Proof.Claims

/-- R399, R405, R409 to R426: what the commands of the key-value store read and write; `KV_NEW` and `KV_NEW.POOL`, `KV_LEND` and its recall, are
told apart by flag 0. Of their choices the model's are their 64 cycles (log entry 59), the order of a swatch's zeros (log entry 56), that the result place is
checked first (log entry 58), the cause of an entry 0 in an export (log entry 61), where the cursor stands (log entry 62), what a lending waits for (log
entry 65), the swatch of a page written over (log entry 124), and which CXL records a page brought out can displace (log entry 136). -/
def Sys2Proof.Claims.KeyValueCommands : Prop :=
  let flag (b : Bool) (c : Command) : Prop := flagOf c.image 0 = b
  Performs .kvNew 5 5 0x00 (flag false) newEffect ∧ Performs .kvNewPool 5 5 0x00 (flag true) registerEffect ∧
  Performs .kvFork 5 5 0x01 anyHead (stepEffect forked) ∧ Performs .kvFree 5 5 0x02 anyHead (stepEffect freed) ∧
  Performs .kvTrunc 5 5 0x03 anyHead (stepEffect truncated) ∧ Performs .kvCommit 5 5 0x04 anyHead (stepEffect committed) ∧
  Performs .kvClass 5 5 0x05 anyHead (stepEffect classed) ∧ Performs .kvPromote 5 5 0x06 anyHead promoteEffect ∧
  Performs .kvDemote 5 5 0x07 anyHead (rangeEffect demotedIndex) ∧ Performs .kvExport 5 5 0x08 anyHead exportEffect ∧
  Performs .kvImport 5 5 0x09 anyHead importEffect ∧ Performs .kvLend 5 5 0x0A (flag false) lendEffect ∧
  Performs .kvLendRecall 5 5 0x0A (flag true) recallEffect ∧ Performs .kvStat 5 5 0x0B anyHead statEffect ∧
  Performs .kvSwref 5 5 0x0C anyHead (rangeEffect refreshedIndex)

namespace Sys2Proof.Claims

/-! ### The fabric -/

/-- R429, R433: the partition has a job, a module is one of it, and a lane group towards it is up. -/
def reached (t : State) (m : Nat) : Bool :=
  let p := t.mod.parts[t.partNo]
  p.jobId != 0 && p.isMember m && (p.firstHop m).all fun port => !(lanesUp t.mod p port).isEmpty

/-- This module's identifier in its job. -/
def selfOf (t : State) : Nat := (t.mod.parts[t.partNo]).jobSelf

/-- R434: an operation of a command that waits for the fabric: its limit counts from its start. -/
def operation (t : State) (c : Command) (expected : Nat) : FabricOp :=
  { die := t.core.die, cluster := t.core.cluster, core := t.core.number, part := t.partNo, seq := c.seq, started := t.cycle
    limit := 2 ^ (20 + hwBits c.image 13 0 4), id := 0, hash := [], ranks := [], rank := hwBits c.image 12 0 12, desc := []
    expected := expected, received := [], reduced := [], bad := [], met := false, innet := false, fb := false, lost := false
    network := true, lanes := [], cut := false }

/-- The operation is recorded with the lane groups that take its packets, and the packets are sent, each on the first hop towards its module; the
command waits for what answers them. -/
def asked (t : State) (o : FabricOp) (ps : List Packet) : State :=
  let lanes := (ps.map (·.dst)).filterMap fun d => (t.mod.laneTo o.part d).map (·.val)
  { t with mod := ps.foldl (fun m p => sendOn m o.part p) { t.mod with ops := t.mod.ops ++ [{ o with lanes := lanes.eraseDups }] } }

/-- The part of a run of bytes from j × 8,192 on, with its offset (R430). -/
def partsOf (bs : List Byte) : List (Nat × List Byte) :=
  (List.range ((bs.length + 8191) / 8192)).map fun j => (8192 * j, (bs.drop (8192 * j)).take 8192)

/-- R433, R436: the packet of a part of a put: its destination, an address or with RSP a core's scratchpad, and with HEN the handler and tag of the
context to start. -/
def putPacket (t : State) (c : Command) (total : Nat) (x : Nat × List Byte) : Packet :=
  let img := c.image
  let q2 := quarter img 2
  let rsp := flagOf img 1
  let flags := (if rsp then 1 else 0) + (if flagOf img 2 then 2 else 0) + (if total ≤ x.1 + 8192 then 4 else 0)
  let key := ((t.core.die.val * 6 + t.core.cluster.val) * 8 + t.core.number.val) * 2 ^ 64 + c.seq % 2 ^ 64
  { dst := hwBits img 12 0 12, src := selfOf t, kind := 1, die := if rsp then bitsOf q2 28 5 else 0, core := if rsp then bitsOf q2 22 6 else 0
    number := 0
    op := putBytes (if rsp then bitsOf q2 0 22 else q2) total x.1 flags (bitsOf q2 48 16) (hwBits img 13 4 12) key (hwBits img 13 0 4)
    payload := x.2 }

/-- R435, R436: the parts of a put to the module itself: each is written at its target, or is held there, as one that arrives. -/
def ownPart (t : State) (c : Command) (a : State × Nat) (p : Packet) : Except EngineFault (State × Nat) :=
  match a.1.performPut a.1.partNo p false with
  | .done u => .ok (u, a.2)
  | .fails _ _ => stopped
  | .waits u w =>
    let h : HeldPut := ⟨u.partNo, default, p, w, t.cycle + 2 ^ (20 + hwBits c.image 13 0 4)⟩
    .ok ({ u with mod := { u.mod with held := u.mod.held ++ [h] } }, a.2 + 1)

/-- R436: `FPUT` reads its local source and sends it in parts of 8,192 bytes; a put to the module itself is written, or held, at once. -/
def putEffect : CommandEffect := fun t c => do
  require (reached t (hwBits c.image 12 0 12))
  let len := hw32 c.image 14
  let (bs, t) ← if flagOf c.image 0 then (t.engRead (quarter c.image 1) len).map fun bs => (bs, t)
    else gets t (kvRead · (quarter c.image 1) len)
  let ps := (partsOf bs).map (putPacket t c bs.length)
  if hwBits c.image 12 0 12 = selfOf t then do
    let (u, held) ← ps.foldlM (ownPart t c) (t, 0)
    if held = 0 then return (u, c, some 1) else return (asked u (operation u c held) [], c, some untilAnswered)
  else return (asked t (operation t c ps.length) ps, c, some untilAnswered)

/-- The bytes of a local destination in memory or in the scratchpad (R168, R435). -/
def localWrite (t : State) (scratch : Bool) (a : Nat) (bs : List Byte) : Except EngineFault State := do
  if scratch then t.engWrite a bs
  else do
    require (rangeRefused t.mod t.kvCtx accWrite a bs.length).isNone
    return { t with mod := netWrite t.mod t.kvCtx a bs }

/-- R436: `FGET` asks its module for len bytes from the remote source on; from the module itself it copies them at once. -/
def getEffect : CommandEffect := fun t c => do
  let img := c.image
  let len := hw32 img 14
  require (reached t (hwBits img 12 0 12))
  if hwBits img 12 0 12 = selfOf t then do
    let k : KvCtx := { t.netCtx t.partNo with core := true }
    require (rangeRefused t.mod k accRead (quarter img 1) len).isNone
    let (bs, bad, m) := netRead t.mod k (quarter img 1) len
    require bad.isNone
    return (← localWrite (t.withModule m) (flagOf img 0) (quarter img 2) bs, c, some 1)
  else
    let key := ((t.core.die.val * 6 + t.core.cluster.val) * 8 + t.core.number.val) * 2 ^ 64 + c.seq % 2 ^ 64
    let p : Packet := ⟨hwBits img 12 0 12, 0, 2, 0, 0, 0, opBytes (quarter img 1) len 0 0 0 0 0 key 0, []⟩
    return (asked t { operation t c len with ranks := [quarter img 2, if flagOf img 0 then 1 else 0] } [p], c, some untilAnswered)

/-- R437: `FCADD` sends its increment to the counter's module; a counter of the module itself is added to at once. -/
def addEffect : CommandEffect := fun t c => do
  let img := c.image
  require (reached t (hwBits img 12 0 12))
  if hwBits img 12 0 12 = selfOf t then
    match checkAccess t.mod (t.netCtx t.partNo).die none t.partNo accCounterAdd (BitVec.ofNat 64 (quarter img 1)) 8 with
    | .error _ => stopped
    | .ok pl => match t.addMem t.partNo pl.pa (quarter img 2) with
      | .error _ => stopped
      | .ok u => .ok (u, c, some 1)
  else
    let key := ((t.core.die.val * 6 + t.core.cluster.val) * 8 + t.core.number.val) * 2 ^ 64 + c.seq % 2 ^ 64
    let p : Packet := ⟨hwBits img 12 0 12, 0, 4, 0, 0, 0, opBytes (quarter img 1) (quarter img 2) 0 0 0 0 0 key 0, []⟩
    return (asked t (operation t c 1) [p], c, some untilAnswered)

/-- R443: the fields of a descriptor that every join must agree on: all but src, dst, count and base, and for `COLL` the count. -/
def matchingFields (argmax : Bool) (desc : List Byte) : List Byte :=
  let run (o n : Nat) : List Byte := (desc.drop o).take n
  if argmax then [1] ++ run 16 8 ++ run 28 8 ++ run 40 24 else [0] ++ run 16 8 ++ run 24 4 ++ run 28 8 ++ run 36 4 ++ run 40 24

/-- R439, R440: what a collective reads: its descriptor and its group record, valid; and the members, this die among them, all reached. -/
def collReads' (argmax : Bool) (t : State) (c : Command) : Except EngineFault (List Byte × List Byte × List Nat × State) := do
  let part := t.mod.parts[t.partNo]
  require (part.jobId != 0 && (!fabWrites c.image || fabRes c.image + 8 ≤ 262144 * t.core.ways))
  let (desc, t) ← gets t (kvRead · (quarter c.image 1) 64)
  let at_ := bytesAt desc 16 8
  require (at_ < 2 ^ 57 && at_ % 64 = 0)
  let (head, t) ← gets t (kvRead · at_ 64)
  let n := bytesAt head 0 2
  let (grp, t) ← gets t (kvRead · at_ (64 + 4 * min n 1024))
  match groupMembers grp (part.jobSelf + t.core.die.val * 2 ^ 12) part.isMember with
  | none => stopped
  | some ms => do
    require ((parseColl argmax desc).ok n && ms.all fun m => reached t (m % 2 ^ 12))
    return (desc, grp, ms, t)

/-- R439, R440, R443: `COLL` and `COLL.ARGMAXN` read their descriptor and group, and send a join to every member: of this module to its dies, of
another over the torus. A command that a forced pre-emption cut takes up its joins again. -/
def collEffect (argmax : Bool) : CommandEffect := fun t c => do
  let part := t.mod.parts[t.partNo]
  let (desc, grp, ms, t) ← collReads' argmax t c
  let own := part.jobSelf + t.core.die.val * 2 ^ 12
  let o := { operation t c ms.length with
    id := quarter c.image 2, hash := sha3 grp, ranks := ms, rank := (ms.findIdx? (· = own)).getD 0
    desc := [if argmax then 1 else 0] ++ desc }
  let taken := t.mod.ops.find? fun p =>
    p.cut && p.part = o.part && p.die = o.die && p.id = o.id && p.hash = o.hash && p.rank = o.rank
  match if c.paused then taken else none with
  | some p =>
    let p' := { p with cluster := o.cluster, core := o.core, seq := o.seq, cut := false }
    return ({ t with mod := { t.mod with ops := t.mod.ops.map fun x => if x = p then p' else x } }, c, some untilAnswered)
  | none =>
    let route := part.routes[(Fin.ofNat 64 (bitsOf (bytesAt desc 34 2) 0 6) : Fin 64)]
    let trusted : Bool := route.state = .trusted
    let far := (ms.map (· % 2 ^ 12)).filter (· != part.jobSelf)
    let lanes := (far.filterMap fun d => (t.mod.laneTo o.part d).map (·.val)).eraseDups
    let u := { t with mod := { t.mod with ops := (t.mod.ops ++ [o]).map fun x => if x = o then { o with lanes := lanes } else x } }
    let join (m : Nat) : Join := ⟨t.partNo, bitsOf m 12 5, o.id, o.hash, o.rank, matchingFields argmax desc, trusted, route.epoch⟩
    let packet (m : Nat) : Packet := ⟨m % 2 ^ 12, 0, 6, bitsOf m 12 5, 0, 0,
      opBytes route.epoch 0 0 (if trusted then 1 else 0) 0 0 0 o.id o.rank, o.hash ++ matchingFields argmax desc⟩
    let send (m : Module) (r : Nat) : Module :=
      if r % 2 ^ 12 = part.jobSelf then { m with joins := m.joins ++ [join r] } else sendOn m t.partNo (packet r)
    return ({ u with mod := ms.foldl send u.mod }, c, some untilAnswered)

/-- R446: `FROUTE` read writes the 64 bytes of its entry: state, port, switches, the switch that failed; and the epoch. -/
def routeReadEffect : CommandEffect := fun t c => do
  let p := t.mod.parts[t.partNo]
  require (p.jobId != 0)
  let r := p.routes[(Fin.ofNat 64 (quarter c.image 2) : Fin 64)]
  let state := match r.state with
    | .empty => 0 | .attesting => 1 | .trusted => 2 | .failed => 3
  let bs := bytesOfNat 8 (state + 8 * r.port + 64 * r.switches + 512 * r.fail) ++ bytesOfNat 8 r.epoch ++ zeros 48
  return (← t.engWrite (hwBits c.image 14 0 22) bs, c, some 1)

/-- R447: an entry changes away from TRUSTED: every in-network collective of the partition on it has lost its route. -/
def routeLeft (t : State) (i : Fin 64) (g : Route → Route) : State :=
  let p := t.mod.parts[t.partNo]
  let lost (o : FabricOp) : FabricOp :=
    if o.isColl && o.innet && o.part = t.partNo && (Fin.ofNat 64 o.coll.route : Fin 64) = i then { o with lost := true } else o
  { t with mod := { t.mod with
    parts := t.mod.parts.set t.partNo { p with routes := p.routes.set i (g p.routes[i]) }, ops := t.mod.ops.map lost } }

/-- R447, R387: `FROUTE` attest reads its path descriptor; the entry is ATTESTING at its next epoch, under that epoch's reduction key, with the
descriptor's port and switches; and the first switch is asked. -/
def routeAttestEffect : CommandEffect := fun t c => do
  let i : Fin 64 := Fin.ofNat 64 (quarter c.image 2)
  require ((t.mod.parts[t.partNo]).jobId != 0)
  let (bs, t) ← gets t (kvRead · (quarter c.image 1) 256)
  let n := bytesAt bs 1 1 + 1
  let p := t.mod.parts[t.partNo]
  require (bytesAt bs 0 1 < 8 && n ≤ 8 && ((bs.drop 2).take 62).all (· = 0) && (bs.drop (64 + 16 * n)).all (· = 0) &&
    p.hasEthernet (bytesAt bs 0 1))
  let u := routeLeft t i fun r => { r with
    state := .attesting, epoch := r.epoch + 1, sent := 0, port := bytesAt bs 0 1, switches := bytesAt bs 1 1, fail := 0
    key := (match p.jobKey with
      | none => []
      | some k => kdf k reduceLabel (bytesOfNat 8 i.val ++ bytesOfNat 8 (r.epoch + 1)))
    path := (List.range n).map fun j => (bs.drop (64 + 16 * j)).take 16 }
  let o := { operation u c (2 * n) with id := i.val, desc := bs }
  return (State.askSwitch { u with mod := { u.mod with ops := u.mod.ops ++ [o] } } o, c, some untilAnswered)

/-- R447: `FROUTE` revoke makes its entry EMPTY and keeps the epoch. -/
def routeRevokeEffect : CommandEffect := fun t c => do
  require ((t.mod.parts[t.partNo]).jobId != 0)
  return (routeLeft t (Fin.ofNat 64 (quarter c.image 2)) fun r => { r with state := .empty }, c, some 1)

/-! ### The destination of a collective -/

/-- R441, R442: an element of a reduction: the lanes of every rank's element k, in rank order, combined. -/
def reducedElement (d : Coll) (datas : List (List Byte)) (k : Nat) : (Int × AccFlags) × Flags :=
  match datas.map fun bs => collLane d (bytesAt bs (d.esize * k) d.esize) with
  | [] => ((0, .none), 0)
  | v :: vs => vs.foldl (fun a w => ((collCombine d a.1 w).1, a.2 ||| (collCombine d a.1 w).2)) (v, 0)

/-- R442, R445: the flags of reduced elements: conversions that lost bits raise NX, and RANGE and NAN are reported apart. -/
def elementFlags (ls : List ((Int × AccFlags) × Flags)) : Flags × Bool × Bool :=
  (ls.foldl (fun f l => f ||| l.2 ||| (if l.1.2.nx then flagNX else 0)) 0, ls.any (·.1.2.range), ls.any (·.1.2.nan))

/-- R441: what rank r of P writes, and its flags. -/
def writtenBy (d : Coll) (p r : Nat) (datas : List (List Byte)) : List Byte × Flags × Bool × Bool :=
  match d.kind with
  | 2 => (datas.flatten, 0, false, false)
  | 3 => (datas.getD d.root [], 0, false, false)
  | kind =>
    let all := (List.range (if kind = 1 then p * d.n else d.n)).map (reducedElement d datas)
    let own := (List.range d.n).map fun k => collOutput d (reducedElement d datas (if kind = 1 then r * d.n + k else k)).1
    let f := elementFlags all
    if kind = 4 && r != d.root then ([], f)
    else (own.flatMap (·.1), own.foldl (fun f o => f ||| o.2) f.1, f.2)

/-- R449: the N best candidates of every row, over the candidates that the ranks have sent, best first; an empty slot is filled. -/
def sampledRows (d : Coll) (datas : List (List Byte)) : List Byte × Flags :=
  let n := d.nbest + 1
  let sent (b : Nat) (bs : List Byte) : List Candidate :=
    ((List.range n).map fun i => (bytesAt bs (8 + 8 * (b * n + i)) 4, bytesAt bs (12 + 8 * (b * n + i)) 4)).filter (·.1 != 0xFFFFFFFF)
  let best (b : Nat) : List Candidate := (datas.flatMap (sent b)).foldl (fun l x => insertBest n x l) []
  ((List.range d.root).flatMap fun b => ((best b ++ List.replicate (n - (best b).length) (0xFFFFFFFF, 0xFF800000)).take n).flatMap fun (x : Candidate) =>
      bytesOfNat 4 x.1 ++ bytesOfNat 4 x.2,
    datas.foldl (fun f bs => f ||| BitVec.ofNat 6 (bytesAt bs 0 1)) 0)

/-- R448: what rank r writes of the lanes that the switches have combined: each lane with its NaN bit, behind the flags of every rank. -/
def writtenInNetwork (d : Coll) (r : Nat) (bs : List Byte) : List Byte × Flags × Bool × Bool :=
  let w := d.laneSize
  let h := bytesAt bs 0 8
  let own := (List.range d.n).map fun k =>
    let v := bytesAt bs (8 + w * k) w
    collOutput d (if w = 16 then signedOf 128 v else (v : Int), ⟨false, false, bitOf (bytesAt bs (8 + d.n * w + k / 8) 1) (k % 8)⟩)
  if d.kind = 4 && r != d.root then ([], BitVec.ofNat 6 h, bitOf h 16, bitOf h 17)
  else (own.flatMap (·.1), own.foldl (fun f o => f ||| o.2) (BitVec.ofNat 6 h), bitOf h 16, bitOf h 17)

/-- What a collective whose data are complete writes, with its flags, RANGE and NAN. -/
def collectiveGives (o : FabricOp) : List Byte × Flags × Bool × Bool :=
  if o.coll.argmax then ((sampledRows o.coll o.datas).1, (sampledRows o.coll o.datas).2, false, false)
  else if o.innet then writtenInNetwork o.coll o.rank o.reduced
  else writtenBy o.coll o.ranks.length o.rank o.datas

/-- R445: the result word: INNET, FB, the flags, RANGE, NAN and P. -/
def collectiveWord (o : FabricOp) (f : Flags) (range nan : Bool) : Nat :=
  let b (v : Bool) (n : Nat) : Nat := if v then 2 ^ n else 0
  b o.innet 8 + b o.fb 9 + f.toNat * 2 ^ 10 + b range 16 + b nan 17 + o.ranks.length * 2 ^ 32

/-- R441, R445: a collective of the focus core writes its destination, and then its result where RES asks for it; its operation and its joins are no
more, its flags join its command's, and the command retires in the next cycle. -/
def collectiveDone (s : State) (o : FabricOp) (c : Command) : Except EngineFault State := do
  let (bs, f, range, nan) := collectiveGives o
  let s := { s with mod := { s.mod with joins := s.mod.joins.filter fun j =>
    !(j.part = o.part && j.die = o.die.val && j.id = o.id && j.hash = o.hash) } }
  let t ← if bs.isEmpty then .ok s else localWrite s false o.coll.dst bs
  let t ← if fabWrites c.image then t.engWrite (fabRes c.image) (bytesOfNat 8 (collectiveWord o f range nan)) else .ok t
  let q := t.core.queue[(6 : Fin 8)]
  let done (d : Command) : Command :=
    if d.seq = o.seq then { d with due := t.cycle + 1, flags := d.flags ||| f, range := d.range || range, nan := d.nan || nan } else d
  return { t with
    mod := { t.mod with ops := t.mod.ops.filter fun x => !(x.key = o.key && x.network = o.network && x.id = o.id) }
    core := { t.core with queue := t.core.queue.set 6 { q with started := q.started.map done } } }

end Sys2Proof.Claims

/-- R433 to R449: what the commands of the fabric read, record and send; `FROUTE` by its action. A collective of the focus core whose data are
complete then writes its destination. Of their choices the model's are the operation field of packets and what ranks and switches exchange (log entry 12),
what the limit counts (log entry 68), how a switch is asked (log entry 71), and that a path's port must be the partition's (log entry 143). -/
def Sys2Proof.Claims.FabricCommands : Prop :=
  let action (n : Nat) (c : Command) : Prop := hwBits c.image 0 0 2 = n
  Performs .coll 6 6 0 anyHead (collEffect false) ∧ Performs .collArgmaxn 6 6 1 anyHead (collEffect true) ∧
  Performs .fput 6 6 2 anyHead putEffect ∧ Performs .fget 6 6 3 anyHead getEffect ∧ Performs .fcadd 6 6 4 anyHead addEffect ∧
  Performs .frouteRead 6 6 5 (action 0) routeReadEffect ∧ Performs .frouteAttest 6 6 5 (action 1) routeAttestEffect ∧
  Performs .frouteRevoke 6 6 5 (action 2) routeRevokeEffect ∧
  (∀ (s : State) (o : FabricOp) (c : Command) (t : State), s.meeting = some o → o.met = true →
    o.die = s.core.die → o.cluster = s.core.cluster → o.core = s.core.number →
    (s.core.queue[(6 : Fin 8)]).started.find? (fun c => c.seq = o.seq) = some c → collectiveDone s o c = .ok t →
    exec .collJoinsMet s = .next t)

/-- What each command of the engines reads and writes, element by element: `MatrixAndCopyCommands` and `AttentionAndTileCacheCommands` and `KeyValueCommands` and `FabricCommands`. -/
def Obligations.EngineCommands : Prop := MatrixAndCopyCommands ∧ AttentionAndTileCacheCommands ∧ KeyValueCommands ∧ FabricCommands

/-! ## The key-value store and the fabric -/

/-- R409, R413, R415: a record released becomes FREE once no walk that began before its release remains: its 1,024 bytes are zeroed, where they
can be written, and it is pending no longer; a move that ends is a move no longer and brings its page in; a recalled frame whose notice has
run out loses its pages, those in transit out of it among them; a frame that is empty, or has lost them, is returned to its lender over
the port of its loan. -/
def Sys2Proof.Claims.KeyValueStoreEvents : Prop :=
  (∀ (s : State) (n : Fin 16) (r at_ : Nat) (p : Pool), s.freeable = some (n, r, at_) → s.mod.parts[n].pool = some p →
    let p' : Pool := { p with pending := p.pending.erase (r, at_) }
    let m' : Module := { s.mod with parts := s.mod.parts.set n { s.mod.parts[n] with pool := some p' }, fetched := [] }
    exec .pageFreeLater s = .next { s with mod :=
      match (kvWrite (s.kvCtxOf n) (p'.recAt r) (List.replicate 1024 0)).run m' with
      | .ok (_, m) => m
      | .error _ => m' }) ∧
  (∀ (s : State) (n : Fin 16) (m : Move), (s.poolWith fun _ p => p.endingMove s.cycle) = some (n, m) →
    ∃ u, exec .moveInwardComplete s = .next u ∧ (m.own = false → u.core = s.core ∧
      (∀ p, s.mod.parts[n].pool = some p → (∀ t, s.runKv (kvEndMove (s.kvCtxOf n) m) ≠ .ok ((), t)) →
        u = { s with mod := { s.mod with
          parts := s.mod.parts.set n { s.mod.parts[n] with pool := some { p with moves := p.moves.filter (· != m) } }, fetched := [] } }) ∧
      ∀ t, s.runKv (kvEndMove (s.kvCtxOf n) m) = .ok ((), t) → u = t)) ∧
  (∀ (s : State) (n : Fin 16) (l : Loan), s.expiredLoan = some (n, l) →
    ∃ u, exec .recallNoticeExpiry s = .next u ∧ u.core = s.core ∧
      ∀ t, s.runKv (do
        let c := s.kvCtxOf n
        (← kvInFrame c l).forM fun r => do
          kvPutPage c r.1 r.2.drop
          kvOnPool c fun p => { p with moves := p.moves.filter fun m => m.record != r.1 }
        kvOnPool c fun p => { p with borrowed := p.borrowed.map fun b =>
          if b.module = l.module && b.frame = l.frame then { b with answered := false } else b }) = .ok ((), t) → u = t) ∧
  (∀ (s : State) (n : Fin 16) (l : Loan) (p : Pool), s.returnable = some (n, l) → s.mod.parts[n].pool = some p →
    let back : Pool := { p with borrowed := p.borrowed.filter fun b => !(b.module = l.module && b.frame = l.frame) }
    let m : Module := { s.mod with parts := s.mod.parts.set n { s.mod.parts[n] with pool := some back }, fetched := [] }
    exec .frameReturn s = .next { s with mod := sendVia m n (Fin.ofNat 6 l.port) (lendingControl l.module 3 l.frame 0) })

namespace Sys2Proof.Claims

/-- The table entry that a collective or an attestation names. -/
def routeOf (s : State) (o : FabricOp) (i : Nat) : Route := s.mod.parts[o.part].routes[(Fin.ofNat 64 i : Fin 64)]

end Sys2Proof.Claims

/-- R434, R441, R443, R447, R448, R450: the events of the fabric. Joins that clash fault the collective with `COLLECTIVE_MISMATCH`; joins that have met
let it run in network, where every rank's route is trusted at one epoch, or at the endpoints; data that are complete write its destination;
an in-network collective that lost its route, or another rank of which did, starts again at the endpoints and keeps the data of the
ranks that did so before it, but not one that holds its whole result (the model's choice, log entry 142); an expired limit faults the command with `FABRIC_TIMEOUT`,
and fails the route that an attestation names; an overdue walk of a remote page faults the walker's command; an overdue move faults the
promotions that await it, and asks for its page again, which stays in transit (the asking is the model's choice, log entry 64). -/
def Sys2Proof.Claims.FabricEvents : Prop :=
  (∀ (s : State) (o : FabricOp), s.meeting = some o →
    (o.met = true → exec .collJoinsMet s = .next (s.completeColl o)) ∧
    (o.met = false → joinsClash (s.joinsOf o) = true → exec .collJoinsMet s = .next (s.faultOp o (mkFault 0x42 0))) ∧
    (o.met = false → joinsClash (s.joinsOf o) = false → runsInNetwork o.coll (s.joinsOf o) = false →
      exec .collJoinsMet s = .next (s.runEndpoint o)) ∧
    (o.met = false → joinsClash (s.joinsOf o) = false → runsInNetwork o.coll (s.joinsOf o) = true →
      (∀ f, s.collSource o = .error f → exec .collJoinsMet s = .next (s.faultOp o f)) ∧
      (∀ bs v, s.collSource o = .ok (bs, v) → ∃ t, exec .collJoinsMet s = .next t ∧
        t.mod.ops = v.mod.ops.map (fun x => if x = o then { o with met := true, innet := true } else x) ∧
        (t.mod.sent.drop v.mod.sent.length).flatMap (fun p => p.payload.drop (o.hash.take 8).length) = innetBytes o.coll bs ∧
        t.mod.mem = v.mod.mem ∧ t.core = v.core))) ∧
  (∀ (s : State) (o : FabricOp), s.fallingBack = some o →
    let o' := { o with innet := false, fb := true, reduced := [] }
    exec .collFallback s = .next (((s.setOp o o').dropEth o).runEndpoint o')) ∧
  (∀ (s : State) (o : FabricOp), s.overdueOp = some o →
    (o.isAttest = false → exec .fabricTimeLimit s = .next (s.faultOp o (mkFault 0x40 0))) ∧
    (o.isAttest = true → ∃ u, exec .fabricTimeLimit s = .next (u.faultOp o (mkFault 0x40 0)) ∧
      (routeOf u o o.id).state = .failed ∧ (routeOf u o o.id).fail = o.received.length / 2 ∧
      (routeOf u o o.id).epoch = (routeOf s o o.id).epoch ∧
      (∀ i : Fin 64, i ≠ Fin.ofNat 64 o.id → u.mod.parts[o.part].routes[i] = s.mod.parts[o.part].routes[i]) ∧
      u.mod.ops = s.mod.ops ∧ u.core = s.core)) ∧
  (∀ (s : State) (o : FabricOp), s.overdueRead = some (.page o) →
    let u : State := { s with mod := { s.mod with ops := s.mod.ops.filter fun x => !(!x.network && x.key = o.key) } }
    ∃ q, (q = 2 ∨ q = 7) ∧ exec .remoteReadTimeout s = .next (u.faultWaiting o.die o.cluster o.core q o.seq (mkFault 0x40 0) id)) ∧
  (∀ (s : State) (n : Fin 16) (m : Move) (p : Pool), s.overdueRead = some (.move n m) → s.mod.parts[n].pool = some p →
    ∃ t : State, exec .remoteReadTimeout s = .next (t.faultPromotions n [m.record] 0x40) ∧ t.core = s.core ∧ t.mod.mem = s.mod.mem ∧
      (t.mod.parts[n]).pool = some { p with moves := p.moves.map fun x =>
        if x.record = m.record then { x with due := s.cycle + 2 ^ 24, buf := [], bad := [] } else x })

/-- Events of the key-value store and of the fabric: `KeyValueStoreEvents` and `FabricEvents`. -/
def Obligations.KeyValueAndFabricEvents : Prop := KeyValueStoreEvents ∧ FabricEvents

/-! ## Where the commands of the engines complete -/

namespace Sys2Proof.Claims

/-- A command of engine e with an op code completes its own effect: where the head of queue q starts, with an image that `pre` accepts, and `ok`
holds of the state and the command as the engine takes them up, every access is performed, and the command stands started until its
signal, not faulted and not waiting. `ok` speaks of fields, checks and single accesses. -/
def Does (i : Instr) (q : Fin 8) (e op : Nat) (pre : Image → Prop) (ok : State → Command → Prop) : Prop :=
  ∀ (s : State) (c : Command) (t : State) (c1 : Command), HeadStarts s q e op c → pre c.image → Taken s q c t c1 → ok t c1 →
    ∃ u c2 dur, exec i s = .next (Signals u q c2 dur) ∧ c2.seq = c1.seq ∧ c2.image = c1.image ∧ c2.fault = c1.fault

def anyImage (_ : Image) : Prop := True
/-- Flag 0 of the image is as given. -/
def flag0 (v : Bool) (img : Image) : Prop := flagOf img 0 = v

/-- The accesses of a step of the store succeed: it answers v and leaves u. -/
def Gets {α : Type} (t : State) (x : KvM α) (v : α) (u : State) : Prop := t.runKv x = .ok (v, u)

/-- The accesses of f succeed for the members of a list, one after another, each answering v. -/
def Chain {α β : Type} (t : State) (xs : List α) (f : α → KvM β) (v : β) (u : State) : Prop :=
  ∃ st : Nat → State, st 0 = t ∧ st xs.length = u ∧ ∀ j x, xs[j]? = some x → (st j).runKv (f x) = .ok (v, st (j + 1))

/-- A run of n bytes lies in the scratchpad of the task (R168). -/
def inPad (t : State) (a n : Nat) : Prop := a + n ≤ 262144 * t.core.ways

/-! ### The matrix engine -/

/-- A command on one core from its first block on: the planes of its tile lie in the task's range, and no line of them is poisoned. -/
def wholeTile (t : State) (c : Command) (coop : Bool) : Prop :=
  coop = false ∧ t.ctl.die = t.core.die ∧ t.ctl.number = t.core.cluster ∧
  tilePlane c.image + planeWidth c.image * tileBlocks c.image ≤ t.core.accPlanes ∧ t.core.accPoison = []

/-- The strip of an operand for a block and a k group can be read (R198, R199). -/
def strip (t : State) (c : Command) (operand fmt b g : Nat) : Prop :=
  ∃ l, t.operandStreams (c.places.getD operand (0, 0)) fmt (hw c.image 8 + 1) b g = .ok l

/-- R199: every strip of both operands can be read. -/
def mmaReads (t : State) (c : Command) : Prop :=
  wholeTile t c (flagOf c.image 2) ∧ c.cursor.block = 0 ∧ c.cursor.k = 0 ∧
  ∀ u g, u < tileBlocks c.image → g < hw c.image 8 + 1 →
    strip t c 0 (hwBits c.image 6 4 4) (u / (tileCb c.image + 1)) g ∧ strip t c 1 (hwBits c.image 6 0 4) (u % (tileCb c.image + 1)) g

/-- The blocks of a drain or a load. -/
def rangeBlock (c : Command) (u : Nat) : Prop := rangeUb c.image ≤ u ∧ u < rangeUb c.image + rangeNb c.image

/-- R202: a drain to an element format without a merge, whose rows lie in the destination. -/
def drainWrites (t : State) (c : Command) : Prop :=
  wholeTile t c (flagOf c.image 1) ∧ c.cursor.block ≤ rangeUb c.image ∧ flagOf c.image 2 = false ∧
  rangeUb c.image + rangeNb c.image ≤ tileBlocks c.image ∧
  ∃ e : ElemType, drainFmt (hwBits c.image 5 8 4) = some (.elem e) ∧ ∀ u r, rangeBlock c u → r < 128 →
    let pl := c.places.getD 0 (0, 0)
    let at_ : Nat := pl.1 + rowOffset c.image u r + drainColumn c.image (blockOrigin c.image u).2
    placeFault pl at_ (128 * (e.width / 8)) = none ∧ inPad t at_ (128 * (e.width / 8))

/-- R204: a load whose rows can be read. -/
def loadReads (t : State) (c : Command) : Prop :=
  wholeTile t c (flagOf c.image 1) ∧ c.cursor.block ≤ rangeUb c.image ∧ rangeUb c.image + rangeNb c.image ≤ tileBlocks c.image ∧
  ∀ u r, rangeBlock c u → r < 128 →
    let pl := c.places.getD 0 (0, 0)
    let sz := loadBytes (hwBits c.image 5 8 4)
    ∃ bs, t.placeRead pl (pl.1 + rowOffset c.image u r + (blockOrigin c.image u).2 * sz : Nat) (128 * sz) = .ok bs

/-! ### The copy engine -/

/-- The elements of a copy of which neither side is a tensor. -/
def jobOf (c : Command) : CopyJob := ⟨c, none, none⟩
def elements (c : Command) : Nat := product (nestBounds c.nest)
def indexOf (c : Command) (n : Nat) : List Nat := nestIndex (nestBounds c.nest) n

/-- Both sides lie in the scratchpad, which has no poison. -/
def padSides (t : State) (c : Command) : Prop :=
  copySmode c.image ≠ 0 ∧ copySmode c.image ≠ 1 ∧ copyDmode c.image ≠ 0 ∧ copyDmode c.image ≠ 1 ∧ t.core.scratchPoison = []

/-- Element n can be read at the index that a table entry makes of it, and written (R209). -/
def moves (t : State) (c : Command) (n entry : Nat) : Prop :=
  (∀ x, (jobOf c).sourceIndex (indexOf c n) entry = (some x, false) → ∃ r, (jobOf c).read t x = .ok r) ∧
  ∀ v, ∃ u, (jobOf c).write t (indexOf c n) v = .ok u

/-- The entry of the index table for element n can be read, and is this; no element written lies in the table (R212). -/
def tableEntry (t : State) (c : Command) (n entry : Nat) : Prop :=
  ∃ bs, t.engRead (copyTable c.image + 4 * (indexOf c n).getD (copyIdim c.image) 0) 4 = .ok bs ∧ natOfBytes bs = entry
def clearOfTable (c : Command) (at_ : Int) (n : Nat) : Prop :=
  at_ + n ≤ copyTable c.image ∨ ((copyTable c.image + 4 * cnestBound c.nest (copyIdim c.image) : Nat) : Int) ≤ at_

/-- R210, R211: every element of a plain copy, of a transposing one, of one with padding can be moved. -/
def copyMoves (t : State) (c : Command) : Prop := padSides t c ∧ ∀ n, n < elements c → moves t c n 0

/-- R212: a gather from memory, from its first element on: its table is read where the index of its dimension takes a new value, and
every element is moved by the entry that is then in force, one after another. -/
def gatherMoves (t : State) (c : Command) : Prop :=
  copySmode c.image ≠ 1 ∧ copyDmode c.image ≠ 1 ∧ nestLinear (nestBounds c.nest) c.cursor.c = 0 ∧
  ∃ (st : Nat → State) (entry : Nat → Nat), st 0 = t ∧ ∀ n, n < elements c →
    (if n % product ((nestBounds c.nest).take (copyIdim c.image)) = 0 then tableEntry (st n) c n (entry n) else entry n = entry (n - 1)) ∧
    ∃ fl, (jobOf c).element (st n) (indexOf c n) n (entry n) = .ok (st (n + 1), fl)

/-- R235: every address of an address generation can be written beside its table. -/
def agenWrites (t : State) (c : Command) : Prop :=
  copySmode c.image ≠ 1 ∧ copyDmode c.image ≠ 1 ∧ t.core.scratchPoison = [] ∧ copyIdim c.image ≤ cnestDim c.nest ∧ ∀ n, n < elements c →
    let pl := (jobOf c).place true
    let at_ := (elemAt (pl.1 : Nat) (elemOffset ((indexOf c n).map fun (v : Nat) => (v : Int)) (cnestD c.nest)) 64).1
    (∃ entry, tableEntry t c n entry) ∧ placeFault pl at_ 8 = none ∧ 0 ≤ at_ ∧ inPad t at_.toNat 8 ∧ clearOfTable c at_ 8

/-! ### Attention -/

/-- The descriptor of a handle can be read, and is that of a live sequence (R400). -/
def HandleRead (t : State) (handle : Nat) (q : Seq) (u : State) : Prop :=
  handle / 2 ^ 28 = t.partNo.val ∧ (t.mod.parts[t.partNo]).state = .live ∧ ∃ p bs, (t.mod.parts[t.partNo]).pool = some p ∧
    handle % 2 ^ 28 < p.nseq ∧ Gets t (kvRead t.kvCtx (p.seqbase + 256 * (handle % 2 ^ 28)) 256) bs u ∧ q = parseSeq bs ∧ q.live = true

/-- The command with its descriptor read, and the job it is then. -/
def opened (t : State) (c : Command) (q : Seq) (lists : List (List Byte)) : Command :=
  { c with records := seqBytes q :: lists, readAt := t.cycle }

/-- The rows of state that a command on the OPA keeps in the scratchpad lie in it (R244). -/
def rowsFit (u : State) (j : AttJob) : Prop := attOpa j.img = true → inPad u (hw32 j.img 24) (32 * (j.rows u.core).2)

/-- R232, R241, R246: attention that starts with INIT over a range with no page of the sequence, and gives no outputs yet. -/
def attStarts (t : State) (c : Command) : Prop :=
  c.aux = 0 ∧ c.records = [] ∧ ∃ h q u, c.handle = some h ∧ HandleRead t h.toNat q u ∧
    let j := attJob (opened t c q [])
    j.ok u.core = true ∧ j.list = [] ∧ attStart c.image = 1 ∧ attFin c.image = false ∧ rowsFit u j

/-- R251: the same with a gather list of no entry. -/
def gatherStarts (t : State) (c : Command) : Prop :=
  c.aux = 0 ∧ c.records = [] ∧ ∃ h q u bs, c.handle = some h ∧ HandleRead t h.toNat q u ∧ u.engRead (hw32 c.image 22) 4 = .ok bs ∧
    natOfBytes bs % 2 ^ 16 = 0 ∧
    let j := attJob (opened t c q [[]])
    j.ok u.core = true ∧ attStart c.image = 1 ∧ attFin c.image = false ∧ rowsFit u j

/-- R249: a selection over a range with no page of the sequence, whose list can be written. -/
def selects (t : State) (c : Command) : Prop :=
  c.records = [] ∧ ∃ h q u, c.handle = some h ∧ HandleRead t h.toNat q u ∧
    let j := attJob (opened t c q [])
    j.ok u.core = true ∧ j.list = [] ∧ inPad u (hw32 c.image 22) 4

/-! ### The tile cache -/

/-- The record that a tile-cache command names can be read, and passes the checks of R347; `more` holds of it. -/
def recordRead (t : State) (c : Command) (tile : Bool) (more : State → TensorRec → Prop) : Prop :=
  c.records = [] ∧ ∃ bs u, t.readRecord (quarter c.image 1) = .ok (bs, u) ∧ (parseRec bs).ok = true ∧
    (tile = true → (parseRec bs).tileIndexOk (tcTileIndex c.image) = true) ∧ more u (parseRec bs)

/-- Every element of a list lies in a line that can be reached. -/
def reaches (u : State) (r : TensorRec) (xs : List (List Nat)) : Prop := ∀ x, x ∈ xs → ∃ l, u.lineOfElem r x = .ok l

def tileOf (c : Command) (r : TensorRec) : List (List Nat) := r.tileElems (tcTileIndex c.image)
def tilesAround (c : Command) (r : TensorRec) : List (List Nat) :=
  (tcTileIndex c.image :: ((List.range 26).filter (bitOf (tcArg c.image))).filterMap (neighbourTile r (tcTileIndex c.image))).flatMap r.tileElems

/-- The pins of a tensor's lines stay in the partition's budget on every die (R348). -/
def pinsFit (u : State) (r : TensorRec) : Prop :=
  ∀ ls, u.linesOfElems r r.allElems = .ok ls → ∀ d : Nat, d < 24 →
    (u.mod.l2.filter fun x => x.part = u.partNo && x.pinned && x.home = d).length +
      ((ls.filter fun l => !l.mside && !u.mod.l2.any fun x => x.is u.partNo l && x.pinned).filter fun l => l.home = d).length ≤
        pinBudget u.mod.parts[u.partNo] d

/-- The elements that a halo reads or fills with zeros, in the order of R350. -/
def haloElems (c : Command) (r : TensorRec) : List (List Int) :=
  let t := tcTileIndex c.image
  let h := bitsOf (tcArg c.image) 22 8
  let n0 := r.tile.getD 0 0
  let n1 := r.tile.getD 1 0
  (indices (((List.range 4).map (· + 2)).map fun d => (0, if d ≤ r.ndim then r.tile.getD d 1 else 1))).flatMap fun j =>
    (List.range (n1 + 2 * h)).flatMap fun j1 => (List.range (n0 + 2 * h)).map fun j0 =>
      [((t.getD 0 0 * n0 + j0 : Nat) : Int) - h, ((t.getD 1 0 * n1 + j1 : Nat) : Int) - h] ++ (List.range 4).map fun d =>
        if d + 2 ≤ r.ndim then ((t.getD (d + 2) 0 * r.tile.getD (d + 2) 1 + j.getD d 0 : Nat) : Int) else 0

/-- R350: every element of a halo that lies in the tensor can be read, and the planes fit the scratchpad. -/
def haloMoves (c : Command) (u : State) (r : TensorRec) : Prop :=
  let h := bitsOf (tcArg c.image) 22 8
  let sz := r.fmt.width / 8
  r.fmt.width ≠ 4 ∧ r.ndim ≠ 0 ∧ h ≤ r.tile.getD 0 0 ∧ h ≤ r.tile.getD 1 0 ∧
  inPad u (bitsOf (tcArg c.image) 0 22) (sz * (haloElems c r).length) ∧
  ∃ st : Nat → State, st 0 = u ∧ ∀ k x, (haloElems c r)[k]? = some x →
    if r.inside x = true then ∃ bs, bs.length = sz ∧ (st k).tensorLoad r x sz = .ok (bs, st (k + 1)) else st (k + 1) = st k

/-! ### The fabric -/

/-- R429, R433: the module is another one of the job, with a lane group towards it that is up. -/
def otherModule (t : State) (c : Command) : Prop :=
  t.fabricFault (fabModule c.image) = none ∧ fabModule c.image ≠ (t.mod.parts[t.partNo]).jobSelf

/-- R439, R440: a collective's descriptor and group can be read, and pass their checks, and every member can be reached. -/
def collReads (argmax : Bool) (t : State) (c : Command) : Prop :=
  let part := t.mod.parts[t.partNo]
  part.jobId ≠ 0 ∧ (fabWrites c.image = true → inPad t (fabRes c.image) 8) ∧
  ∃ desc head grp u1 u2 u3, Gets t (kvRead t.kvCtx (quarter c.image 1) 64) desc u1 ∧
    let d := parseColl argmax desc
    d.group < 2 ^ 57 ∧ d.group % 64 = 0 ∧ Gets u1 (kvRead u1.kvCtx d.group 64) head u2 ∧
    Gets u2 (kvRead u2.kvCtx d.group (64 + 4 * min (bytesAt head 0 2) 1024)) grp u3 ∧ d.ok (bytesAt head 0 2) = true ∧
    ∃ ms, groupMembers grp (part.jobSelf + t.core.die.val * 2 ^ 12) part.isMember = some ms ∧ ∀ m, m ∈ ms → u3.fabricFault (m % 2 ^ 12) = none

def routeAction (n : Nat) (img : Image) : Prop := hwBits img 0 0 2 = n
def inJob (t : State) : Prop := (t.mod.parts[t.partNo]).jobId ≠ 0

end Sys2Proof.Claims

/-- R191, R199, R202, R204, R210 to R212, R232, R235, R241, R249, R251, R347 to R350, R433 to R449: where the commands of the matrix engine, the
copy engine, attention, the tile cache and the fabric perform their own effect. Each needs only that its head starts, that its fields
are as named, and that the bytes it reads and writes can be reached. -/
def Sys2Proof.Claims.EngineCommandsComplete : Prop :=
  (Does .mma 0 0 0 anyImage mmaReads ∧ Does .mdrain 0 0 1 anyImage drainWrites ∧ Does .mload 0 0 3 anyImage loadReads) ∧
  (Does .cpy 1 1 0 anyImage copyMoves ∧ Does .cpyT 1 1 1 anyImage copyMoves ∧ Does .cpyG 1 1 2 anyImage gatherMoves ∧
    Does .cpyPad 1 1 3 anyImage copyMoves ∧ Does .agen 1 1 4 anyImage agenWrites) ∧
  (Does .attp 2 2 0 anyImage attStarts ∧ Does .attd 7 2 1 anyImage attStarts ∧ Does .ssel 7 2 2 anyImage selects ∧
    Does (.attg true) 2 2 3 anyImage gatherStarts ∧ Does (.attg false) 7 2 3 anyImage gatherStarts) ∧
  (Does .tcLook 4 4 0 anyImage (fun t c => recordRead t c true fun u r =>
      reaches u r (tileOf c r) ∧ inPad u (bitsOf (tcArg c.image) 0 22) 8) ∧
    Does .tcPf 4 4 1 anyImage (fun t c => recordRead t c true fun u r => reaches u r (tilesAround c r)) ∧
    Does .tcHalo 4 4 2 anyImage (fun t c => recordRead t c true (haloMoves c)) ∧
    Does .tcInv 4 4 3 anyImage (fun t c => recordRead t c false fun u r => reaches u r r.allElems) ∧
    Does .tcWb 4 4 4 anyImage (fun t c => recordRead t c false fun u r => reaches u r r.allElems) ∧
    Does .tcPin 4 4 5 (flag0 false) (fun t c => recordRead t c false fun u r => reaches u r r.allElems ∧ pinsFit u r) ∧
    Does .tcUnpin 4 4 5 (flag0 true) (fun t c => recordRead t c false fun u r => reaches u r r.allElems)) ∧
  (Does .fput 6 6 2 anyImage (fun t c => otherModule t c ∧ ∃ r, t.fabricRead (flagOf c.image 0) (quarter c.image 1) (fabLen c.image) = .ok r) ∧
    Does .fget 6 6 3 anyImage otherModule ∧ Does .fcadd 6 6 4 anyImage otherModule ∧
    Does .coll 6 6 0 anyImage (collReads false) ∧ Does .collArgmaxn 6 6 1 anyImage (collReads true) ∧
    Does .frouteRead 6 6 5 (routeAction 0) (fun t c => inJob t ∧ inPad t (fabRes c.image) 64) ∧
    Does .frouteAttest 6 6 5 (routeAction 1) (fun t c => inJob t ∧ ∃ bs u, Gets t (kvRead t.kvCtx (quarter c.image 1) 256) bs u ∧ pathOk bs = true ∧
      (t.mod.parts[t.partNo]).hasEthernet (bytesAt bs 0 1) = true) ∧
    Does .frouteRevoke 6 6 5 (routeAction 2) (fun t _ => inJob t))

/-! ## Packets and lane groups -/

namespace Sys2Proof.Claims

/-- The lane group with its key ratcheted: the next epoch, whose packets count from 0 both ways (R388). -/
def nextEpoch (x : Lane) : Lane :=
  { x with key := if x.key = [] then [] else (sha3 (x.key ++ ratchetLabel ++ bytesOfNat 8 x.epoch)).take 32, epoch := x.epoch + 1, sent := 0, received := 0 }

/-- The lane group as its next packet finds it: after packet 2^32 - 1 of either direction it is in its next epoch (log entry 127). -/
def inEpoch (x : Lane) : Lane := if 2 ^ 32 ≤ x.sent ∨ 2 ^ 32 ≤ x.received then nextEpoch x else x

/-- The state in which a lane group has counted one packet more, its flits in order again. -/
def counted (s : State) (l : LaneRef) : State :=
  let i := LaneRef.index l
  let x := inEpoch s.mod.lanes[i]
  { s with mod := { s.mod with lanes := s.mod.lanes.set i { x with received := x.received + 1, retries := 0, heard := s.cycle } } }

/-- A packet of a kind arrives on a lane group that is up, of a live partition with a job. -/
def Arrives (s : State) (kind : Nat) (l : LaneRef) (p : Packet) (n : Fin 16) : Prop :=
  p.kind = kind ∧ (s.mod.lanes[LaneRef.index l]).up = true ∧ laneOwner s.mod (LaneRef.index l) = some n ∧
  (s.mod.parts[n]).jobId ≠ 0

/-- A packet for another module is passed on towards it, its source module unchanged. -/
def PassedOn (i : LaneRef → Packet → Instr) (kind : Nat) (own : State → LaneRef → Packet → Prop) : Prop :=
  ∀ (s : State) (l : LaneRef) (p : Packet) (n : Fin 16), Arrives s kind l p n → own s l p → p.dst ≠ (s.mod.parts[n]).jobSelf →
    exec (i l p) s = .next { counted s l with mod := forwardOn (counted s l).mod n p }

/-- A packet for this module is taken in: its step is f. -/
def TakenIn (i : LaneRef → Packet → Instr) (kind : Nat) (own : State → LaneRef → Packet → Prop) (f : State → Fin 16 → LaneRef → Packet → State) :
    Prop :=
  ∀ (s : State) (l : LaneRef) (p : Packet) (n : Fin 16), Arrives s kind l p n → own s l p → p.dst = (s.mod.parts[n]).jobSelf →
    exec (i l p) s = .next (f (counted s l) n l p)

/-- No put waits for its core in the same packet. -/
def notHeld (s : State) (l : LaneRef) (p : Packet) : Prop := ∀ h, h ∈ s.heldPuts → ¬(h.lane = l ∧ h.packet = p)
/-- The packet on an Ethernet port, of the entry that the answer names, to which it is the answer. -/
def acknowledges (p : Packet) (e : EthPacket) : Prop :=
  e.part = p.entry.1 ∧ e.route = p.entry.2 ∧ e.packet.key = p.key ∧ e.packet.number = p.number
/-- An answer of a module. -/
def ofModule (_ : State) (_ : LaneRef) (p : Packet) : Prop := p.src ≠ switches
/-- Data of a rank, not of a switch. -/
def ofRank (_ : State) (_ : LaneRef) (p : Packet) : Prop := p.flag 3 = false
def anyPacket (_ : State) (_ : LaneRef) (_ : Packet) : Prop := True

/-- Sends packets in order. -/
def sendAll (s : State) (n : Fin 16) (ps : List Packet) : State := { s with mod := ps.foldl (fun m q => sendOn m n q) s.mod }

/-- An answer of a cause (0: none) and an address to a packet. -/
def answered (s : State) (n : Fin 16) (p : Packet) (f : Option (Nat × Nat)) : State :=
  { s with mod := sendOn s.mod n (answerTo p ((f.map (·.1)).getD 0) ((f.map (·.2)).getD 0)) }

end Sys2Proof.Claims

/-- R429 to R431: a packet that arrives on a lane group that is up, and is not for this module, is counted and sent on by the first hop towards its
module, whatever its kind; nothing else changes. -/
def Sys2Proof.Claims.PacketsArePassedOn : Prop :=
  PassedOn .packetWrite 1 notHeld ∧ PassedOn .packetReadRequest 2 anyPacket ∧ PassedOn .packetReadData 3 anyPacket ∧
  PassedOn .packetCounterAdd 4 anyPacket ∧ PassedOn .packetAcknowledge 5 ofModule ∧ PassedOn .packetCollectiveJoin 6 anyPacket ∧
  PassedOn .packetCollectiveData 7 ofRank ∧ PassedOn .packetLendingControl 8 anyPacket ∧ PassedOn .packetLendingData 9 anyPacket

/-- R435 to R437, R443, R447, R448, R450: packets for this module. A put is written, with its answer, or refused with a cause, or held until its core
can take it; a request for data is answered in parts of 8,192 bytes; an add is added and answered; a join is recorded; data of a
collective come to its operation; answers come to the command, or to the packet on an Ethernet port, that awaits them; lending packets act on
the pool, over the port they came by. A held put that is taken
up again has left the held ones, and one whose time limit has passed is held no longer (that the limit counts from the arrival is the model's
choice, log entry 133, as are the layout of the operation field of packets and the causes of answers, log entry 12, and that switches answer an
attestation with acknowledge packets, log entry 71). -/
def Sys2Proof.Claims.PacketsAreTakenIn : Prop :=
  TakenIn .packetWrite 1 notHeld (fun s n l p => s.receivePut n l p) ∧
  (∀ (s : State) (l : LaneRef) (p : Packet) (h : HeldPut), (s.heldPuts.find? fun h => h.lane = l && h.packet = p) = some h →
    exec (.packetWrite l p) s = .next (s.receivePut h.part l p)) ∧
  (∀ (s : State) (n : Fin 16) (l : LaneRef) (p : Packet),
    let mine (h : HeldPut) : Bool := h.part = n && h.packet = p
    let written : Bool := s.heldPuts.any fun h => mine h && h.written
    let limit : Nat := ((s.heldPuts.find? mine).map (·.limit)).getD (s.cycle + p.limit)
    let u : State := { s with mod := { s.mod with held := s.heldPuts.filter fun h => !mine h } }
    (∀ t, u.performPut n p written = .done t → s.receivePut n l p = t.sendAnswer n (answerTo p 0 0)) ∧
    (∀ c a, u.performPut n p written = .fails c a → s.receivePut n l p = u.sendAnswer n (answerTo p c a)) ∧
    (∀ t w, u.performPut n p written = .waits t w →
      s.receivePut n l p = { t with mod := { t.mod with held := t.mod.held ++ [⟨n, l, p, w, limit⟩] } })) ∧
  TakenIn .packetReadRequest 2 anyPacket (fun s n _ p =>
    let got := s.performGet (s.netCtx n) p.base p.total
    let t := sendAll got.2.2 n ((packetParts got.1).map fun x => ⟨p.src, 0, 3, 0, 0, 0, opBytes p.base p.total x.1 0 0 0 0 p.key 0, x.2⟩)
    if got.2.1.isSome then answered t n p got.2.1 else t) ∧
  (∀ (s : State) (l : LaneRef) (p : Packet) (n : Fin 16), Arrives s 3 l p n → p.dst = (s.mod.parts[n]).jobSelf →
    (∀ o, (counted s l).opOfKey n p.key = some o →
      ¬∃ k, k ∈ s.core :: s.parked ∧ k.die = o.die ∧ k.cluster = o.cluster ∧ k.number = o.core) →
    exec (.packetReadData l p) s = .next (counted s l)) ∧
  (∀ (s : State) (l : LaneRef) (p : Packet) (n : Fin 16) (o : FabricOp) (u : State), Arrives s 3 l p n → p.dst = (s.mod.parts[n]).jobSelf →
    (counted s l).opOfKey n p.key = some o → s.core.die = o.die → s.core.cluster = o.cluster → s.core.number = o.core →
    (counted s l).fabricWrite (o.ranks.getD 1 0 = 1) (o.ranks.headD 0 + p.offset) p.payload = .ok u →
    let o' := { o with received := (p.offset, p.payload) :: o.received.filter fun r => r.1 != p.offset }
    (o.expected ≤ (o'.received.map fun r => r.2.length).sum → exec (.packetReadData l p) s = .next (u.finishOp o 0 false false)) ∧
    ((o'.received.map fun r => r.2.length).sum < o.expected → exec (.packetReadData l p) s = .next (u.setOp o o'))) ∧
  TakenIn .packetCounterAdd 4 anyPacket (fun s n _ p => match s.performAdd n p.base p.total with
    | .error f => answered s n p (some f)
    | .ok t => answered t n p none) ∧
  TakenIn .packetAcknowledge 5 ofModule (fun s n _ p => s.receiveAnswer n p) ∧
  (∀ (s : State) (l : LaneRef) (p : Packet), p.kind = 5 → p.src = switches → p.flag 4 = true →
    (∀ o, s.opOfKey p.entry.1 p.key = some o → o.isAttest = true → o.id = p.entry.2.val →
      exec (.packetAcknowledge l p) s = .next (s.receiveSwitch o p)) ∧
    ((∀ o, s.opOfKey p.entry.1 p.key = some o → o.isAttest = false ∨ o.id ≠ p.entry.2.val) → exec (.packetAcknowledge l p) s = .next s)) ∧
  (∀ (s : State) (l : LaneRef) (p : Packet), p.kind = 5 → p.src = switches → p.flag 4 = false → ∃ t, exec (.packetAcknowledge l p) s = .next t ∧
    t = { s with mod := { s.mod with eth := t.mod.eth } } ∧ ∀ x, x ∈ t.mod.eth ↔ x ∈ s.mod.eth ∧ ¬acknowledges p x) ∧
  TakenIn .packetCollectiveJoin 6 anyPacket (fun s n _ p => { s with mod := { s.mod with joins := s.mod.joins ++
      [⟨n, p.die, p.key, p.payload.take 64, p.rank, p.payload.drop 64, p.flag 0, p.base⟩] } }) ∧
  TakenIn .packetCollectiveData 7 ofRank (fun s n _ p =>
    match s.mod.ops.find? fun o => o.isColl && o.part = n && o.die.val = p.die && o.id = p.key && o.hash.take 8 = p.payload.take 8 with
    | none => s
    | some o => s.setOp o (o.take p.rank (p.payload.drop 8))) ∧
  (∀ (s : State) (l : LaneRef) (p : Packet), p.kind = 7 → p.flag 3 = true →
    let to_ := s.mod.ops.find? fun o => o.isColl && o.innet && o.part = p.entry.1 && (Fin.ofNat 64 o.coll.route : Fin 64) = p.entry.2 &&
      o.die.val = p.die && o.id = p.key && o.hash.take 8 = p.payload.take 8 && s.opAlive o
    (to_ = none → exec (.packetCollectiveData l p) s = .next s) ∧
    ∀ o, to_ = some o → exec (.packetCollectiveData l p) s =
      .next ((s.setOp o { o with reduced := o.reduced ++ p.payload.drop 8 }).dropEth o)) ∧
  TakenIn .packetLendingControl 8 anyPacket (fun s n l p => match s.runKv (kvLendingControl (s.kvCtxOf n) l.port.val p) with
      | .ok (_, t) => t
      | .error _ => s) ∧
  TakenIn .packetLendingData 9 (fun _ _ p => lendWhat p = 2) (fun s n _ p => s.bringPage n p) ∧
  (∀ (s : State) (l : LaneRef) (p : Packet) (n : Fin 16) (q : Pool) (m : Loan) (u : State), Arrives s 9 l p n → p.dst = (s.mod.parts[n]).jobSelf →
    (s.mod.parts[n]).pool = some q → m ∈ q.lent → m.module = p.src → m.frame = lendFrame p → lendWhat p ≠ 0 → lendWhat p ≠ 2 →
    (counted s l).runKv (kvWriteLines ((counted s l).kvCtxOf n) (q.frameAt (lendFrame p) + 4608 * lendSlot p + lendOffset p) p.payload
      ((List.range 64).filter (bitOf (p.field 16 8)))) = .ok ((), u) →
    exec (.packetLendingData l p) s = .next u)

/-- Packets are passed on towards their module, or taken in by it: `PacketsArePassedOn` and `PacketsAreTakenIn`. -/
def Obligations.Packets : Prop := PacketsArePassedOn ∧ PacketsAreTakenIn

/-- R388, R431, R432, R447, R448, R450, R451: a lane group. A tag failure takes it down and destroys its link key (that of a switch's reduction packet
fails the route trust entry instead), and the sixteenth failed flit in a row
and 2^20 cycles without a flit take it down, with a report to its owner; a failed flit before that counts; it comes up again with its state,
but after a tag failure only under a new job key; its key is ratcheted after 2^32 packets of an epoch, of either direction (the model's choice,
log entry 127), and the next packet of its owner is numbered in the next epoch. Of a port whose lane groups are all
down, and of the commands that lost packets, `State.laneDown` says what follows; here no pool and no command is there to follow. An Ethernet
packet not acknowledged for 2^16 cycles is sent again, eight times; then its collective has lost its route. -/
def Obligations.LaneGroups : Prop :=
  (∀ (s : State) (l : LaneRef) (p : Packet), ¬(p.kind = 7 ∧ p.flag 3 = true) → ∃ t, exec (.packetAuthFail ⟨l, p⟩) s = .next t ∧
    (s.mod.ops = [] → (∀ n : Fin 16, (s.mod.parts[n]).pool = none) →
      t = s.laneDown l true (if p.kind = 0 ∨ 9 < p.kind then 0x40 else 0x41) ∧
      t.mod.lanes = s.mod.lanes.set (LaneRef.index l)
        { s.mod.lanes[LaneRef.index l] with up := false, tagFailed := true, key := [], retries := 0 } ∧
      t.mod.mem = s.mod.mem ∧ t.core = s.core ∧ t.ctl = s.ctl ∧
      t.mod.controllerReports = (match laneOwner t.mod (LaneRef.index l) with
        | some n => (some n, if p.kind = 0 ∨ 9 < p.kind then 0x40 else 0x41) :: s.mod.controllerReports
        | none => s.mod.controllerReports))) ∧
  (∀ (s : State) (l : LaneRef) (p : Packet), p.kind = 7 → p.flag 3 = true →
    let n := p.entry.1
    let i := p.entry.2
    ((s.mod.parts[n]).routes[i].state ≠ .trusted → exec (.packetAuthFail ⟨l, p⟩) s = .next s) ∧
    ((s.mod.parts[n]).routes[i].state = .trusted → exec (.packetAuthFail ⟨l, p⟩) s = .next { s with mod := { s.mod with
      parts := s.mod.parts.set n { s.mod.parts[n] with
        routes := (s.mod.parts[n]).routes.set i { (s.mod.parts[n]).routes[i] with state := .failed, fail := 7 } }
      ops := s.mod.ops.map fun o =>
        if o.isColl && o.innet && o.part = n && (Fin.ofNat 64 o.coll.route : Fin 64) = i then { o with lost := true } else o } })) ∧
  (∀ (s : State) (l : LaneRef), let x := s.mod.lanes[LaneRef.index l]
    (x.up = true → x.retries < 15 → exec (.flitRetry l) s = .next (s.onLane l fun x => { x with retries := x.retries + 1 })) ∧
    (x.up = true → 15 ≤ x.retries → exec (.flitRetry l) s = .next (s.laneDown l false 0x40)) ∧
    (x.up = true → x.heard + 2 ^ 20 ≤ s.cycle → exec (.laneIdleTimeout l) s = .next (s.laneDown l false 0x40)) ∧
    (x.up = false ∨ s.cycle < x.heard + 2 ^ 20 → exec (.laneIdleTimeout l) s = .next s) ∧
    (x.up = false → exec (.flitRetry l) s = .next s) ∧
    (s.mod.ops = [] → (∀ n : Fin 16, (s.mod.parts[n]).pool = none) → 
      (s.laneDown l false 0x40).mod.lanes = s.mod.lanes.set (LaneRef.index l) { x with up := false, retries := 0 } ∧
      (s.laneDown l false 0x40).mod.mem = s.mod.mem ∧ (s.laneDown l false 0x40).core = s.core) ∧
    (x.tagFailed = false ∨ x.key ≠ [] →
      exec (.laneGroupUp l) s = .next (s.onLane l fun x => { x with up := true, tagFailed := false, retries := 0, heard := s.cycle })) ∧
    (x.tagFailed = true → x.key = [] → exec (.laneGroupUp l) s = .next s) ∧
    (2 ^ 32 ≤ x.sent ∨ 2 ^ 32 ≤ x.received → exec (.linkKeyRatchet l) s = .next (s.onLane l nextEpoch))) ∧
  (∀ (m : Module) (n : Fin 16) (i : Fin 24) (p : Packet), (m.onWire n i p).sent = m.sent ++ [{ p with number := (inEpoch m.lanes[i]).sent }] ∧
    (inEpoch m.lanes[i]).sent < 2 ^ 32 ∧ (m.onWire n i p).lanes = m.lanes.set i { inEpoch m.lanes[i] with
      sent := (inEpoch m.lanes[i]).sent + 1, nonce := (m.parts[n]).nonceOf i (inEpoch m.lanes[i]).epoch (inEpoch m.lanes[i]).sent }) ∧
  (∀ (s : State) (port : Fin 8) (e : EthPacket), s.unacknowledged port = some e →
    (e.resends < 8 → exec (.ethResendTimeout port) s = .next { s with mod := { s.mod with
      sent := s.mod.sent ++ [e.packet]
      eth := s.mod.eth.map fun x => if x = e then { e with sentAt := s.cycle, resends := e.resends + 1 } else x } }) ∧
    (8 ≤ e.resends → ∃ t, exec (.ethResendTimeout port) s = .next t ∧ (∀ x, x ∈ t.mod.eth ↔ x ∈ s.mod.eth ∧ x ≠ e) ∧
      t.mod.ops.map (·.seq) = s.mod.ops.map (·.seq) ∧
      (∀ o, o ∈ s.mod.ops → o.innet = true → e.isOf o = true → { o with lost := true } ∈ t.mod.ops) ∧
      (∀ o, o ∈ t.mod.ops → o ∈ s.mod.ops ∨ (o.lost = true ∧ o.innet = true ∧ e.isOf o = true)) ∧
      t.core = s.core ∧ t.mod.mem = s.mod.mem))

/-! ## The cluster controller and its scoreboard -/

namespace Sys2Proof.Claims

/-- The head of the controller's queue passes its checks, its wait is satisfied, and it has the op code. -/
def HeadActs (s : State) (op : Nat) (c : Command) : Prop :=
  s.asController.ctlHead = some c ∧ opOf c.image = op ∧ s.asController.ctlReady c = true ∧ clusterOk c.image = true

/-- The state without the head in its queue, the controller acting. -/
def dropped (s : State) (c : Command) : State := s.asController.ctlDrop c

/-- A new entry stands last in the scoreboard, with the command, its tag and its ranges, not issued; it is as `more` says. Nothing else than the
cluster's scoreboard differs from u. -/
def Accepted (u t : State) (op : EntryOp) (c : Command) (ranges : List Range) (more : Entry → Prop) : Prop :=
  ∃ e, t = u.accept e ∧ t.ctl.entries = u.ctl.entries ++ [e] ∧ e.op = op ∧ e.cmd = c ∧ e.tag = tagOfImage c.image ∧ e.ranges = ranges ∧
    e.issued = false ∧ e.cx = false ∧ e.next = 0 ∧ e.done = 0 ∧ e.status = 0 ∧ more e

/-- An entry of a launch that was read. -/
def ofLaunch (h : Header) (r : LaunchRecord) (total : Nat) (set : Option Nat) (e : Entry) : Prop :=
  e.header = h ∧ e.record = r ∧ e.prio = h.prio ∧ e.total = total ∧ e.set = set

/-- A rejected launch: its record is written with the status and the resource, its counters are added to, and its command retires. -/
def rejected (u : State) (c : Command) (r : LaunchRecord) (status resource : Nat) : State :=
  (u.retireSteps c r status (completionBytes status resource 0 0 0 0 false)).ctlRetire c

/-- No command of a kind that has been accepted waits to act. -/
def noneActs (s : State) (op : EntryOp) : Prop := s.asController.actingEntry op = none

/-- Every core of a group of the cluster is as g makes it. -/
def onGroup (s : State) (g : List Nat) (f : Core → Core) : State := g.foldl (fun s n => s.onClusterCore n f) s

end Sys2Proof.Claims

/-- R299, R303, R315, R318 to R321, R324, R325: a command at the head of the controller's queue that is accepted makes an entry of the scoreboard. A launch
and a take read their header, record and ranges, or are rejected with a status; a stream, an append, an acceptance of drafts and a
`QUIESCE` make an entry of their own; a replay latches the parameters of its graph, whose nodes' alignment is not checked (the model's choice, log entry 151). -/
def Sys2Proof.Claims.ClusterCommandsAccepted : Prop :=
  (∀ (s : State) (c : Command) (u : State), HeadActs s 0 c →
    (∀ h r ranges total, (dropped s c).readLaunch (quarter c.image 1) (quarter c.image 2) false = (.ok h r ranges total, u) →
      ∃ t, exec .klaunch s = .next t ∧ Accepted u t .launch c ranges (ofLaunch h r total none)) ∧
    (∀ r status res, (dropped s c).readLaunch (quarter c.image 1) (quarter c.image 2) false = (.rejected r status res, u) →
      exec .klaunch s = .next (rejected u c r status res))) ∧
  (∀ (s : State) (c : Command), HeadActs s 5 c →
    ∃ t, exec .quiesce s = .next t ∧ Accepted (dropped s c) t .quiesce c [] fun e => e.complete = true) ∧
  (∀ (s : State) (c : Command), HeadActs s 1 c → noneActs s .stream →
    ∃ t, exec .kstream s = .next t ∧ Accepted (dropped s c) t .stream c
      (.bytes false (quarter c.image 1) (hw32 c.image 12) ::
        if flagOf c.image 0 then [] else [.bytes true (quarter c.image 2) (hw32 c.image 12)]) fun e => e.complete = false) ∧
  (∀ (s : State) (c : Command) (u : State) (bs : List Byte) (r : AcceptRec), HeadActs s 7 c → noneActs s .accept →
    (s.asController.ctlKv fun ctx => kvRead ctx (quarter c.image 1) 64) = .ok (bs, u) → parseAccept bs = some r →
    ∃ t, exec .accept s = .next t ∧ Accepted (u.ctlDrop c) t .accept { c with records := [bs] } r.ranges fun e => e.complete = false) ∧
  (∀ (s : State) (c : Command) (u : State), HeadActs s 3 c → s.asController.appending = none →
    s.asController.openSet (quarter c.image 2) = .ok u →
    ∃ t, exec .wlAppend s = .next t ∧ Accepted (u.ctlDrop c) t .append c [.bytes false (quarter c.image 1) (16 * hw32 c.image 12)]
      fun e => e.set = some (quarter c.image 2)) ∧
  (∀ (s : State) (c : Command) (u v : State) (w : WorkSet), HeadActs s 4 c → s.asController.openSet (quarter c.image 2) = .ok u →
    u.setOf (some (quarter c.image 2)) = some w →
    (w.record ≠ 0 → w.record % 128 = 0 →
      (∀ h r ranges total, (u.ctlDrop c).readLaunch (quarter c.image 1) w.record true = (.ok h r ranges total, v) →
        ∃ t, exec .wlTake s = .next t ∧ Accepted v t .take c ranges (ofLaunch h r 0 (some (quarter c.image 2)))) ∧
      (∀ r status res, (u.ctlDrop c).readLaunch (quarter c.image 1) w.record true = (.rejected r status res, v) →
        exec .wlTake s = .next (rejected v c r status res))) ∧
    (w.record = 0 ∨ w.record % 128 ≠ 0 → exec .wlTake s = .next (((u.ctlDrop c).retireSteps c noRecord 0x15 []).ctlRetire c))) ∧
  (∀ (s : State) (c : Command) (u : State) (r : Replaying), HeadActs s 2 c → s.asController.replayOver = none →
    (∀ x, x ∈ s.ctl.replaying → x.record ≠ quarter c.image 1) →
    (s.asController.ctlKv fun ctx => latchGraph ctx c (quarter c.image 1)) = .ok (r, u) →
    exec .graphReplay s = .next { u with ctl := { u.ctl with replaying := u.ctl.replaying ++ [r] } })

/-- R303, R315, R319, R324: an entry that has issued acts. A stream copies its units of 128 bytes, or reads them into the cache; an append puts its next item
at its list; an acceptance writes its results and remembers the fragment to jump to; a replay accepts its next node, and retires with its
done counter when the last node has. A fault cuts the command at its cursor. -/
def Sys2Proof.Claims.AcceptedEntriesAct : Prop :=
  (∀ (s : State) (e : Entry) (p : Fin 16) (k : Nat) (m : Module) (f : Option EngineFault), s.asController.actingEntry .stream = some e →
    s.partOfCluster (6 * s.ctl.die.val + s.ctl.number.val) = some p →
    let c := s.asController.actionCommand e
    streamRun ⟨s.ctl.die, p, s.cycle, none, [], false⟩ (quarter c.image 1) (quarter c.image 2) (flagOf c.image 0)
      (hw32 c.image 12 / 128 - c.cursor.entry) c.cursor.entry s.mod = (k, m, f) →
    let u : State := { s.asController with mod := m }
    let c' := { c with cursor := { c.cursor with entry := k } }
    exec .kstream s = .next (match f with
      | none => u.actionDone e c' k true
      | some f => u.actionFault e c' f)) ∧
  (∀ (s : State) (e : Entry) (r : AcceptRec) (n : Nat) (u : State), s.asController.actingEntry .accept = some e →
    parseAccept ((s.asController.actionCommand e).records.headD []) = some r →
    (s.asController.ctlKv fun ctx => acceptAll ctx r) = .ok (n, u) →
    exec .accept s = .next (u.actionDone e (s.asController.actionCommand e) n true)) ∧
  (∀ (s : State) (e : Entry) (w : WorkSet), s.asController.appending = some (e, w) →
    let c0 := s.asController.actionCommand e
    let c := { c0 with cursor := { c0.cursor with entry := e.progress } }
    let last : Bool := hw32 c.image 12 ≤ e.progress + 1
    (∀ u l v t, s.asController.readItem w (appendAt e) = (.put l v, u) → u.putItem w l v = .ok t →
      exec .wlAppend s = .next (t.actionDone e c (e.progress + 1) last)) ∧
    (∀ u, s.asController.readItem w (appendAt e) = (.skip, u) → exec .wlAppend s = .next (u.actionDone e c (e.progress + 1) last)) ∧
    (∀ u f, s.asController.readItem w (appendAt e) = (.bad f, u) → exec .wlAppend s = .next (u.actionFault e c f))) ∧
  (∀ (s : State) (r : Replaying), s.asController.replayOver = some r → r.nodes = [] →
    exec .graphReplay s = .next (((s.asController.dropReplay r).ctlAdd r.cmd r.donek r.doneinc.toNat).ctlRetire r.cmd))

/-- Commands of the controller make scoreboard entries or are rejected, and their entries act: `ClusterCommandsAccepted` and `AcceptedEntriesAct`. -/
def Obligations.ClusterCommandsMakeEntries : Prop := ClusterCommandsAccepted ∧ AcceptedEntriesAct

/-- R323, R325, R326: `FRAG.JUMP` sets the controller's pc to the entry of its table that the source chooses, and loads the table with flag 0; `PRIO` sets
the priority of every entry, running task and piece of resumed work of its tag, the last too by the model's choice (log entry 92), and of no other;
`KCANCEL` cancels the entries of its tag: nothing of them is dispatched any more, their resumed work is dropped, and with HARD their running tasks are
to be stopped. Each then retires, `KCANCEL` without HARD at once (the model's choice, log entry 94); a command without a signal only leaves the queue. -/
def Obligations.ClusterCommandsAtOnce : Prop :=
  (∀ (s : State) (c : Command) (v a : Nat) (u : State), HeadActs s 6 c → flagOf c.image 0 = false →
    s.asController.jumpIndex c.image = .ok (v, a, u) → v < 16 →
    let target := u.ctl.jump[(Fin.ofNat 16 v : Fin 16)]
    (target ≠ 0xFFFFFFFF → exec .fragJump s = .next ((u.jumped (some target.toNat)).ctlRetire c) ∧
      (u.jumped (some target.toNat)).ctl.c.pc = target.toNat ∧ (u.jumped (some target.toNat)).ctl.c.run = .running) ∧
    (target = 0xFFFFFFFF → exec .fragJump s = .next (u.ctlFault c (mkFault 0x15 a)))) ∧
  (∀ (s : State) (c : Command) (bs : List Byte) (u : State), HeadActs s 6 c → flagOf c.image 0 = true →
    (s.asController.ctlKv fun ctx => kvRead ctx (quarter c.image 1) 64) = .ok (bs, u) →
    ∃ t : State, exec .fragJumpLoad s = .next (t.ctlRetire c) ∧ t.ctl.c.run = .running ∧ t.ctl.c.pc = u.ctl.c.pc ∧
      (∀ j : Fin 16, t.ctl.jump[j] = BitVec.ofNat 32 (bytesAt bs (4 * j.val) 4)) ∧ t.mod = u.mod ∧ t.core = u.core) ∧
  (∀ (s : State) (c : Command), HeadActs s 8 c → ∃ t : State, exec .prio s = .next (t.ctlRetire c) ∧
    (∀ e, e ∈ t.ctl.entries → e.tag = hw c.image 4 → e.prio = hw c.image 5) ∧
    t.ctl.entries.map (fun e => (e.serial, e.tag, e.next, e.issued)) = s.ctl.entries.map (fun e => (e.serial, e.tag, e.next, e.issued)) ∧
    (∀ e, e ∈ s.ctl.entries → e.tag ≠ hw c.image 4 → (∀ x, x ∈ s.ctl.entries → x.serial = e.serial → x = e) → e ∈ t.ctl.entries) ∧ t.mod = s.mod ∧
    t.core.a = s.core.a ∧ t.core.x = s.core.x ∧ t.core.scratch = s.core.scratch ∧
    (let ids := s.ctl.tagged (hw c.image 4);
      (∀ k, k ∈ t.core :: t.parked → ∀ x, k.task = some x → x.launch ∈ ids → x.prio = hw c.image 5 ∧ (hw c.image 5 = 3 → x.request = none)) ∧
      (∀ k, k ∈ s.core :: s.parked → (∀ x, k.task = some x → x.launch ∉ ids) → k ∈ t.core :: t.parked) ∧
      (∀ cl, cl ∈ t.ctl :: t.parkedCl → ∀ r, r ∈ cl.resumed → r.1 ∈ ids → r.2.prio = hw c.image 5) ∧
      ∀ cl, cl ∈ s.ctl :: s.parkedCl → ∀ r, r ∈ cl.resumed → r.1 ∉ ids → ∃ cl', cl' ∈ t.ctl :: t.parkedCl ∧ r ∈ cl'.resumed)) ∧
  (∀ (s : State) (c : Command), HeadActs s 9 c → flagOf c.image 0 = false → ∃ t : State, exec .kcancel s = .next (t.ctlRetire c) ∧
    (∀ e, e ∈ t.ctl.entries → e.tag = hw c.image 4 → e.cx = true ∧ e.next = e.total ∧ e.complete = true) ∧
    (∀ e, e ∈ s.ctl.entries → e.tag ≠ hw c.image 4 → (∀ x, x ∈ s.ctl.entries → x.serial = e.serial → x = e) → e ∈ t.ctl.entries) ∧
    t.mod.mem = s.mod.mem ∧ t.core = s.core ∧ t.parked = s.parked) ∧
  (∀ (s : State) (c : Command), HeadActs s 9 c → flagOf c.image 0 = true →
    ∃ t : State, exec .kcancel s = .next (t.ctlRetire c) ∧ t = s.asController.cancelEntries (s.ctl.tagged (hw c.image 4)) true ∧
    (∀ e, e ∈ t.ctl.entries → e.tag = hw c.image 4 → e.cx = true ∧ e.next = e.total ∧ e.complete = true) ∧
    (∀ k, k ∈ t.core :: t.parked → ∀ x, k.task = some x → x.launch ∈ s.ctl.tagged (hw c.image 4) → x.cancelled = true) ∧
    (∀ cl, cl ∈ t.ctl :: t.parkedCl → (∀ r, r ∈ cl.resumed → r.1 ∉ s.ctl.tagged (hw c.image 4)) ∧
      ∀ k, k ∈ cl.conts → k.launch ∉ s.ctl.tagged (hw c.image 4)) ∧ t.mod.mem = s.mod.mem) ∧
  (∀ (u : State) (c : Command), sigEn c.image = false →
    u.ctlRetire c = (u.ctlDrop c).putQueue true 0 { u.ctl.queue.remove c.seq with last := 0 })

/-- R302, R310, R320, R322: an entry issues, and it alone; an entry that is over writes its completion record, adds to its counters, leaves the scoreboard
and signals; the acceptance register takes an acceptance's fragment; a detector that fires adds to its counter and completes the set's takes; an
emit slot is read, appended item by item, and ended; that its entries begin 16 bytes into it is the model's choice (log entry 147). -/
def Obligations.ScoreboardEvents : Prop :=
  (∀ (s : State) (e : Entry), s.issuable = some e → ∃ t, exec .entryIssue s = .next t ∧
    (∀ x, x ∈ t.ctl.entries → x.serial = e.serial → x.issued = true) ∧
    (∀ x, x ∈ s.ctl.entries → x.serial ≠ e.serial → x ∈ t.ctl.entries) ∧ t.ctl.entries.length = s.ctl.entries.length ∧
    t.mod = s.mod ∧ t.core = s.core) ∧
  (∀ (s : State) (e : Entry), s.asController.entryToRetire = some e → s.asController.actionCancelled e = false →
    let k := s.asController
    let status := e.status.toNat
    let bs := completionBytes status 0 e.done e.cooperative e.forced e.conts e.cx
    let close (u : State) : Answer :=
      .next (if e.replay.isSome then (u.dropEntry e).closeSets e.cmd else ((u.dropEntry e).closeSets e.cmd).ctlRetire e.cmd)
    (e.op = .launch ∨ e.op = .take → exec .entryRetire s = close (k.retireSteps e.cmd e.record status bs)) ∧
    (e.op = .accept → e.complete = true → e.cx = false →
      exec .entryRetire s = close { k with ctl := { k.ctl with acceptance := BitVec.ofNat 4 e.progress } }) ∧
    (e.op = .accept → e.complete = false ∨ e.cx = true → exec .entryRetire s = close k) ∧
    (e.op = .stream ∨ e.op = .append ∨ e.op = .quiesce → exec .entryRetire s = close k) ∧
    (∀ x, x ∈ (k.dropEntry e).ctl.entries ↔ x ∈ k.ctl.entries ∧ x.serial ≠ e.serial)) ∧
  (∀ (s : State) (w : WorkSet), s.asController.terminating = some w →
    let k := s.asController
    let c := k.setCommand w.va
    ∃ u : State, u = (k.onSet w.va fun w => { w with fired := true }).ctlAdd c w.termk w.tinc.toNat ∧
      exec .wlTermination s = .next (({ u with ctl := { u.ctl with
        entries := u.ctl.entries.map fun e => if e.op = .take ∧ e.set = some w.va then { e with complete := true } else e } } : State).closeSets c)) ∧
  (∀ (s : State) (p : EmitPending) (w : WorkSet), s.asController.emitting = some (p, w) →
    let k := s.asController
    (∀ n u, p.todo = none → (k.ctlKv fun ctx => kvNat ctx (w.slot p.core.val) 8) = .ok (n, u) →
      exec .emitAppend s = .next (u.emitTo p (some (0, min n w.entries)))) ∧
    (∀ i n u l v t, p.todo = some (i, n) → i < n → k.readItem w (w.slot p.core.val + 16 + 16 * i) = (.put l v, u) → u.putItem w l v = .ok t →
      exec .emitAppend s = .next (t.emitTo p (some (i + 1, n)))) ∧
    (∀ i n u, p.todo = some (i, n) → i < n → k.readItem w (w.slot p.core.val + 16 + 16 * i) = (.skip, u) →
      exec .emitAppend s = .next (u.emitTo p (some (i + 1, n)))) ∧
    (∀ i n, p.todo = some (i, n) → n ≤ i → exec .emitAppend s = .next (k.emitEnd p w)))

/-- R105, R116, R304 to R308, R311: tasks are placed, end, go on in their next overlay, and are resumed. A fresh task takes the next work identifier of its entry;
one of a take takes the head item of its set; a task that ends frees its cores and counts against its entry; one that a request met at its
swap leaves its saved nodes, unless it is cancelled; the next overlay starts on the same cores. -/
def Sys2Proof.Claims.TaskEvents : Prop :=
  (∀ (s : State) (i : Fin 15) (e : Entry) (cores : List Nat), s.asController.placement = some (i, .fresh e, cores) → e.op ≠ .take →
    let k : State := { s.asController with ctl := { s.ctl with pointer := i + 1 } }
    let wid := widAt e.record e.header.widths e.header.widths.length e.next 0
    exec .taskDispatch s = .next ((k.onEntry e.serial fun e => { e with next := e.next + 1 }).startFresh e (BitVec.ofNat 64 wid) cores)) ∧
  (∀ (s : State) (i : Fin 15) (e : Entry) (cores : List Nat) (w : WorkSet) (v : Word) (u : State),
    s.asController.placement = some (i, .fresh e, cores) → e.op = .take →
    let k : State := { s.asController with ctl := { s.ctl with pointer := i + 1 } }
    k.setOf e.set = some w → k.takeItem w = (.ok v, u) →
    exec .taskDispatch s = .next ((u.onSet w.va fun w => { w with inProgress := w.inProgress + 1 }).startFresh e v cores)) ∧
  (∀ (s : State) (i : Fin 15) (l : Nat) (c : Continuation) (n : Nat) (rest : List Nat),
    s.asController.placement = some (i, .resumed l (.continuation c), n :: rest) →
    let k : State := { s.asController with ctl := { s.ctl with pointer := i + 1 } }
    exec .taskDispatch s = .next ((k.unresume l (.continuation c)).startContinuation c n)) ∧
  (∀ (s : State) (i : Fin 15) (l : Nat) (ns : List SavedNode) (t : Task) (cores : List Nat),
    s.asController.placement = some (i, .resumed l (.node ns t), cores) →
    let k : State := { s.asController with ctl := { s.ctl with pointer := i + 1 } }
    exec .taskDispatch s = .next ((k.unresume l (.node ns t)).startNode ns t cores)) ∧
  (∀ (s : State) (t : Task) (g : List Nat), s.asController.endedGroup false = some (t, g) → ∃ u, exec .taskRetire s = .next u ∧
    (∀ k, k ∈ u.core :: u.parked → k.die = s.ctl.die → k.cluster = s.ctl.number → k.number.val ∈ g → k.task = none ∧ k.a.run = .idle) ∧
    (t.swap = none → u = ((onGroup s.asController g Core.freed).countTask t.launch (firstStatus (s.asController.groupTasks g))).endItem t g true) ∧
    (t.swap.isSome = true → t.cancelled = true → u = (onGroup s.asController g Core.freed).endCancelled t) ∧
    (t.swap.isSome = true → t.cancelled = false → ∃ ns t', (t.launch, .node ns t') ∈ u.ctl.resumed ∧ t'.request = none ∧ t'.swap = none)) ∧
  (∀ (s : State) (t : Task) (g : List Nat), s.asController.endedGroup true = some (t, g) →
    let k := s.asController
    let ns : List SavedNode := g.map fun n => ⟨((k.clusterCore n).task.bind (·.swap)).getD (t.swap.getD 0), (k.clusterCore n).passed⟩
    (∀ u, k.nodeHeaders t ns = (none, u) →
      exec .overlayStart s = .next (((onGroup u g Core.stoppedTask).countTask t.launch 0x15).endItem t g true)) ∧
    (∀ hs u, k.nodeHeaders t ns = (some hs, u) → ∃ v, exec .overlayStart s = .next v ∧ v.ctl.starts = u.ctl.starts + 1)) ∧
  (∀ (s : State) (n : Nat) (t : Task) (c : Continuation),
    ((List.range 8).find? fun n => (s.asController.clusterCore n).cwaitOver) = some n →
    (s.asController.clusterCore n).task = some t → t.ending = some c →
    ∃ u, exec .cwaitTaskEnd s = .next u ∧
      (∀ k, k ∈ u.core :: u.parked → k.die = s.ctl.die → k.cluster = s.ctl.number → k.number.val = n →
        k.x.run ≠ .running ∧ k.t.run ≠ .running ∧ ∀ t', k.task = some t' → ∀ c', t'.ending = some c' → c'.written = true) ∧
      u.mod = s.mod)

/-- R269, R270, R274, R311, R312: pre-emption. A request names its victim; a request that has waited its time becomes forced, whatever its A strand has reached (the model's choice, log
entry 146), as does the stop of a cancelled task; a forced one saves the task's cores as an image, but for those that an unsatisfied `CWAIT` has ended, and frees them, and of a cancelled task
nothing is kept; an image with the
right magic number, version and partition is restored on free cores, and another ends its task. -/
def Sys2Proof.Claims.PreemptionEvents : Prop :=
  (∀ (s : State) (t : Task) (g : List Nat), s.asController.requesting = some (t, g) →
    exec .preemptRequest s = .next (onGroup s.asController g fun k => { k with task := k.task.map fun t => { t with request := some s.cycle } })) ∧
  (∀ (s : State) (t : Task) (g : List Nat), s.asController.escalating = some (t, g) →
    exec .preemptEscalate s = .next (onGroup s.asController g fun k => { k with task := k.task.map fun t => { t with forced := true } })) ∧
  (∀ (s : State) (t : Task) (g : List Nat), s.asController.stopping = some (t, g) → t.cancelled = true → ∃ u, exec .forcedPreempt s = .next u ∧
    u.ctl.resumed = s.ctl.resumed ∧ u.mod = { s.mod with ops := u.mod.ops, joins := u.mod.joins } ∧
    ∀ k, k ∈ u.core :: u.parked → k.die = s.ctl.die → k.cluster = s.ctl.number → k.number.val ∈ g → k.task = none) ∧
  (∀ (s : State) (t : Task) (g : List Nat), s.asController.stopping = some (t, g) → t.cancelled = false → ∃ u img, exec .forcedPreempt s = .next u ∧
    (t.launch, .image img { t with request := none, forced := false }) ∈ u.ctl.resumed ∧ img.magic = 0x4B534156 ∧ img.version = 1 ∧
    img.cores.length = (g.filter fun n => !(s.asController.clusterCore n).endedByCwait).length ∧ img.sections = img.cores.map Core.sections ∧
    img.ways = t.header.ways ∧ img.planes = (t.header.acc + 65535) / 65536 ∧
    (∀ k, k ∈ u.core :: u.parked → k.die = s.ctl.die → k.cluster = s.ctl.number → k.number.val ∈ g → k.task = none) ∧
    u.mod = { s.mod with ops := u.mod.ops }) ∧
  (∀ (s : State) (i : Fin 15) (l : Nat) (img : SavedImage) (t : Task) (cores : List Nat),
    s.asController.placement = some (i, .resumed l (Resumed.image img t), cores) →
    let k : State := ({ s.asController with ctl := { s.ctl with pointer := i + 1 } } : State).unresume l (Resumed.image img t)
    (img.magic ≠ 0x4B534156 ∨ img.version ≠ 1 ∨ s.partOfCluster (6 * s.ctl.die.val + s.ctl.number.val) ≠ some img.part →
      exec .taskRestore s = .next ((k.countTask l 0x15).endItem t cores true)) ∧
    (img.magic = 0x4B534156 → img.version = 1 → s.partOfCluster (6 * s.ctl.die.val + s.ctl.number.val) = some img.part → ∃ u, exec .taskRestore s = .next u ∧
      u.ctl.resumed = s.ctl.resumed.erase (l, Resumed.image img t) ∧ u.ctl.starts = s.ctl.starts + 1 ∧ u.mod = s.mod))

/-- Tasks start, end, swap and are saved and restored by pre-emption: `TaskEvents` and `PreemptionEvents`. -/
def Obligations.TasksAndPreemption : Prop := TaskEvents ∧ PreemptionEvents

/-! ## Where the commands of the store and of the controller complete -/

namespace Sys2Proof.Claims

/-! ### The key-value store -/

/-- The result of a command, if it has one, lies in the scratchpad. -/
def resultFits (t : State) (c : Command) : Prop := madWrites c.image = true → inPad t (madRes c.image) (madResBytes c.image)

def poolIs (t : State) (p : Pool) : Prop := (t.mod.parts[t.partNo]).pool = some p

/-- The addresses of a sequence's block-table entries for some page indices, in the order in which they are gone through. -/
def entriesOf (q : Seq) (is : List Nat) : List Nat := q.lanes.flatMap fun lh => is.map fun i => q.entryAt lh.1 lh.2 i

/-- The bytes of the entries of a table, from its base on. -/
def tableBytes (q : Seq) : List Nat := (List.range q.entries).map fun j => q.btbase + 8 * j

/-- The sequence has no page that a settlement releases: no window slides, and its table ends with its last position (R409). -/
def settledAt (q : Seq) (len : Nat) : Prop := q.slide = 0 ∧ 64 * (q.pages - 1) < len

/-- R420: the image can be read and passes its checks, the table can be zeroed, and a descriptor is free and can be written. -/
def newSeq (t : State) (c : Command) : Prop :=
  c.records = [] ∧ c.cursor.entry = 0 ∧ resultFits t c ∧ ∃ p bs u v w h, poolIs t p ∧ Gets t (kvRead t.kvCtx (madAddr c.image) 256) bs u ∧
    seqImageOk bs = true ∧
    let q : Seq := { parseSeq bs with len := 0, tent := 0 }
    Chain u (tableBytes q) (fun a => kvWrite u.kvCtx a (zeros 8)) () v ∧ Gets v (kvNewSeq v.kvCtx q) h w

/-- R399: no pool is registered, the record passes its checks, and its page records can be zeroed. -/
def newPool (t : State) (c : Command) : Prop :=
  c.records = [] ∧ c.cursor.entry = 0 ∧ resultFits t c ∧ ∃ bs u v, Gets t (kvRead t.kvCtx (madAddr c.image) 256) bs u ∧
    (u.mod.parts[u.partNo]).pool = none ∧ poolRecordOk bs = true ∧
    let p : Pool := { (default : Pool) with va := madAddr c.image, record := bs }
    poolRegionsOk u.mod u.die u.partNo p = true ∧ Chain u ((List.range p.nrec).map p.recAt) (fun a => kvWrite u.kvCtx a (zeros 1024)) () v

/-- R421: a fork at position 0, which shares no page: a descriptor is free, and the new table can be written. -/
def forks (t : State) (c : Command) : Prop :=
  resultFits t c ∧ madArg0 c.image = 0 ∧ ∃ q u w x h, HandleRead t (madHandle c.image) q u ∧
    let n : Seq := { q with btbase := madAddr c.image, len := 0, tent := 0 }
    Gets u (kvNewSeq t.kvCtx n) h w ∧ Chain w (entriesOf n (List.range q.pages)) (fun a => kvWrite t.kvCtx a (zeros 8)) () x

/-- R422: a sequence without pages, whose descriptor can be written. -/
def frees (t : State) (c : Command) : Prop :=
  resultFits t c ∧ ∃ q u v w, HandleRead t (madHandle c.image) q u ∧
    Chain u (entriesOf q (List.range q.pages)) (fun a => kvNat t.kvCtx a 8) 0 v ∧
    Gets v (kvPutSeq t.kvCtx (madHandle c.image) { q with live := false }) () w

/-- R410: the descriptor can be written, and no page lies behind the positions that remain. -/
def truncates (t : State) (c : Command) : Prop :=
  resultFits t c ∧ ∃ q u v, HandleRead t (madHandle c.image) q u ∧ settledAt q q.len ∧
    Gets u (kvPutSeq t.kvCtx (madHandle c.image) { q with tent := 0 }) () v
def commits (t : State) (c : Command) : Prop :=
  resultFits t c ∧ ∃ q u v, HandleRead t (madHandle c.image) q u ∧ madArg0 c.image ≤ q.tent ∧ settledAt q (q.len + madArg0 c.image) ∧
    Gets u (kvPutSeq t.kvCtx (madHandle c.image) { q with len := q.len + madArg0 c.image, tent := 0 }) () v

/-- R422: the class of a sequence without pages. -/
def classes (t : State) (c : Command) : Prop :=
  resultFits t c ∧ ∃ q u v w, HandleRead t (madHandle c.image) q u ∧
    Gets u (kvPutSeq t.kvCtx (madHandle c.image) { q with cls := madArg0 c.image % 8 }) () v ∧
    Chain v (entriesOf q (List.range q.pages)) (fun a => kvNat t.kvCtx a 8) 0 w

/-- R423, R413: a promotion of a range without page indices: the ready counter can be read, and takes its add. -/
def promotes (t : State) (c : Command) : Prop :=
  c.aux = 0 ∧ resultFits t c ∧ ∃ q u p pl v, HandleRead t (madHandle c.image) q u ∧ madHi c.image q ≤ madLo c.image ∧ poolIs u p ∧
    let ready := if madAddr c.image = 0 then p.rkpool else madAddr c.image
    u.engPlace accCounterRead ready 8 = .ok pl ∧ poisonedIn u.mod.poison pl.pa 8 = false ∧
    (u.note (BitVec.ofNat 64 ready) pl true).addMemAt (BitVec.ofNat 64 ready) 1 = .ok v

/-- R424, R426: a range whose page indices have no page. -/
def rangeIsEmpty (t : State) (c : Command) : Prop :=
  c.aux = 0 ∧ resultFits t c ∧ ∃ q u v, HandleRead t (madHandle c.image) q u ∧
    Chain u (((List.range (madHi c.image q - madLo c.image)).map (madLo c.image + ·)).flatMap fun i => entriesOf q [i])
      (fun a => kvNat u.kvCtx a 8) 0 v

/-- R425: an export of no position into a buffer that holds the mordant record. -/
def exports (t : State) (c : Command) : Prop :=
  c.aux = 0 ∧ resultFits t c ∧ (t.mod.parts[t.partNo]).binding ≠ [] ∧ madArg0 c.image = 0 ∧ 8192 ≤ 1024 * madArg1 c.image ∧
  ∃ q u, HandleRead t (madHandle c.image) q u ∧ ∀ bs : List Byte, bs.length = 8192 → ∃ v, Gets u (kvWrite u.kvCtx (madAddr c.image) bs) () v

/-- R425: an import of no position, from a record that is signed and matches the image, into a table that can be zeroed. -/
def imports (t : State) (c : Command) : Prop :=
  let k := t.kvCtx
  let binding := (t.mod.parts[t.partNo]).binding
  resultFits t c ∧ binding ≠ [] ∧ ∃ p image rec_ u v i w x h y, poolIs t p ∧ Gets t (kvRead k (madAddr c.image) 256) image u ∧
    seqImageOk image = true ∧ Gets u (kvRead k (madArg0 c.image + madArg1 c.image * 2 ^ 32) 8192) rec_ v ∧ mordantSigned binding rec_ = true ∧
    bytesAt rec_ 8 8 = 0 ∧ bytesAt rec_ 24 8 = 0 ∧ mordantArea rec_ [] (parseSeq image) [] = true ∧
    Gets v (kvFreeIndex k p p.nseq 0) (some i) w ∧ Chain w (tableBytes (parseSeq image)) (fun a => kvWrite k a (zeros 8)) () x ∧
    Gets x (kvNewSeq k { parseSeq image with len := 0, tent := 0 }) h y

/-- R414, R415: the port leads to a module of the job. No frame is to be lent; none is to be recalled. -/
def lendPort (c : Command) : Fin 6 := Fin.ofNat 6 (madArg0 c.image)
def lends (t : State) (c : Command) : Prop := c.aux = 0 ∧ resultFits t c ∧ t.lendFault (lendPort c) = none ∧ madArg1 c.image = 0
def recalls (t : State) (c : Command) : Prop :=
  c.aux = 0 ∧ resultFits t c ∧ t.lendFault (lendPort c) = none ∧ ∃ p, poolIs t p ∧
    (madArg1 c.image = 0 ∨ ∀ l, l ∈ p.lent → l.port ≠ (lendPort c).val ∨ l.recalled.isSome = true)

/-! ### The store instructions of the A strand -/

/-- The rows of one page index have their place made, and are written: the states of the pages allow it, their frames are had, and every
access succeeds. -/
def rowsWritten (k : KvCtx) (q : Seq) (a : Word) (p0 : Nat) (src : List Byte) (t : State) (fl : Flags) (u : State) : Prop :=
  ∃ t1 t2 t3 t4 keep plan tk, Gets t (kvStates k q (ctlLayer a) (ctlHead a) [p0 / 64]) () t1 ∧
    Gets t1 (kvNamed k q (ctlLayer a) (ctlHead a) [p0 / 64]) keep t2 ∧
    Gets t2 (kvPlan k q keep Taken.none (ctlLayer a) (ctlHead a) (p0 / 64)) (plan, tk) t3 ∧ Gets t3 (kvApply k q plan) () t4 ∧
    Gets t4 (kvWriteAll k q [(p0 / 64, plan)] p0 (ctlN a) src) fl u

/-- The handle, the layer and the head of a control word are those of a sequence, and its source lies in the scratchpad (R254). -/
def storeReady (s : State) (a : Word) (src : Nat) (q : Seq) (t : State) : Prop :=
  HandleRead s (ctlHandle a) q t ∧ ctlLayer a < q.layers ∧ ctlHead a < q.heads ∧ src % 64 = 0 ∧ src + 2 * ctlN a * q.d * 2 ≤ s.spSize ∧
  s.spBad src (2 * ctlN a * q.d * 2) = false

/-- The strand waits for the response that writes v to x[d] and raises flags. -/
def answers (u : State) (d : Fin 64) (v : Nat) (fl : Flags) : State :=
  u.onStrand fun f => { f with hold := some (holdingWith u (.scalar d (BitVec.ofNat 64 v)) fl) }

/-! ### The controller -/

/-- A read by the controller's cluster succeeds. -/
def CtlReads (s : State) (va n : Nat) (bs : List Byte) (u : State) : Prop := (s.ctlKv fun k => kvRead k va n) = .ok (bs, u)

/-- The launch record, the header and the range list at their addresses can be read and pass their checks (R299). -/
def launchRead (s : State) (header record : Nat) (take : Bool) (h : Header) (r : LaunchRecord) (ranges : List Range) (v : State) : Prop :=
  ∃ rb hb lb s1 s2, CtlReads s record 128 rb s1 ∧ CtlReads s1 header 128 hb s2 ∧ parseHeader header hb = some h ∧ recordOk rb h.widths = true ∧
    r = parseRecord rb ∧ (take = true → r.wbase = 0 ∧ (∀ e, e ∈ r.ext → e = 0) ∧ h.widths = [64]) ∧
    CtlReads s2 (bytesAt rb 96 8) (32 * bytesAt rb 104 8) lb v ∧
    ((List.range (bytesAt rb 104 8)).mapM fun j => parseRange ((lb.drop (32 * j)).take 32)) = some ranges ∧ h.overdemand = none

/-- The state in which an open set's detector may fire again (R318). -/
def setAgain (s : State) (va : Nat) : State := s.asController.onSet va fun w => { w with fired := false }

/-- A graph record at va whose n nodes have no parameters: its words, and the reads of its nodes (R313, R315). -/
def plainGraph (k : KvCtx) (va : Nat) (m : Module) : Prop :=
  ∃ g m1 m2, (kvRead k va 64).run m = .ok (g, m1) ∧ bytesAt g 12 4 = 0 ∧ bytesAt g 32 32 = 0 ∧ 1 ≤ bytesAt g 8 4 ∧ bytesAt g 8 4 ≤ 4096 ∧
    ctlAddrOk (bytesAt g 0 8) 32 = true ∧ ∃ st : Nat → Module, st 0 = m1 ∧ st (bytesAt g 8 4) = m2 ∧ ∀ i, i < bytesAt g 8 4 →
      ∃ bs, (kvRead k (bytesAt g 0 8 + 32 * i) 32).run (st i) = .ok (bs, st (i + 1)) ∧ bytesAt bs 24 8 = 0 ∧ bytesAt bs 16 8 = 0

/-- The jump's index is in the table, and its entry leads somewhere (R323). -/
def leads (s : State) (v : Nat) : Prop := v < 16 ∧ s.ctl.jump[(Fin.ofNat 16 v : Fin 16)] ≠ 0xFFFFFFFF
/-- The controller runs at the entry's target. -/
def atTarget (s t : State) (v : Nat) : Prop := t.ctl.c.run = .running ∧ t.ctl.c.pc = (s.ctl.jump[(Fin.ofNat 16 v : Fin 16)]).toNat

end Sys2Proof.Claims

/-- R195, R254 to R258, R231, R398 to R426: where the commands of the key-value store perform their own effect, each given only that the
descriptors, tables and records that it names can be read and written; and where the store instructions of the A strand do. -/
def Sys2Proof.Claims.StoreCommandsComplete : Prop :=
  (Does .kvNew 5 5 0x00 (flag0 false) newSeq ∧ Does .kvNewPool 5 5 0x00 (flag0 true) newPool ∧ Does .kvFork 5 5 0x01 anyImage forks ∧
    Does .kvFree 5 5 0x02 anyImage frees ∧ Does .kvTrunc 5 5 0x03 anyImage truncates ∧ Does .kvCommit 5 5 0x04 anyImage commits ∧
    Does .kvClass 5 5 0x05 anyImage classes ∧ Does .kvPromote 5 5 0x06 anyImage promotes ∧ Does .kvDemote 5 5 0x07 anyImage rangeIsEmpty ∧
    Does .kvExport 5 5 0x08 anyImage exports ∧ Does .kvImport 5 5 0x09 anyImage imports ∧ Does .kvLend 5 5 0x0A (flag0 false) lends ∧
    Does .kvLendRecall 5 5 0x0A (flag0 true) recalls ∧
    Does .kvStat 5 5 0x0B anyImage (fun t c => resultFits t c ∧ madHandle c.image = 0 ∧ ∃ p, poolIs t p) ∧
    Does .kvSwref 5 5 0x0C anyImage rangeIsEmpty) ∧
  (∀ (s : State) (d a b : Fin 64) (q : Seq) (t u : State) (fl : Flags),
    let ctl := s.xr a
    let src := (s.xr b).toNat % 2 ^ 22
    let p0 := (s.xr b).toNat / 2 ^ 32
    storeReady s ctl src q t → ctl.getLsbD 63 = false →
    ((s.xr b).toNat < 2 ^ 22 → q.end_ + ctlN ctl ≤ 64 * q.pages → q.end_ + ctlN ctl ≤ q.w → q.end_ % 64 + ctlN ctl ≤ 64 →
      rowsWritten s.kvCtx q ctl q.end_ (s.spRead src (2 * ctlN ctl * q.d * 2)) t fl u →
      exec (.kvappend d a b) s = .next (answers u d q.end_ fl)) ∧
    ((s.xr b).toNat / 2 ^ 22 % 2 ^ 10 = 0 → ctl.getLsbD 62 = false → p0 + ctlN ctl ≤ q.end_ → p0 % 64 + ctlN ctl ≤ 64 →
      rowsWritten s.kvCtx q ctl p0 (s.spRead src (2 * ctlN ctl * q.d * 2)) t fl u →
      exec (.kvput d a b) s = .next (answers u d p0 fl))) ∧
  (∀ (s : State) (a b : Fin 64) (q : Seq) (t u : State), let ctl := s.xr a
    HandleRead s (ctlHandle ctl) q t → ctl.toNat / 2 ^ 32 % 64 = 0 →
    Chain t (entriesOf q [ctl.toNat / 2 ^ 32 / 64]) (fun at_ => kvNat s.kvCtx at_ 8) 0 u →
    ∃ v : State, exec (.kvinv a b) s = .next (v.onStrand fun f => { f with hold := some (holdingWith v .flagsOnly 0) }) ∧ v.mod.mem = s.mod.mem) ∧
  (∀ (s : State) (n : Fin 8) (a : Fin 64) (q : Seq) (t : State), HandleRead s (s.xr a).toNat q t → (s.xr a).toNat < 2 ^ 32 →
    ∃ u, exec (.seqbind n a) s = .next u ∧ u.core.slots[n] = some ((s.xr a).truncate 32) ∧ u.strand.hold = some (holding t .flagsOnly none))

/-- R299, R303, R315, R319, R321, R323, R324: where the commands of the controller do what they are for, each given that it stands at the head
with its wait satisfied, and that the records it names can be read and pass their checks. -/
def Sys2Proof.Claims.ControllerCommandsComplete : Prop :=
  (∀ (s : State) (c : Command) (h : Header) (r : LaunchRecord) (ranges : List Range) (v : State), HeadActs s 0 c →
    launchRead (dropped s c) (quarter c.image 1) (quarter c.image 2) false h r ranges v →
    ∃ t, exec .klaunch s = .next t ∧ Accepted v t .launch c ranges (ofLaunch h r (taskCount r h.widths) none)) ∧
  (∀ (s : State) (c : Command), HeadActs s 1 c → noneActs s .stream → ∃ t, exec .kstream s = .next t ∧
    Accepted (dropped s c) t .stream c (streamRanges c.image) fun e => e.complete = false) ∧
  (∀ (s : State) (c : Command) (n : Fin 16), HeadActs s 2 c → s.asController.replayOver = none →
    (∀ x, x ∈ s.ctl.replaying → x.record ≠ quarter c.image 1) → s.partOfCluster (6 * s.ctl.die.val + s.ctl.number.val) = some n →
    plainGraph ⟨s.ctl.die, n, s.cycle, none, [], false⟩ (quarter c.image 1) s.mod →
    ∃ t r, exec .graphReplay s = .next t ∧ t.ctl.replaying = s.ctl.replaying ++ [r] ∧ r.record = quarter c.image 1 ∧ r.cmd = c) ∧
  (∀ (s : State) (c : Command) (w : WorkSet), HeadActs s 3 c → s.asController.appending = none →
    s.asController.setOf (some (quarter c.image 2)) = some w → ∃ t, exec .wlAppend s = .next t ∧
      Accepted ((setAgain s (quarter c.image 2)).ctlDrop c) t .append c [.bytes false (quarter c.image 1) (16 * hw32 c.image 12)]
        fun e => e.set = some (quarter c.image 2)) ∧
  (∀ (s : State) (c : Command) (w : WorkSet) (h : Header) (r : LaunchRecord) (ranges : List Range) (v : State), HeadActs s 4 c →
    s.asController.setOf (some (quarter c.image 2)) = some w → w.record ≠ 0 → w.record % 128 = 0 →
    launchRead ((setAgain s (quarter c.image 2)).ctlDrop c) (quarter c.image 1) w.record true h r ranges v →
    ∃ t, exec .wlTake s = .next t ∧ Accepted v t .take c ranges (ofLaunch h r 0 (some (quarter c.image 2)))) ∧
  (∀ (s : State) (c : Command) (bs : List Byte) (u : State) (r : AcceptRec), HeadActs s 7 c → noneActs s .accept →
    CtlReads s.asController (quarter c.image 1) 64 bs u → parseAccept bs = some r →
    ∃ t, exec .accept s = .next t ∧ Accepted (u.ctlDrop c) t .accept { c with records := [bs] } r.ranges fun e => e.complete = false) ∧
  (∀ (s : State) (c : Command), HeadActs s 6 c → flagOf c.image 0 = false → sigEn c.image = false →
    (hw c.image 8 = 0 → leads s (hw c.image 9) → ∃ t, exec .fragJump s = .next t ∧ atTarget s t (hw c.image 9)) ∧
    (hw c.image 8 = 1 → leads s s.ctl.acceptance.toNat → ∃ t, exec .fragJump s = .next t ∧ atTarget s t s.ctl.acceptance.toNat) ∧
    (∀ bs u, 2 ≤ hw c.image 8 → CtlReads s.asController (quarter c.image 1) 4 bs u → leads s (natOfBytes bs) →
      ∃ t, exec .fragJump s = .next t ∧ atTarget s t (natOfBytes bs))) ∧
  (∀ (s : State) (c : Command) (bs : List Byte) (u : State), HeadActs s 6 c → flagOf c.image 0 = true → sigEn c.image = false →
    CtlReads s.asController (quarter c.image 1) 64 bs u → ∃ t, exec .fragJumpLoad s = .next t ∧ t.ctl.c.run = .running ∧
      ∀ j : Fin 16, t.ctl.jump[j] = BitVec.ofNat 32 (bytesAt bs (4 * j.val) 4))

namespace Sys2Proof.Claims

/-- The effect goes through to its signal from where the engine takes the command up: every access that it makes, one after another, can be made, and
nothing it meets makes it wait. -/
def reachesEnd (f : CommandEffect) (t : State) (c : Command) : Prop := ∃ w c2 dur, f t c = .ok (w, c2, some dur)

end Sys2Proof.Claims

/-- R191, R199 to R204, R209 to R213, R232 to R251, R347 to R350, R420 to R426, R433 to R449: a command of any form completes wherever its effect
goes through: a drain with a merge, a load, a copy between memory, tensors and the scratchpad, attention over pages and a walk of a sequence's pages
among them. -/
def Sys2Proof.Claims.CommandsReachTheirEnd : Prop :=
  (Does .mma 0 0 0 anyImage (reachesEnd mmaEffect) ∧ Does .mdrain 0 0 1 anyImage (reachesEnd (overRange drainedBlock)) ∧
    Does .mload 0 0 3 anyImage (reachesEnd (overRange loadedBlock))) ∧
  (Does .cpy 1 1 0 anyImage (reachesEnd copyEffect) ∧ Does .cpyT 1 1 1 anyImage (reachesEnd copyEffect) ∧
    Does .cpyG 1 1 2 anyImage (reachesEnd copyEffect) ∧ Does .cpyPad 1 1 3 anyImage (reachesEnd copyEffect) ∧
    Does .agen 1 1 4 anyImage (reachesEnd copyEffect)) ∧
  (Does .attp 2 2 0 anyImage (reachesEnd attEffect) ∧ Does .attd 7 2 1 anyImage (reachesEnd attEffect) ∧
    Does .ssel 7 2 2 anyImage (reachesEnd sselEffect) ∧ Does (.attg true) 2 2 3 anyImage (reachesEnd attEffect) ∧
    Does (.attg false) 7 2 3 anyImage (reachesEnd attEffect)) ∧
  (Does .tcLook 4 4 0 anyImage (reachesEnd (tcEffect true lookEffect)) ∧ Does .tcPf 4 4 1 anyImage (reachesEnd (tcEffect true prefetchEffect)) ∧
    Does .tcHalo 4 4 2 anyImage (reachesEnd (tcEffect true haloEffect)) ∧
    Does .tcInv 4 4 3 anyImage (reachesEnd (tcEffect false invalidateEffect)) ∧
    Does .tcWb 4 4 4 anyImage (reachesEnd (tcEffect false writeBackEffect)) ∧
    Does .tcPin 4 4 5 (flag0 false) (reachesEnd (tcEffect false pinEffect)) ∧
    Does .tcUnpin 4 4 5 (flag0 true) (reachesEnd (tcEffect false unpinEffect))) ∧
  (Does .kvNew 5 5 0x00 (flag0 false) (reachesEnd newEffect) ∧ Does .kvNewPool 5 5 0x00 (flag0 true) (reachesEnd registerEffect) ∧
    Does .kvFork 5 5 0x01 anyImage (reachesEnd (stepEffect forked)) ∧ Does .kvFree 5 5 0x02 anyImage (reachesEnd (stepEffect freed)) ∧
    Does .kvTrunc 5 5 0x03 anyImage (reachesEnd (stepEffect truncated)) ∧ Does .kvCommit 5 5 0x04 anyImage (reachesEnd (stepEffect committed)) ∧
    Does .kvClass 5 5 0x05 anyImage (reachesEnd (stepEffect classed)) ∧ Does .kvPromote 5 5 0x06 anyImage (reachesEnd promoteEffect) ∧
    Does .kvDemote 5 5 0x07 anyImage (reachesEnd (rangeEffect demotedIndex)) ∧ Does .kvExport 5 5 0x08 anyImage (reachesEnd exportEffect) ∧
    Does .kvImport 5 5 0x09 anyImage (reachesEnd importEffect) ∧ Does .kvLend 5 5 0x0A (flag0 false) (reachesEnd lendEffect) ∧
    Does .kvLendRecall 5 5 0x0A (flag0 true) (reachesEnd recallEffect) ∧ Does .kvStat 5 5 0x0B anyImage (reachesEnd statEffect) ∧
    Does .kvSwref 5 5 0x0C anyImage (reachesEnd (rangeEffect refreshedIndex))) ∧
  (Does .fput 6 6 2 anyImage (reachesEnd putEffect) ∧ Does .fget 6 6 3 anyImage (reachesEnd getEffect) ∧
    Does .fcadd 6 6 4 anyImage (reachesEnd addEffect))

/-- Where the commands of the engines, of the store and of the controller complete: `EngineCommandsComplete` and `StoreCommandsComplete` and `ControllerCommandsComplete` and `CommandsReachTheirEnd`. -/
def Obligations.CommandsComplete : Prop := EngineCommandsComplete ∧ StoreCommandsComplete ∧ ControllerCommandsComplete ∧ CommandsReachTheirEnd

/-! ## Debugger, errors, host, partitions, power -/

namespace Sys2Proof.Claims

/-- The core of a number in the module is the one in the focus, with its cluster. -/
def InFocus (s : State) (n : Nat) : Prop :=
  6 * s.ctl.die.val + s.ctl.number.val = n / 8 ∧ s.core.die = Fin.ofNat 24 (n / 48) ∧ s.core.cluster = Fin.ofNat 6 (n / 8) ∧
  s.core.number = Fin.ofNat 8 n

/-- What a virtual function of a partition's owner reads: a value, or all ones where the access is dropped. -/
def shows (s : State) (r : HostReply) : State := { s with mod := { s.mod with reply := r } }

/-- A host access that is dropped shows in wstat: its bit, and the cause when it is the first. -/
def droppedAt (s : State) (v : Fin 128) (bit cause : Nat) : State := s.onVf v fun f => f.drop bit cause

/-- Nothing of a partition is left but its descriptor: its keys, pool, binding, job and routes. -/
def Ended (p : Partition) : Prop :=
  p.dataKey = none ∧ p.attestKey = none ∧ p.jobKey = none ∧ p.pool = none ∧ p.binding = [] ∧ p.job = [] ∧ p.state ≠ .live

/-- Every core and controller of a partition is as after reset, but that its cycle count goes on (R118); the others are as they were. -/
def coresReset (p : Partition) (s t : State) : Prop :=
  t.core :: t.parked = (s.core :: s.parked).map (fun k => if p.hasCluster (6 * k.die.val + k.cluster.val) = true then
    { Core.reset k.die k.cluster k.number with since := k.since } else k) ∧
  t.ctl :: t.parkedCl = (s.ctl :: s.parkedCl).map (fun c => if p.hasCluster (6 * c.die.val + c.number.val) = true then
    { Cluster.reset c.die c.number with since := c.since } else c)

/-- A memory request that the module does not carry out is answered so, by a module with power: Unsupported Request (R376). That of the physical
function before the module is ready is answered so by the model's choice (log entry 145). -/
def refuses (s : State) (i : Instr) : Prop :=
  exec i s = .next (if s.mod.powered = true then
    shows s ⟨BitVec.allOnes 64, false, true, [], .unsupported⟩ else s)

/-- The sectors of the channel groups of a partition, where they lie in HBM and in a region of the safe tier, in their order. -/
def sectorsOf (p : Partition) (base : Nat) (holds : Nat → Nat → Prop) : Prop :=
  ∀ i g, p.groups[i]? = some g → ∀ k, k < groupBytes / 512 → holds (g * groupBytes + 512 * k) (base + i * groupBytes + 512 * k)

end Sys2Proof.Claims

/-- R275 to R277: the debugger's commands act on the core they name: a halt stops every context of a core of a partition with DEBUG, a step arms one group of a strand, a
resumption ends the halt. A read of a halted core answers its register, and a write changes it when the core goes on; x0 keeps zero; a core
that runs is not reached. That a read sees a write not yet in effect is the model's choice (log entry 120). -/
def Sys2Proof.Claims.DebuggerCommands : Prop :=
  (∀ (s : State) (n : Nat) (drain : Bool) (w : Who), InFocus s n →
    (s.debuggable s.core = true → s.core.halt = none →
      exec (.debugHalt n drain) s = .next { s with core := { s.core with halt := some ⟨drain, none, .a, none, [], contexts⟩ } }) ∧
    (s.debuggable s.core = false ∨ s.core.halt.isSome = true → exec (.debugHalt n drain) s = .next s) ∧
    (∀ h, s.core.halt = some h → h.writes = [] →
      exec (.debugStep n w) s = .next { s with core := { s.core with
        halt := some { h with step := some w, stopping := h.stopping.filter (· != w) } } } ∧
      exec (.debugResume n) s = .next { s with core := { s.core with halt := none } }) ∧
    (∀ h (v : Who) (r : Fin 64) (x : Word), s.core.halt = some h → h.writes = [(.x v r, x)] → v ≠ .c →
      ∃ u, exec (.debugResume n) s = .next u ∧ u.core.halt = none ∧ (Core.strand u.core v).xr r = (if r = 0 then 0 else x) ∧
        (∀ j, j ≠ r → (Core.strand u.core v).xr j = (Core.strand s.core v).xr j) ∧ u.core.scratch = s.core.scratch ∧ u.mod = s.mod)) ∧
  (∀ (s : State) (n : Nat) (t : DebugTarget) (v : Word), InFocus s n →
    let r : State := { (shows s ⟨0, false, true, [], .complete⟩) with who := .a }
    (s.core.halt = none → ∀ w, exec (.debugAccess n t w) s = .next r) ∧
    (∀ h, s.core.halt = some h →
      exec (.debugAccess n t none) s = .next { (shows r ⟨r.settleWrites.debugRead t, false, false, [], .complete⟩) with who := .a } ∧
      exec (.debugAccess n t (some v)) s = .next { (shows r ⟨0, false, false, [], .complete⟩) with
        who := .a, core := { s.core with halt := some { h with writes := h.writes ++ [(t, v)] } } })) ∧
  (∀ (s : State) (n : Nat) (drain : Bool) (t : DebugTarget) (w : Option Word) (who : Who),
    (∃ u, exec (.debugHalt n drain) s = .next u) ∧ (∃ u, exec (.debugResume n) s = .next u) ∧ (∃ u, exec (.debugStep n who) s = .next u) ∧
    ∃ u, exec (.debugAccess n t w) s = .next u)

/-- R175, R346, R359: an uncorrectable error poisons the line of the scratchpad or of the accumulators it falls in, within the ways in use; in memory it
drops a clean line or a translation, poisons a line of the partition that owns it or of the L2 that holds its data, or is reported; a lost status word takes a free value. A line of the
RDC is dropped when its lease of 2,048 cycles has run out. -/
def Sys2Proof.Claims.ErrorsAndLeases : Prop :=
  (∀ (s : State) (n l : Nat), InFocus s n →
    (l < 2048 * s.core.ways → exec (.localStoreEccError n (.scratch l)) s =
      .next { s with core := { s.core with scratchPoison := insertNat l s.core.scratchPoison } }) ∧
    (2048 * s.core.ways ≤ l → exec (.localStoreEccError n (.scratch l)) s = .next s) ∧
    (l < 16384 → exec (.localStoreEccError n (.accumulator l)) s =
      .next { s with core := { s.core with accPoison := insertNat l s.core.accPoison } }) ∧
    exec (.localStoreEccError n (.cache l)) s = .next { s with core := { s.core with cache := s.core.cache.take l ++ s.core.cache.drop (l + 1) } }) ∧
  (∀ (s : State) (i : Nat),
    (∀ l, s.mod.l2[i]? = some l → ∃ t, exec (.memoryEccError (.cleanL2 i)) s = .next t ∧ t.mod.mem = s.mod.mem ∧
      t.mod.l2 = if l.dirty = true then s.mod.l2 else s.mod.l2.take i ++ s.mod.l2.drop (i + 1)) ∧
    (∃ t, exec (.memoryEccError (.rdcLine i)) s = .next t ∧ t.mod.rdc = s.mod.rdc.take i ++ s.mod.rdc.drop (i + 1) ∧ t.mod.mem = s.mod.mem) ∧
    (∃ t, exec (.memoryEccError (.translation i)) s = .next t ∧ t.mod.tlb = s.mod.tlb.take i ++ s.mod.tlb.drop (i + 1)) ∧
    (∃ t, exec (.memoryEccError (.dirtyTagged i)) s = .next t ∧ t.mod.mem = s.mod.mem ∧
      (∀ l, s.mod.l2[i]? = some l → t.mod.l2[i]? = some (if l.dirty = true ∧ l.id ≠ 0 then { l with poison := true } else l))) ∧
    (∃ t, exec (.memoryEccError (.waiter i)) s = .next t ∧ t.mod.waiters = s.mod.waiters.take i ++ s.mod.waiters.drop (i + 1)) ∧
    (∀ x, x ∈ s.mod.l2 → x.id = 0 → x.line = i → x.dirty = true → ∃ t, exec (.memoryEccError (.hbm i)) s = .next t ∧
      { x with poison := true } ∈ t.mod.l2 ∧ t.mod.poison = s.mod.poison ∧ t.mod.mem = s.mod.mem) ∧
    (∀ p, p = .dirtyFlat i ∨ (p = .hbm i ∧ ∀ x, x ∈ s.mod.l2 → ¬(x.id = 0 ∧ x.line = i ∧ x.dirty = true)) ∨ p = .counterLine i → ∃ t, exec (.memoryEccError p) s = .next t ∧ t.mod.mem = s.mod.mem ∧
      ((s.mod.ownerOf i).isSome = true → t.mod.poison = insertNat i s.mod.poison ∧ t.mod.controllerReports = s.mod.controllerReports) ∧
      (s.mod.ownerOf i = none → t.mod.poison = s.mod.poison ∧ t.mod.controllerReports = (none, 0x31) :: s.mod.controllerReports)) ∧
    (∃ t, exec (.memoryEccError .unowned) s = .next t ∧ t.mod.controllerReports = (none, 0x31) :: s.mod.controllerReports ∧
      t.mod.mem = s.mod.mem)) ∧
  (∀ (s : State) (d : Fin 24) (n : Fin 16), ∃ t, exec (.memoryEccError (.statusWord d n)) s = .next t ∧
    (∀ i : Fin 384, i ≠ statusIndex d.val n.val → t.mod.status[i] = s.mod.status[i]) ∧
    t.mod.controllerReports = (some n, 0x31) :: s.mod.controllerReports ∧ t.mod.mem = s.mod.mem ∧ t.core = s.core) ∧
  (∀ (s : State) (l : RdcLine), l ∈ s.mod.rdc → l.granted + 2048 ≤ s.cycle → ∃ t, exec .rdcLeaseExpiry s = .next t ∧
    (∀ x, x ∈ t.mod.rdc ↔ x ∈ s.mod.rdc ∧ s.cycle < x.granted + 2048) ∧ t.mod.mem = s.mod.mem ∧ t.core = s.core)

/-- The debugger halts, steps, reads and writes a core; errors poison what they fall in: `DebuggerCommands` and `ErrorsAndLeases`. -/
def Obligations.DebuggerAndErrors : Prop := DebuggerCommands ∧ ErrorsAndLeases

/-- R354, R375, R376, R378 to R380: the windows of the host. An aligned 8-byte write of the counter window adds, and a read answers the counter; the record window and the
coherent window read and write memory; an access that fails is dropped, and shows in wstat with its cause; a dropped read answers all ones,
and in the coherent window poison. The cause of a misaligned access of the counter window and the POISON bit of a poisoned counter are the model's choice
(log entry 99), as are that one event is one access (log entry 100) and that a coherent access has no function to report to (log entry 101). A request to a function that no live partition owns, on a port that is not in CXL mode toward the host, or of
an address that no decoder of the port covers, is answered Unsupported Request. -/
def Sys2Proof.Claims.HostWindows : Prop :=
  (∀ (s : State) (v : Fin 128) (n : Fin 16) (o : Nat) (x : Word), s.mod.vfOwner v = some n → o < 2 ^ 24 →
    (∀ size, size ≠ 8 ∨ o % 8 ≠ 0 → exec (.counterWindowWrite v o size x) s = .next (droppedAt s v 0 0x12) ∧
      exec (.counterWindowRead v o size) s = .next (shows (droppedAt s v 0 0x12) hostDropped)) ∧
    (o % 8 = 0 → ∀ c, checkHost s.mod n accCounterAdd (counterVa s.mod.vfs[v] o) 8 = .error c →
      exec (.counterWindowWrite v o 8 x) s = .next (droppedAt s v 0 c)) ∧
    (o % 8 = 0 → ∀ pl, checkHost s.mod n accCounterAdd (counterVa s.mod.vfs[v] o) 8 = .ok pl →
      (∀ t, s.addMem n pl.pa x.toNat = .ok t → exec (.counterWindowWrite v o 8 x) s = .next t) ∧
      (∀ c, s.addMem n pl.pa x.toNat = .error c → c ≠ 0x30 → exec (.counterWindowWrite v o 8 x) s = .next (droppedAt s v 0 c)) ∧
      (s.addMem n pl.pa x.toNat = .error 0x30 → exec (.counterWindowWrite v o 8 x) s =
        .next { droppedAt s v 0 0x30 with mod := orStatus (droppedAt s v 0 0x30).mod pl.home n 0x40 })) ∧
    (o % 8 = 0 → ∀ c, checkHost s.mod n accCounterRead (counterVa s.mod.vfs[v] o) 8 = .error c →
      exec (.counterWindowRead v o 8) s = .next (shows (droppedAt s v 0 c) hostDropped)) ∧
    (o % 8 = 0 → ∀ pl, checkHost s.mod n accCounterRead (counterVa s.mod.vfs[v] o) 8 = .ok pl →
      exec (.counterWindowRead v o 8) s = .next (if poisonedIn s.mod.poison pl.pa 8 then shows (droppedAt s v 0 0x30) hostDropped
        else shows s ⟨BitVec.ofNat 64 (s.mod.mem.nat pl.pa 8), false, false, [], .complete⟩))) ∧
  (∀ (s : State) (v : Fin 128) (n : Fin 16) (o size : Nat) (x : Word), s.mod.vfOwner v = some n → o < 2 ^ 32 →
    (∀ c, hostPlace s.mod n accWrite (recordVa s.mod.vfs[v] o) size = .error c →
      exec (.recordWindowWrite v o size x) s = .next (droppedAt s v 1 c)) ∧
    (∀ pl, hostPlace s.mod n accWrite (recordVa s.mod.vfs[v] o) size = .ok pl →
      exec (.recordWindowWrite v o size x) s = .next { s with mod := l2Write s.mod n pl.pa (bytesOfNat size x.toNat) }) ∧
    (∀ c, hostPlace s.mod n accRead (recordVa s.mod.vfs[v] o) size = .error c →
      exec (.recordWindowRead v o size) s = .next (shows (droppedAt s v 1 c) hostDropped)) ∧
    (∀ pl bs, hostPlace s.mod n accRead (recordVa s.mod.vfs[v] o) size = .ok pl → s.load pl size = (bs, false) →
      exec (.recordWindowRead v o size) s = .next (shows s ⟨BitVec.ofNat 64 (natOfBytes bs), false, false, [], .complete⟩)) ∧
    (∀ pl bs, hostPlace s.mod n accRead (recordVa s.mod.vfs[v] o) size = .ok pl → s.load pl size = (bs, true) →
      exec (.recordWindowRead v o size) s = .next (shows (droppedAt s v 1 0x30) hostDropped))) ∧
  (∀ (s : State) (v : Fin 128) (o size : Nat) (x : Word), s.mod.vfOwner v = none →
    refuses s (.counterWindowWrite v o size x) ∧ refuses s (.recordWindowWrite v o size x) ∧
    refuses s (.counterWindowRead v o size) ∧ refuses s (.recordWindowRead v o size)) ∧
  (∀ (s : State) (port : Fin 8) (a size : Nat) (h : Hdm) (x : Word), s.mod.ready = true → s.mod.modes[port] = .cxlHost →
    (s.mod.hdm.toList.find? fun h => h.covers port a) = some h → (s.mod.parts[h.part]).state = .live →
    (∀ pl, hostPlace s.mod h.part accWrite (h.va a) size = .ok pl →
      exec (.coherentWindowAccess ⟨port, a⟩ size (some x)) s = .next { s with mod := l2Write s.mod h.part pl.pa (bytesOfNat size x.toNat) }) ∧
    (∀ c, hostPlace s.mod h.part accWrite (h.va a) size = .error c →
      exec (.coherentWindowAccess ⟨port, a⟩ size (some x)) s = .next (s.dropCoherent h.part c)) ∧
    (∀ pl bs, hostPlace s.mod h.part accRead (h.va a) size = .ok pl → s.load pl size = (bs, false) →
      exec (.coherentWindowAccess ⟨port, a⟩ size none) s = .next (shows s ⟨BitVec.ofNat 64 (natOfBytes bs), false, false, [], .complete⟩)) ∧
    (∀ pl bs, hostPlace s.mod h.part accRead (h.va a) size = .ok pl → s.load pl size = (bs, true) →
      exec (.coherentWindowAccess ⟨port, a⟩ size none) s = .next (shows s ⟨0, true, false, [], .complete⟩)) ∧
    (∀ c, hostPlace s.mod h.part accRead (h.va a) size = .error c →
      exec (.coherentWindowAccess ⟨port, a⟩ size none) s = .next (shows s ⟨0, true, false, [], .complete⟩))) ∧
  (∀ (s : State) (port : Fin 8) (a size : Nat) (w : Option Word),
    s.mod.ready = false ∨ s.mod.modes[port] ≠ .cxlHost ∨ (s.mod.hdm.toList.find? fun h => h.covers port a) = none →
    refuses s (.coherentWindowAccess ⟨port, a⟩ size w))

/-- R376, R377, R384, R395: the registers of the host and of the operator. A setup value of a core of the partition waits for its next task; wstat is cleared where
ones are written; STOP stops a controller, and GO starts it with its image; the bases keep the bits they have; the power cap keeps to its
bounds; what is not there ignores writes, and so does the operator block a write that is not of 8 aligned bytes (that a configuration block does
so too is the model's choice, log entry 129); the operator gives an Ethernet port its address and its UDP port, by an access of the model's own (log
entry 144). That GO keeps the jump table and the data memory is the model's choice (log entry 102). A function that no live partition owns, and a module that is not ready, refuse. -/
def Sys2Proof.Claims.HostRegisters : Prop :=
  (∀ (s : State) (v : Fin 128) (n : Fin 16) (core : Nat) (f : Fin 6) (x : Word), s.mod.vfOwner v = some n →
    (core < 1152 → (s.mod.parts[n]).hasCluster (core / 8) = true → ∃ t, exec (.setupWrite v core f x) s = .next t ∧
      (core, f, x) ∈ (t.mod.vfs[v]).setup ∧ (core, f) ∈ (t.mod.vfs[v]).pending ∧
      (∀ e, e ∈ (s.mod.vfs[v]).setup → e.1 ≠ core ∨ e.2.1 ≠ f → e ∈ (t.mod.vfs[v]).setup) ∧
      (∀ w : Fin 128, w ≠ v → t.mod.vfs[w] = s.mod.vfs[w]) ∧ t.core = s.core) ∧
    (1152 ≤ core ∨ (s.mod.parts[n]).hasCluster (core / 8) = false → exec (.setupWrite v core f x) s = .next s)) ∧
  (∀ (s : State) (v : Fin 128) (n : Fin 16) (x : Word), s.mod.vfOwner v = some n → ∃ t, exec (.wstatClear v x) s = .next t ∧
    t.mod.vfs = s.mod.vfs.set v { s.mod.vfs[v] with wstat := (s.mod.vfs[v]).wstat &&& ~~~x } ∧ t.mod.mem = s.mod.mem ∧ t.core = s.core) ∧
  (∀ (s : State) (v : Fin 128) (n : Fin 16) (g : Fin 256), s.mod.vfOwner v = some n → 6 * s.ctl.die.val + s.ctl.number.val = g.val →
    (s.mod.parts[n]).hasCluster g.val = true →
    (∃ t, exec (.cbootgoStop v g) s = .next t ∧ t.ctl = { s.ctl with stopped := true } ∧ t.core = s.core ∧ t.mod.mem = s.mod.mem) ∧
    (∀ h, (s.onVf v fun f => { f with cbootgo := BitVec.ofNat 64 (2 ^ 63 + g.val) }).bootHeader (s.mod.vfs[v]).cboot.toNat = some h →
      ∃ t, exec (.cbootgoGo v g) s = .next t ∧ t.ctl.c.run = .running ∧ t.ctl.c.pc = h.entryA ∧ t.ctl.stopped = false ∧
        t.ctl.queue = .empty ∧ t.ctl.jump = s.ctl.jump ∧ t.ctl.ram = s.ctl.ram ∧ t.who = s.who)) ∧
  (∀ (s : State) (v : Fin 128) (n : Fin 16) (g : Fin 256), s.mod.vfOwner v = some n →
    144 ≤ g.val ∨ (s.mod.parts[n]).hasCluster g.val = false →
    exec (.cbootgoGo v g) s = .next (droppedAt (s.onVf v fun f => { f with cbootgo := BitVec.ofNat 64 (2 ^ 63 + g.val) }) v 1 0x15) ∧
    exec (.cbootgoStop v g) s = .next (droppedAt (s.onVf v fun f => { f with cbootgo := BitVec.ofNat 64 (2 ^ 62 + g.val) }) v 1 0x15)) ∧
  (∀ (s : State) (v : Fin 128) (n : Fin 16) (x : Word), s.mod.vfOwner v = some n →
    exec (.registerWrite (some v) ⟨0x10, 8, none⟩ x) s = .next (s.onVf v fun f => { f with cbase := x &&& 0x01FFFFFFFF000000 }) ∧
    exec (.registerWrite (some v) ⟨0x18, 8, none⟩ x) s = .next (s.onVf v fun f => { f with rbase := x &&& 0x01FFFFFF00000000 }) ∧
    exec (.registerWrite (some v) ⟨0x20, 8, none⟩ x) s = exec (.wstatClear v x) s ∧
    exec (.registerWrite (some v) ⟨0x00, 8, none⟩ x) s = .next s ∧ exec (.registerWrite (some v) ⟨0x08, 8, none⟩ x) s = .next s ∧
    ∀ o size, size ≠ 8 ∨ o % 8 ≠ 0 → exec (.registerWrite (some v) ⟨o, size, none⟩ x) s = .next s) ∧
  (∀ (s : State) (x : Word), s.mod.ready = true →
    (1000 ≤ x.toNat % 2 ^ 14 → x.toNat % 2 ^ 14 ≤ 12500 → ∃ t, exec (.registerWrite none ⟨0x2100, 8, none⟩ x) s = .next t ∧
      t.mod.pcap.toNat = x.toNat % 2 ^ 14 ∧ t.core = s.core ∧ t.mod.mem = s.mod.mem) ∧
    (x.toNat % 2 ^ 14 < 1000 ∨ 12500 < x.toNat % 2 ^ 14 → exec (.registerWrite none ⟨0x2100, 8, none⟩ x) s = .next s) ∧
    exec (.registerWrite none ⟨0x2108, 8, none⟩ x) s = .next s ∧
    ∀ o size, size ≠ 8 ∨ o % 8 ≠ 0 ∨ 0x10000 ≤ o → exec (.registerWrite none ⟨o, size, none⟩ x) s = .next s) ∧
  (∀ (s : State) (o size : Nat) (p : Fin 8) (a : List Byte) (x : Word), s.mod.ready = true →
    exec (.registerWrite none ⟨o, size, some (p, a)⟩ x) s =
      .next { s with mod := { s.mod with ethPorts := s.mod.ethPorts.set p ⟨padTo 16 a, x.toNat % 2 ^ 16⟩ } }) ∧
  (∀ (s : State) (b : BlockAccess) (x : Word), s.mod.ready = false → refuses s (.registerWrite none b x)) ∧
  (∀ (s : State) (v : Fin 128) (o size : Nat) (f : Fin 6) (g : Fin 256) (x : Word), s.mod.vfOwner v = none →
    refuses s (.registerWrite (some v) ⟨o, size, none⟩ x) ∧ refuses s (.setupWrite v o f x) ∧ refuses s (.wstatClear v x) ∧
    refuses s (.cbootgoGo v g) ∧ refuses s (.cbootgoStop v g))

/-- The host's windows and registers take accesses or drop them with a cause: `HostWindows` and `HostRegisters`. -/
def Obligations.HostWindowsAndRegisters : Prop := HostWindows ∧ HostRegisters

/-- R382, R383, R390, R416, R428: partitions. CREATE needs a FREE partition and a descriptor that may be taken, and draws its keys; TEARDOWN and RESET need a LIVE one;
a teardown destroys the keys, resets the partition's cores and scrubs its memory, which is FREE when every channel is done; a job record gives
its key, and one of another job, or of none, resets the routes; a mordant binding is kept; each of another state leaves result 2, or nothing. That CREATE
resets the blocks of the virtual functions it names is the model's choice (log entry 103). -/
def Obligations.Partitions : Prop :=
  (∀ (s : State) (n : Fin 16), s.mod.ready = true →
    ((s.mod.parts[n]).state ≠ .free → exec (.partitionCreate n) s = .next (s.onPart n fun p => { p with result := 0x02 })) ∧
    ((s.mod.parts[n]).state = .free → s.mod.creatable n = false → exec (.partitionCreate n) s = .next (s.onPart n fun p => { p with result := 0x01 })) ∧
    ((s.mod.parts[n]).state = .free → s.mod.creatable n = true → ∃ t, exec (.partitionCreate n) s = .next t ∧
      (t.mod.parts[n]).state = .live ∧ (t.mod.parts[n]).result = 0 ∧ (t.mod.parts[n]).desc = (s.mod.parts[n]).desc ∧
      (t.mod.parts[n]).proot = (s.mod.parts[n]).proot ∧ (t.mod.parts[n]).dataKey.isSome = true ∧ (t.mod.parts[n]).pool = none ∧
      (∀ m : Fin 16, m ≠ n → t.mod.parts[m] = s.mod.parts[m]) ∧
      (∀ v : Fin 128, (s.mod.parts[n]).hasVf v.val = true → t.mod.vfs[v] = .reset) ∧
      (∀ v : Fin 128, (s.mod.parts[n]).hasVf v.val = false → t.mod.vfs[v] = s.mod.vfs[v]) ∧ t.core = s.core) ∧
    ((s.mod.parts[n]).state ≠ .live → exec (.partitionTeardown n) s = .next (s.onPart n fun p => { p with result := 0x02 }) ∧
      exec (.partitionReset n) s = .next (s.onPart n fun p => { p with result := 0x02 })) ∧
    ((s.mod.parts[n]).state = .live → ∃ t, exec (.partitionTeardown n) s = .next t ∧ Ended t.mod.parts[n] ∧
      coresReset (s.mod.parts[n]) s t ∧ (∀ w, w ∈ t.mod.waiters → w.part ≠ n) ∧ (∀ x, x ∈ t.mod.tlb → x.part ≠ n) ∧
      (∀ i : Fin 24, (s.mod.parts[n]).hasLane i.val = true → (t.mod.lanes[i]).key = []) ∧
      (∀ m : Fin 16, m ≠ n → t.mod.parts[m] = s.mod.parts[m])) ∧
    ((s.mod.parts[n]).state = .live → ∃ t, exec (.partitionReset n) s = .next t ∧ (t.mod.parts[n]).state = .live ∧
      (t.mod.parts[n]).pool = none ∧ (t.mod.parts[n]).job = [] ∧ (t.mod.parts[n]).dataKey = (s.mod.parts[n]).dataKey ∧
      coresReset (s.mod.parts[n]) s t ∧ t.mod.mem = s.mod.mem ∧ (∀ m : Fin 16, m ≠ n → t.mod.parts[m] = s.mod.parts[m]))) ∧
  (∀ (s : State) (n : Fin 16), s.mod.ready = false →
    exec (.partitionCreate n) s = .next s ∧ exec (.partitionTeardown n) s = .next s ∧ exec (.partitionReset n) s = .next s) ∧
  (∀ (s : State) (n : Fin 16) (d : Fin 24) (k : Fin 2) (j : Nat), (s.mod.parts[n]).state = .scrubbing →
    (2 * d.val + k.val, j) ∈ (s.mod.parts[n]).scrub → j < (s.mod.parts[n]).channels (2 * d.val + k.val) →
    ∃ t, exec (.channelScrubDone n d k) s = .next t ∧
      ((∀ r, r ∈ (s.mod.parts[n]).scrub → (s.mod.parts[n]).channels r.1 ≤ r.2 + (if r.1 = 2 * d.val + k.val then 1 else 0)) →
        (t.mod.parts[n]).state = .free ∧ ∀ c, c ∈ t.mod.mem → (s.mod.parts[n]).ownsHbm c.1 = false) ∧
      ((∃ r, r ∈ (s.mod.parts[n]).scrub ∧ r.2 + 1 < (s.mod.parts[n]).channels r.1) →
        (t.mod.parts[n]).state = .scrubbing ∧ (2 * d.val + k.val, j + 1) ∈ (t.mod.parts[n]).scrub ∧ t.mod.mem = s.mod.mem)) ∧
  (∀ (s : State) (n : Fin 16) (r k b : List Byte), 
    ((s.mod.parts[n]).state ≠ .live → exec (.jobRecordWrite n r k) s = .next s ∧ exec (.mordantBindingWrite n b) s = .next s) ∧
    ((s.mod.parts[n]).state = .live →
      (∃ t, exec (.jobRecordWrite n r k) s = .next t ∧
        (bytesAt (padTo 2048 r) 0 8 = 0 → (t.mod.parts[n]).job = [] ∧ (t.mod.parts[n]).jobKey = none ∧ (t.mod.parts[n]).routes = emptyRoutes) ∧
        (bytesAt (padTo 2048 r) 0 8 ≠ 0 → (t.mod.parts[n]).job = padTo 2048 r ∧ (t.mod.parts[n]).jobKey = some (padTo 32 k) ∧
          (t.mod.parts[n]).routes = if (s.mod.parts[n]).jobId = bytesAt (padTo 2048 r) 0 8 then (s.mod.parts[n]).routes else emptyRoutes) ∧
        t.mod.mem = s.mod.mem ∧ t.core = s.core ∧ (∀ m : Fin 16, m ≠ n → t.mod.parts[m] = s.mod.parts[m])) ∧
      exec (.mordantBindingWrite n b) s = .next (s.onPart n fun p => { p with binding := padTo 624 b })))

/-- R387, R389, R391, R394 to R396: reset and power. A conventional reset leaves no partition LIVE and no key, every core as after reset, the ports in the modes of the boot
configuration, and the module waits until nothing scrubs; a power loss or a shutdown
also leaves nothing of HBM, and what the CXL pool holds by the model's choice (log entry 109); power-up with firmware that verifies starts the scrub of the
32 channels of every stack, after the last of which the module is ready, without it nothing; every 100 µs a die's
duty falls by a sixteenth under a limit, not below one, or rises by one up to 16; an SPDM request is answered. -/
def Obligations.ResetAndPower : Prop :=
  (∀ s : State, ∃ t, exec .conventionalReset s = .next t ∧
    (∀ n : Fin 16, (t.mod.parts[n]).state ≠ .live ∧ (t.mod.parts[n]).dataKey = none ∧ (t.mod.parts[n]).attestKey = none ∧
      (t.mod.parts[n]).jobKey = none ∧ (t.mod.parts[n]).result = 0) ∧
    (∀ k, k ∈ t.core :: t.parked → k = { Core.reset k.die k.cluster k.number with since := s.cycle }) ∧
    (∀ c, c ∈ t.ctl :: t.parkedCl → c = { Cluster.reset c.die c.number with since := s.cycle }) ∧
    t.mod.waiters = [] ∧ t.mod.ops = [] ∧ t.mod.powered = s.mod.powered ∧ t.cycle = s.cycle ∧
    ((∃ n : Fin 16, (t.mod.parts[n]).state = .scrubbing) → t.mod.scrubbed = false) ∧
    (s.mod.scrubbed = true → (∀ n : Fin 16, (t.mod.parts[n]).state ≠ .scrubbing) → t.mod.scrubbed = true) ∧
    ∀ p : Fin 8, t.mod.modes[p] = .cxlHost ↔ Config.bootMode s.draw p = 1) ∧
  (∀ s : State, ∃ t, exec .powerLoss s = .next t ∧ exec .shutdown s = .next t ∧ t.mod.powered = false ∧
    (∀ c, c ∈ t.mod.mem ↔ c ∈ s.mod.mem ∧ cxlBase ≤ c.1) ∧ (∀ n : Fin 16, t.mod.parts[n] = .reset) ∧
    (∀ k, k ∈ t.core :: t.parked → k = { Core.reset k.die k.cluster k.number with since := s.cycle })) ∧
  (∀ s : State, (s.mod.powered = true → exec (.powerUp true) s = .next s) ∧ exec (.powerUp false) s = .next s ∧
    (s.mod.powered = false → ∃ t, exec (.powerUp true) s = .next t ∧ t.mod.powered = true ∧ t.mod.ready = false ∧
      t.mod.powerScrub = (List.range 48).map (fun i => (i, 0)) ∧ t.mod.mem = s.mod.mem ∧ t.core = s.core)) ∧
  (∀ (s : State) (n : Fin 16) (d : Fin 24) (k : Fin 2) (j : Nat), s.mod.powered = true → (∀ m : Fin 16, (s.mod.parts[m]).state ≠ .scrubbing) →
    (2 * d.val + k.val, j) ∈ s.mod.powerScrub → ∃ t, exec (.channelScrubDone n d k) s = .next t ∧
      (j + 1 < 32 → (2 * d.val + k.val, j + 1) ∈ t.mod.powerScrub ∧ t.mod.scrubbed = s.mod.scrubbed) ∧
      (s.mod.powerScrub = [(2 * d.val + k.val, 31)] → t.mod.powerScrub = [] ∧ t.mod.ready = true) ∧ t.mod.mem = s.mod.mem ∧ t.core = s.core) ∧
  (∀ (s : State) (d : Fin 24) (b : Bool),
    exec (.thermalLimit d b) s = .next { s with mod := { s.mod with hot := s.mod.hot.set d b } } ∧
    exec (.powerCapExceeded b) s = .next { s with mod := { s.mod with overCap := b } } ∧
    ∃ t, exec .dutyStep s = .next t ∧ t.mod.mem = s.mod.mem ∧ t.core = s.core ∧
      (s.mod.hot[d] = true ∨ s.mod.overCap = true → (t.mod.duty[d]).val = max 1 ((s.mod.duty[d]).val - 1)) ∧
      (s.mod.hot[d] = false → s.mod.overCap = false → (t.mod.duty[d]).val = min 16 ((s.mod.duty[d]).val + 1))) ∧
  (∀ (s : State) (r : SpdmRequest), s.mod.powered = true → ∃ t, exec (.spdmRequest r) s = .next t ∧
    (∀ bs, s.spdmAnswer r = some bs → t.mod.reply = ⟨0, false, false, bs, .complete⟩) ∧
    (s.spdmAnswer r = none → t.mod.reply = ⟨0, false, true, [], .complete⟩) ∧
    t.mod.draws = s.mod.draws + (if r = .keyExchange then 1 else 0) ∧ t.mod.mem = s.mod.mem ∧ t.core = s.core)

/-- R385, R392, R393: checkpoints. A save of a LIVE, quiesced partition, and a restore into a FREE one whose resources nothing holds from a region with its
descriptor, run; a save of another fails with `PREEMPT`, and another restore with a code that the spec does not state (log entry 2), its target scrubbed. A save that is
done, the partition still so, has copied the ciphertext of the partition's channel groups to its region of the pool, and HBM is as it was; a restore
that is done, all of it verified, opens them under the data key that it takes; one that fails its checks leaves nothing in the target, as does an
abort, which stops the operation. The place of a region in the pool window and the tweak of its sectors are the model's choice (log entry 130), as is
that an operation makes its copies in the step that completes it (log entry 107). -/
def Obligations.Checkpoints : Prop :=
  (∀ (s : State) (n : Fin 16), s.mod.ready = true → s.mod.ckpt.phase ≠ 1 →
    let p := s.mod.parts[n]
    (∃ t, exec (.checkpointSave n) s = .next t ∧ t.mod.mem = s.mod.mem ∧ t.core = s.core ∧ t.mod.ckpt.op = 1 ∧ t.mod.ckpt.part = n ∧
      t.mod.ckpt.regions = s.mod.ckpt.regions ∧
      (p.state = .live → s.quiesced p = true → p.fits s.mod.ckpt.dst.toNat = true → t.mod.ckpt.phase = 1) ∧
      (p.state ≠ .live ∨ s.quiesced p = false → t.mod.ckpt.phase = 3 ∧ t.mod.ckpt.code = 0x38)) ∧
    (∃ t, exec (.checkpointRestore n) s = .next t ∧ t.core = s.core ∧ t.mod.ckpt.op = 2 ∧ t.mod.ckpt.part = n ∧
      t.mod.ckpt.regions = s.mod.ckpt.regions ∧
      (let takes : Prop := s.mod.creatable n = true ∧ p.fits s.mod.ckpt.dst.toNat = true ∧
          s.mod.mem.read (manifestAt p s.mod.ckpt.base) 128 = padTo 128 p.desc;
        (p.state = .free → takes → t.mod.ckpt.phase = 1 ∧ t.mod.mem = s.mod.mem) ∧
        (p.state = .free → ¬takes → t.mod.ckpt.phase = 3 ∧ ∀ c, c ∈ t.mod.mem ↔ c ∈ s.mod.mem ∧ s.mod.unheld n c.1 = false)) ∧
      (p.state ≠ .free → t.mod.ckpt.phase = 3 ∧ t.mod.mem = s.mod.mem))) ∧
  (∀ (s : State) (n : Fin 16), s.mod.ready = false ∨ s.mod.ckpt.phase = 1 →
    exec (.checkpointSave n) s = .next s ∧ exec (.checkpointRestore n) s = .next s) ∧
  (∀ (s : State), s.mod.ckpt.phase = 1 → s.mod.ckpt.op = 1 → Memory.wf s.mod.mem = true →
    let p := s.mod.parts[s.mod.ckpt.part]
    (p.state ≠ .live ∨ s.quiesced p = false → ∀ code, ∃ t, exec (.checkpointDone code) s = .next t ∧ t.mod.ckpt.phase = 3 ∧
      t.mod.ckpt.code = 0x38 ∧ t.mod.mem = s.mod.mem) ∧
    (p.state = .live → s.quiesced p = true → ∃ t r, exec (.checkpointDone 0) s = .next t ∧ t.mod.ckpt.phase = 2 ∧ t.mod.ckpt.code = 0 ∧
      t.mod.ckpt.done = p.groups.length ∧ r ∈ t.mod.ckpt.regions ∧ r.dst = s.mod.ckpt.dst.toNat ∧
      r.plain = s.mod.mem.filter (fun c => p.ownsHbm c.1) ∧
      sectorsOf p s.mod.ckpt.base (fun pa at_ => t.mod.mem.read at_ 512 =
        padTo 512 (Config.sectorCipher (Config.drbg (p.dataKey.getD 0)) (pa / 512) (s.mod.mem.read pa 512))) ∧
      ∀ a, a < cxlBase → t.mod.mem.get a = s.mod.mem.get a)) ∧
  (∀ (s : State), s.mod.ckpt.phase = 1 → s.mod.ckpt.op = 2 → Memory.wf s.mod.mem = true →
    let n := s.mod.ckpt.part
    let p := s.mod.parts[n]
    p.state = .free → s.mod.creatable n = true →
    (s.verifyRegion n = 0 → ∃ t key, exec (.checkpointDone 0) s = .next t ∧ t.mod.ckpt.phase = 2 ∧ t.mod.ckpt.code = 0 ∧
      (t.mod.parts[n]).dataKey = some key ∧
      sectorsOf p s.mod.ckpt.base (fun pa at_ => t.mod.mem.read pa 512 = padTo 512 (Config.sectorPlain (Config.drbg key) (pa / 512) (s.mod.mem.read at_ 512)) ∨
        s.mod.mem.read at_ 512 = padTo 512 (Config.sectorCipher (Config.drbg key) (pa / 512) (t.mod.mem.read pa 512))) ∧
      (∀ r, (s.mod.ckpt.regions.find? fun r => r.dst = s.mod.ckpt.dst.toNat) = some r →
        sectorsOf p s.mod.ckpt.base (fun pa at_ =>
          s.mod.mem.read at_ 512 = padTo 512 (Config.sectorCipher (Config.drbg key) (pa / 512) (r.plain.read pa 512)) →
            t.mod.mem.read pa 512 = r.plain.read pa 512)) ∧
      (∀ a, p.ownsHbm a = false → t.mod.mem.get a = s.mod.mem.get a)) ∧
    (∀ code, s.verifyRegion n = code → code ≠ 0 → ∃ t, exec (.checkpointDone code) s = .next t ∧ t.mod.ckpt.phase = 3 ∧
      t.mod.ckpt.code = code ∧ (∀ c, c ∈ t.mod.mem ↔ c ∈ s.mod.mem ∧ s.mod.unheld n c.1 = false) ∧ t.mod.parts = s.mod.parts)) ∧
  (∀ (s : State), (s.mod.ckpt.phase ≠ 1 → exec .checkpointAbort s = .next s) ∧
    (s.mod.ckpt.phase = 1 → ∃ t, exec .checkpointAbort s = .next t ∧ t.mod.ckpt.phase = 3 ∧ t.mod.ckpt.op = 3 ∧ t.mod.ckpt.part = s.mod.ckpt.part ∧
      (s.mod.ckpt.op ≠ 2 → Memory.wf s.mod.mem = true → (∀ a, a < cxlBase → t.mod.mem.get a = s.mod.mem.get a) ∧
        ∀ r, r ∈ t.mod.ckpt.regions → r.dst ≠ s.mod.ckpt.dst.toNat) ∧
      (s.mod.ckpt.op = 2 → (s.mod.parts[s.mod.ckpt.part]).state = .free →
        ∀ c, c ∈ t.mod.mem ↔ c ∈ s.mod.mem ∧ s.mod.unheld s.mod.ckpt.part c.1 = false)))

/-! ## Steps, encodings, invariants -/

namespace Sys2Proof.Claims

/-- The state in which a strand takes its turn: it is the strand that acts. -/
def acting (s : State) (w : Who) : State := { s with who := w }

/-- A context of T that does nothing in the turn: it may not issue, takes no poison and no report, is not about to have its results captured, and no
replay entries of it begin to count. -/
def passedBy (s : State) (v : Who) : Prop :=
  mayIssue s v = false ∧ mayPoison s v = false ∧ mayReport s v = false ∧ mustCapture exec (acting s v) v = false ∧
  (acting s v).leaving v = acting s v

/-- It is the turn of strand w, which may issue, with no context of T before it that may: nothing from outside, no event, and no arrival keeps
it from issuing its next group, and no nest runs. -/
def Ready (s : State) (w : Who) : Prop :=
  s.inputs = [] ∧ s.turn ≠ .engines ∧ nextEvent s = none ∧
  (∃ before after, turnOrder s = before ++ w :: after ∧ ∀ v, v ∈ before → passedBy s v) ∧
  mayIssue s w = true ∧ s.stepping w = false ∧ (s.strandOf w).nextPoison.poisons = [] ∧ (s.strandOf w).reports = [] ∧
  (s.strandOf w).nest = none ∧ (s.strandOf w).pc % 4 = 0

/-- The bytes at the pc are one instruction of n syllables with its stop bit, within the strand's fetch region, and no branch has led into the
middle of an instruction there: it decodes to i. -/
def Fetches (u : State) (i : Instr) (n : Nat) : Prop :=
  let pc := u.strand.pc
  let w1 := u.istore.nat pc 4
  u.unit.ibase.toNat ≤ pc ∧ pc + 4 * n ≤ u.unit.ilimit.toNat ∧ u.marks.contains pc = false ∧
  ((n = 1 ∧ isLong w1 = false ∧ nStop w1 = true ∧ (decode w1 []).1 = .ok i) ∨
   (n = 2 ∧ isLong w1 = true ∧ nStop w1 = false ∧ nStop (u.istore.nat (pc + 4) 4) = true ∧
     (decode w1 [u.istore.nat (pc + 4) 4]).1 = .ok i))

/-- The group of one instruction, and the state it is probed in. -/
def alone (u : State) (i : Instr) (n : Nat) : State :=
  let pc := u.strand.pc
  { u with grp := { addr := pc, iaddr := pc, syl := u.istore.nat pc 4, npc := pc + 4 * n, patches := patchesOf [i], verdict := .issued, settled := false } }

/-- The instruction passes the checks of R38 on its strand, and the strand's V slot is free for it (R68). -/
def Allowed (u : State) (i : Instr) : Prop :=
  strandFormOk u.who u.limits i = true ∧ strandOk u.who i = true ∧ (needsPrivilege i = true → u.strand.pl = true) ∧
  groupShapeOk u.who u.unit true [i] = true ∧ wideFinding (alone u i 1) i = none ∧
  (isVector i = true → isTStrand u.who = true → u.core.t.vFree ≤ u.cycle)

/-- The state in which the instruction takes effect: its waits are over, the pc has moved on, and the replay entries that waited count from
now. -/
def issuing (u : State) (i : Instr) (n : Nat) : State :=
  let p := alone u i n
  State.onStrand { p with grp := { p.grp with settled := true } } fun f => { Strand.startReplays f u.cycle with pc := u.strand.pc + 4 * n, endGroup := u.strand.pc, stall := 0 }

/-- The V slot of the T strand is taken for four cycles by a vector instruction. -/
def takesSlot (u : State) (i : Instr) (t : State) : State :=
  if isVector i && isTStrand u.who then { t with core := { t.core with t := { t.core.t with vFree := u.cycle + 4 } } } else t

/-- The turn ends after the instruction: the strand is the last of T's contexts in their order. -/
def turnOver (t : State) (w : Who) : State := (State.served { t with grp := { t.grp with settled := false } } w).endTurn

/-- Physical memory, the pool window with the safe tier's copies included, is in canonical form: strictly rising addresses, no byte that
equals what an unlisted address reads as. -/
def MemoriesWf (s : State) : Prop := Memory.wf s.mod.mem = true

/-- Every strand of a core at core reset (R71, R73). -/
def StrandAtReset (s : State) (w : Who) : Prop :=
  let f := s.strandOf w
  (∀ r : Fin 64, f.xr r = 0) ∧ (∀ r : Fin 64, f.v[r] = 0) ∧ (∀ r : Fin 16, f.p[r] = false) ∧ f.masks = [] ∧
  (∀ n : Fin 64, (s.unitOf w).w[n] = 0) ∧ f.run = .idle ∧ f.pl = true ∧
  (s.unitOf w).ibase = 0 ∧ (s.unitOf w).ilimit = 0x40000 ∧ (s.unitOf w).seed = 0 ∧
  f.flags = 0 ∧ f.handler = 0 ∧ f.epc = 0 ∧ f.cause = 0 ∧ f.tval = 0 ∧ f.traparea = 0 ∧ f.kscr0 = 0 ∧ f.kscr1 = 0 ∧
  State.sysreg { s with who := w } 0 = 0x80

end Sys2Proof.Claims

/-- R33, R34, R38, R86: a step runs the instruction that is decoded at the pc. Where nothing else is due, the strand whose turn it is issues the group that stands at its
pc: where that is one well-formed instruction that its strand may execute, the step is `exec` of it at that state with the pc moved past its
syllables, and ends the strand's turn; the rotation of T's contexts and the T strand's V slot move on. (An instruction that waits or traps on the
state at the start of its group does that instead.) -/
def Obligations.StepRunsDecoded : Prop :=
  ∀ (s : State) (w : Who) (i : Instr) (n : Nat) (p t : State),
    let u := acting s w
    Ready s w → Fetches u i n → Allowed u i → Machine.inFlight u.cycle u.strand + newResults (alone u i n) i ≤ 24 →
    exec i (alone u i n) = .next p → p.grp.verdict = .issued → exec i (issuing u i n) = .next t → t.grp.verdict.waits = false →
    step s = .next (turnOver (takesSlot u i t) w)

/-- R39 to R52, R102, R103: words written out from the formats, their fields in order, are read as the instructions they stand for; the first five are the spec's own
example. `CWAIT` is read by R103 and the opcode table against the order of R47's list (the model's choice, log entry 14). A syllable of an unassigned major or func is refused as an opcode, one with a bit set in an unused field as an encoding. -/
def Obligations.DecodeWords : Prop :=
  decode 0x0428BFC0 [] = (.ok (.addi 5 5 (-64)), 1) ∧ decode 0x9038C010 [] = (.ok (.ld64 7 6 16), 1) ∧
  decode 0x6E481000 [0x80001234] = (.ok (.movl 9 0x80001234), 2) ∧ decode 0xF1420010 [] = (.ok (.pw 5 2 0x10), 1) ∧
  decode 0xC2182150 [] = (.ok (.vadd 3 1 2 .f32), 1) ∧
  decode 0b1_000000_000000_000000_000101_0000001 [] = (.ok (.trap 5), 1) ∧
  decode 0b0_000001_000011_000001_000010_0100111 [] = (.ok (.sel 3 1 2 7), 1) ∧
  decode 0b1_010000_001_0011_111111111111111110 [] = (.ok (.bp 3 (-2)), 1) ∧
  decode 0b0_001111_000100_000110_000001_0100010 [] = (.ok (.cwait 4 6 1), 1) ∧
  decode 0b1_101100_000000_000000_000000_0000000 [] = (.opcode, 1) ∧
  decode 0b1_000000_000000_000000_000001_0000000 [] = (.encoding, 1)

/-- R39 to R52: decoding the syllables of a well-formed instruction gives it back, with every operand, and takes just those syllables; the stop bit stands on
the last of them. -/
def Obligations.DecodeEncode : Prop :=
  ∀ (stop : Bool) (i : Instr), i.WellFormed → encode stop i ≠ [] → ∃ w rest, encode stop i = w :: rest ∧
    decode w rest = (.ok i, (encode stop i).length) ∧ nStop ((w :: rest).getLast (by simp)) = stop ∧ ∀ x, x ∈ w :: rest → x < 2 ^ 32

/-- Every step keeps physical memory, with the copies that the safe tier places in it, in canonical form: whatever instruction, engine, event or input it runs. -/
def Obligations.MemoryStaysCanonical : Prop :=
  ∀ s t : State, MemoriesWf s → step s = .next t → MemoriesWf t

/-- R1, R53, R71, R73, R323, R381, R384: after reset every strand of every core has the values of the register tables, every queue is empty, every counter zero; the jump tables
hold no entry; no partition is LIVE; the power cap and the duties stand at their full values; and memory is in canonical form. -/
def Obligations.AtReset : Prop :=
  let s := State.reset
  MemoriesWf s ∧ (∀ w ∈ contexts, StrandAtReset s w) ∧
  (∀ k, k ∈ s.core :: s.parked → k = Core.reset k.die k.cluster k.number) ∧ (s.core :: s.parked).length = 24 * 6 * 8 ∧
  (∀ c, c ∈ s.ctl :: s.parkedCl → c = Cluster.reset c.die c.number) ∧ (s.ctl :: s.parkedCl).length = 24 * 6 ∧
  (∀ j : Fin 16, s.ctl.jump[j] = 0xFFFFFFFF) ∧ s.ctl.entries = [] ∧ s.ctl.pointer = 0 ∧
  (∀ q : Fin 8, (s.core.q[q]).entries = [] ∧ (s.core.queue[q]).waiting = [] ∧ (s.core.queue[q]).started = []) ∧
  (∀ n : Fin 64, (s.core.k[n]).count = 0) ∧ (∀ a, s.core.acc.get a = 0) ∧
  (∀ n : Fin 16, (s.mod.parts[n]).state = .free) ∧ s.mod.pcap = 12500 ∧ (∀ d : Fin 24, (s.mod.duty[d]).val = 16)
end

