-- ==== Sys2Proof/Laws/Memory.lean ====
section
/-! SUPPORT. The laws of byte memories: the canonical form is kept, a read after a write gives the bytes written, and a write leaves
every other address alone. -/

set_option Elab.async false

namespace Sys2Proof

/-- Every listed address lies at or above a bound. -/
theorem Memory.wfFrom_mono {lo lo' : Nat} (h : lo' ≤ lo) : ∀ {m : Memory}, Memory.wfFrom lo m = true → Memory.wfFrom lo' m = true
  | [], _ => rfl
  | (k, v) :: m, hm => by
    simp only [Memory.wfFrom, Bool.and_eq_true, decide_eq_true_eq, bne_iff_ne] at hm ⊢
    exact ⟨⟨le_trans h hm.1.1, hm.1.2⟩, hm.2⟩

theorem Memory.get_of_wfFrom {lo : Nat} : ∀ {m : Memory}, Memory.wfFrom lo m = true → ∀ a, a < lo → m.get a = 0
  | [], _, _, _ => rfl
  | (k, v) :: m, hm, a, ha => by
    simp only [Memory.wfFrom, Bool.and_eq_true, decide_eq_true_eq] at hm
    have hk : k ≠ a := by omega
    simp only [Memory.get, hk, if_false]
    exact Memory.get_of_wfFrom hm.2 a (by omega)

/-- The part of a canonical memory below an address, followed by any canonical memory from there on, is canonical. -/
theorem Memory.wfFrom_takeWhile_append {lo b : Nat} : ∀ {m r : Memory}, Memory.wfFrom lo m = true → Memory.wfFrom b r = true → lo ≤ b →
    Memory.wfFrom lo (m.takeWhile (fun c => c.1 < b) ++ r) = true
  | [], r, _, hr, h => by simpa using Memory.wfFrom_mono h hr
  | (k, v) :: m, r, hm, hr, h => by
    simp only [Memory.wfFrom, Bool.and_eq_true, decide_eq_true_eq] at hm
    by_cases hk : k < b
    · simp only [List.takeWhile_cons, hk, decide_true, if_true, List.cons_append, Memory.wfFrom, Bool.and_eq_true, decide_eq_true_eq]
      exact ⟨hm.1, Memory.wfFrom_takeWhile_append hm.2 hr (by omega)⟩
    · simp only [List.takeWhile_cons, hk, decide_false]
      simpa using Memory.wfFrom_mono h hr

theorem Memory.wfFrom_dropWhile {lo : Nat} (b : Nat) : ∀ {m : Memory}, Memory.wfFrom lo m = true →
    Memory.wfFrom (max lo b) (m.dropWhile fun c => c.1 < b) = true
  | [], _ => rfl
  | (k, v) :: m, hm => by
    simp only [Memory.wfFrom, Bool.and_eq_true, decide_eq_true_eq] at hm
    by_cases hk : k < b
    · simp only [List.dropWhile_cons, hk, decide_true, if_true]
      exact Memory.wfFrom_mono (by omega) (Memory.wfFrom_dropWhile b hm.2)
    · simp only [List.dropWhile_cons, hk, decide_false, Bool.false_eq_true, if_false, Memory.wfFrom, Bool.and_eq_true, decide_eq_true_eq]
      exact ⟨⟨by omega, hm.1.2⟩, hm.2⟩

theorem Memory.wfFrom_cells_append {b : Nat} : ∀ {bs : List Byte} {a : Nat} {r : Memory}, a + bs.length ≤ b → Memory.wfFrom b r = true →
    Memory.wfFrom a (Memory.cells a bs ++ r) = true
  | [], a, r, h, hr => by simpa [Memory.cells] using Memory.wfFrom_mono (by simpa using h) hr
  | x :: bs, a, r, h, hr => by
    have ih := Memory.wfFrom_cells_append (bs := bs) (a := a + 1) (by simp only [List.length_cons] at h; omega) hr
    by_cases hx : x = 0
    · simp only [Memory.cells, hx, if_true]
      exact Memory.wfFrom_mono (Nat.le_succ a) ih
    · simp only [Memory.cells, if_neg hx, List.cons_append, Memory.wfFrom, ih, Bool.and_true, Bool.and_eq_true, decide_eq_true_eq,
        le_refl, true_and, bne_iff_ne]
      exact hx

/-- A write keeps the canonical form. -/
theorem Memory.wf_write {m : Memory} (hm : m.wf = true) (a : Nat) (bs : List Byte) : (m.write a bs).wf = true := by
  unfold Memory.wf Memory.write at *
  rw [List.append_assoc]
  refine Memory.wfFrom_takeWhile_append hm ?_ (Nat.zero_le a)
  exact Memory.wfFrom_cells_append le_rfl (Memory.wfFrom_mono (le_max_right _ _) (Memory.wfFrom_dropWhile (a + bs.length) hm))

/-- A part of the cells keeps the canonical form. -/
theorem Memory.wf_filter {m : Memory} (hm : m.wf = true) (p : Host.Cell → Bool) : Memory.wf (m.filter p) = true := by
  have h : ∀ {m : Memory} {lo : Nat}, Memory.wfFrom lo m = true → Memory.wfFrom lo (m.filter p) = true := by
    intro m
    induction m with
    | nil => intro lo h; exact h
    | cons c m ih =>
      intro lo h
      simp only [Memory.wfFrom, Bool.and_eq_true, decide_eq_true_eq] at h
      by_cases hc : p c
      · simp only [List.filter_cons, hc, if_true, Memory.wfFrom, Bool.and_eq_true, decide_eq_true_eq]
        exact ⟨h.1, ih h.2⟩
      · simp only [List.filter_cons, hc, if_false, Bool.false_eq_true]
        exact Memory.wfFrom_mono (by omega) (ih h.2)
  exact h hm

theorem Memory.get_cells_append (r : Memory) : ∀ (bs : List Byte) (a b : Nat), Memory.wfFrom (a + bs.length) r = true →
    Memory.get (Memory.cells a bs ++ r) b = if a ≤ b ∧ b < a + bs.length then bs.getD (b - a) 0 else r.get b
  | [], a, b, _ => by
    have : ¬(a ≤ b ∧ b < a + ([] : List Byte).length) := by simp
    rw [if_neg this]; rfl
  | x :: bs, a, b, hr => by
    have hl : a + (x :: bs).length = a + 1 + bs.length := by simp only [List.length_cons]; omega
    have ih := Memory.get_cells_append r bs (a + 1) b (by rwa [hl] at hr)
    by_cases hb : b = a
    · subst hb
      have h1 : b ≤ b ∧ b < b + (x :: bs).length := by simp
      rw [if_pos h1]
      by_cases hx : x = 0
      · subst hx
        simp only [Memory.cells, if_true, ih]
        have : ¬(b + 1 ≤ b ∧ b < b + 1 + bs.length) := by omega
        rw [if_neg this, Memory.get_of_wfFrom hr b (by simp)]; simp
      · simp only [Memory.cells, if_neg hx, List.cons_append, Memory.get, if_true]
        simp
    · have hg : Memory.get (Memory.cells a (x :: bs) ++ r) b = Memory.get (Memory.cells (a + 1) bs ++ r) b := by
        by_cases hx : x = 0
        · simp [Memory.cells, hx]
        · have : ¬ a = b := fun h => hb h.symm
          simp only [Memory.cells, if_neg hx, List.cons_append, Memory.get, if_neg this]
      rw [hg, ih, hl]
      by_cases hc : a + 1 ≤ b ∧ b < a + 1 + bs.length
      · have hc' : a ≤ b ∧ b < a + 1 + bs.length := by omega
        rw [if_pos hc, if_pos hc']
        have : b - a = (b - (a + 1)) + 1 := by omega
        rw [this]; simp
      · have hc' : ¬(a ≤ b ∧ b < a + 1 + bs.length) := by omega
        rw [if_neg hc, if_neg hc']

theorem Memory.get_takeWhile_append (a : Nat) : ∀ {m r : Memory} {lo : Nat}, Memory.wfFrom lo m = true → Memory.wfFrom a r = true → ∀ b,
    Memory.get (m.takeWhile (fun c => c.1 < a) ++ r) b = if b < a then m.get b else r.get b
  | [], r, _, _, hr, b => by
    by_cases hb : b < a
    · rw [if_pos hb]; simpa [Memory.get] using Memory.get_of_wfFrom hr b hb
    · rw [if_neg hb]; rfl
  | (k, v) :: m, r, lo, hm, hr, b => by
    simp only [Memory.wfFrom, Bool.and_eq_true, decide_eq_true_eq] at hm
    by_cases hk : k < a
    · have ih := Memory.get_takeWhile_append a hm.2 hr b
      simp only [List.takeWhile_cons, hk, decide_true, if_true, List.cons_append, Memory.get, ih]
      by_cases hb : b < a
      · simp [hb]
      · have : k ≠ b := by omega
        simp [hb, this]
    · simp only [List.takeWhile_cons, hk, decide_false, Bool.false_eq_true, if_false, List.nil_append]
      by_cases hb : b < a
      · rw [if_pos hb, Memory.get_of_wfFrom hr b hb]
        have hkb : k ≠ b := by omega
        simp only [Memory.get, hkb, if_false]
        exact (Memory.get_of_wfFrom hm.2 b (by omega)).symm
      · rw [if_neg hb]

theorem Memory.get_dropWhile (a : Nat) : ∀ {m : Memory} {lo : Nat}, Memory.wfFrom lo m = true → ∀ b, a ≤ b →
    Memory.get (m.dropWhile fun c => c.1 < a) b = m.get b
  | [], _, _, _, _ => rfl
  | (k, v) :: m, lo, hm, b, hb => by
    simp only [Memory.wfFrom, Bool.and_eq_true, decide_eq_true_eq] at hm
    by_cases hk : k < a
    · simp only [List.dropWhile_cons, hk, decide_true, if_true, Memory.get_dropWhile a hm.2 b hb]
      have : k ≠ b := by omega
      simp [Memory.get, this]
    · simp only [List.dropWhile_cons, hk, decide_false, Bool.false_eq_true, if_false]

/-- A read of one byte after a write: the byte written, or the byte that was there. -/
theorem Memory.get_write {m : Memory} (hm : m.wf = true) (a : Nat) (bs : List Byte) (b : Nat) :
    (m.write a bs).get b = if a ≤ b ∧ b < a + bs.length then bs.getD (b - a) 0 else m.get b := by
  unfold Memory.write
  rw [List.append_assoc]
  have hd : Memory.wfFrom (a + bs.length) (m.dropWhile fun c => c.1 < a + bs.length) = true :=
    Memory.wfFrom_mono (le_max_right _ _) (Memory.wfFrom_dropWhile (a + bs.length) hm)
  rw [Memory.get_takeWhile_append a hm (Memory.wfFrom_cells_append le_rfl hd), Memory.get_cells_append _ _ _ _ hd]
  by_cases h1 : b < a
  · have : ¬(a ≤ b ∧ b < a + bs.length) := by omega
    rw [if_pos h1, if_neg this]
  · rw [if_neg h1]
    by_cases h2 : a ≤ b ∧ b < a + bs.length
    · rw [if_pos h2, if_pos h2]
    · rw [if_neg h2, if_neg h2, Memory.get_dropWhile (a + bs.length) hm b (by omega)]

/-- The bytes of a run are those of its addresses. -/
theorem Memory.read_eq {m : Memory} (hm : m.wf = true) : ∀ (n a : Nat), m.read a n = (List.range n).map fun i => m.get (a + i)
  | 0, _ => rfl
  | n + 1, a => by
    have hd := Memory.wfFrom_dropWhile a hm
    have hg : ∀ b, a ≤ b → Memory.get (m.dropWhile fun c => c.1 < a) b = m.get b := Memory.get_dropWhile a hm
    have hwf : Memory.wf (m.dropWhile fun c => c.1 < a) = true := Memory.wfFrom_mono (Nat.zero_le _) hd
    have ih := Memory.read_eq hwf n (a + 1)
    rw [List.range_succ_eq_map, List.map_cons, List.map_map]
    have htail : Memory.read (m.dropWhile fun c => c.1 < a) (a + 1) n = (List.range n).map ((fun i => m.get (a + i)) ∘ Nat.succ) := by
      rw [ih]
      refine List.map_congr_left fun i _ => ?_
      rw [hg _ (by omega)]; simp [Nat.add_assoc, Nat.add_comm 1]
    rw [Memory.read]
    refine congrArg₂ List.cons ?_ htail
    show _ = m.get (a + 0)
    rw [Nat.add_zero, ← hg a le_rfl]
    cases h : m.dropWhile (fun c => c.1 < a) with
    | nil => rfl
    | cons c r =>
      obtain ⟨k, v⟩ := c
      rw [h] at hd
      simp only [Memory.wfFrom, Bool.and_eq_true, decide_eq_true_eq] at hd
      by_cases hk : k = a
      · simp [Memory.get, hk]
      · simp only [Memory.get, hk, if_false]
        exact (Memory.get_of_wfFrom hd.2 a (by omega)).symm

/-- A read of the bytes just written gives them. -/
theorem Memory.read_write {m : Memory} (hm : m.wf = true) (a : Nat) (bs : List Byte) : (m.write a bs).read a bs.length = bs := by
  rw [Memory.read_eq (Memory.wf_write hm a bs)]
  apply List.ext_getElem
  · simp
  · intro i h1 h2
    simp only [List.getElem_map, List.getElem_range, Memory.get_write hm]
    have : a ≤ a + i ∧ a + i < a + bs.length := ⟨by omega, by omega⟩
    rw [if_pos this]; simp [h2]

/-- The little-endian bytes of a value give it back. -/
theorem natOfBytes_bytesOfNat : ∀ (n v : Nat), natOfBytes (bytesOfNat n v) = v % 256 ^ n
  | 0, v => by simp [bytesOfNat, natOfBytes, Nat.mod_one]
  | n + 1, v => by
    have : (BitVec.ofNat 8 v).toNat = v % 256 := by simp [BitVec.toNat_ofNat]
    rw [bytesOfNat, natOfBytes, natOfBytes_bytesOfNat n, this, pow_succ, Nat.mul_comm (256 ^ n) 256, Nat.mod_mul]

@[simp] theorem bytesOfNat_length : ∀ (n v : Nat), (bytesOfNat n v).length = n
  | 0, _ => rfl
  | n + 1, v => by simp [bytesOfNat, bytesOfNat_length n]

end Sys2Proof
end

