-- ==== Sys2Proof/Laws/State.lean ====
section
/-! SUPPORT. What each update of the state leaves as it was: one lemma for each field and each update, for `simp`. -/

set_option Elab.async false

namespace Sys2Proof.Machine

/-! `setStrandOf` -/

@[simp] theorem State.setStrandOf_cycle (s : State) (w : Who) (f : Strand) : (s.setStrandOf w f).cycle = s.cycle := by cases w <;> rfl
@[simp] theorem State.setStrandOf_turn (s : State) (w : Who) (f : Strand) : (s.setStrandOf w f).turn = s.turn := by cases w <;> rfl
@[simp] theorem State.setStrandOf_who (s : State) (w : Who) (f : Strand) : (s.setStrandOf w f).who = s.who := by cases w <;> rfl
@[simp] theorem State.setStrandOf_grp (s : State) (w : Who) (f : Strand) : (s.setStrandOf w f).grp = s.grp := by cases w <;> rfl
@[simp] theorem State.setStrandOf_parked (s : State) (w : Who) (f : Strand) : (s.setStrandOf w f).parked = s.parked := by cases w <;> rfl
@[simp] theorem State.setStrandOf_parkedCl (s : State) (w : Who) (f : Strand) : (s.setStrandOf w f).parkedCl = s.parkedCl :=
  by cases w <;> rfl
@[simp] theorem State.setStrandOf_mod (s : State) (w : Who) (f : Strand) : (s.setStrandOf w f).mod = s.mod := by cases w <;> rfl
@[simp] theorem State.setStrandOf_inputs (s : State) (w : Who) (f : Strand) : (s.setStrandOf w f).inputs = s.inputs := by cases w <;> rfl
@[simp] theorem State.setStrandOf_draw (s : State) (w : Who) (f : Strand) : (s.setStrandOf w f).draw = s.draw := by cases w <;> rfl

/-! `setStrand` -/

@[simp] theorem State.setStrand_cycle (s : State) (f : Strand) : (s.setStrand f).cycle = s.cycle := State.setStrandOf_cycle ..
@[simp] theorem State.setStrand_turn (s : State) (f : Strand) : (s.setStrand f).turn = s.turn := State.setStrandOf_turn ..
@[simp] theorem State.setStrand_who (s : State) (f : Strand) : (s.setStrand f).who = s.who := State.setStrandOf_who ..
@[simp] theorem State.setStrand_grp (s : State) (f : Strand) : (s.setStrand f).grp = s.grp := State.setStrandOf_grp ..
@[simp] theorem State.setStrand_parked (s : State) (f : Strand) : (s.setStrand f).parked = s.parked := State.setStrandOf_parked ..
@[simp] theorem State.setStrand_parkedCl (s : State) (f : Strand) : (s.setStrand f).parkedCl = s.parkedCl :=
  State.setStrandOf_parkedCl ..
@[simp] theorem State.setStrand_mod (s : State) (f : Strand) : (s.setStrand f).mod = s.mod := State.setStrandOf_mod ..
@[simp] theorem State.setStrand_inputs (s : State) (f : Strand) : (s.setStrand f).inputs = s.inputs := State.setStrandOf_inputs ..
@[simp] theorem State.setStrand_draw (s : State) (f : Strand) : (s.setStrand f).draw = s.draw := State.setStrandOf_draw ..

/-! `onStrand` -/

@[simp] theorem State.onStrand_cycle (s : State) (g : Strand → Strand) : (s.onStrand g).cycle = s.cycle := State.setStrand_cycle ..
@[simp] theorem State.onStrand_turn (s : State) (g : Strand → Strand) : (s.onStrand g).turn = s.turn := State.setStrand_turn ..
@[simp] theorem State.onStrand_who (s : State) (g : Strand → Strand) : (s.onStrand g).who = s.who := State.setStrand_who ..
@[simp] theorem State.onStrand_grp (s : State) (g : Strand → Strand) : (s.onStrand g).grp = s.grp := State.setStrand_grp ..
@[simp] theorem State.onStrand_parked (s : State) (g : Strand → Strand) : (s.onStrand g).parked = s.parked := State.setStrand_parked ..
@[simp] theorem State.onStrand_parkedCl (s : State) (g : Strand → Strand) : (s.onStrand g).parkedCl = s.parkedCl :=
  State.setStrand_parkedCl ..
@[simp] theorem State.onStrand_mod (s : State) (g : Strand → Strand) : (s.onStrand g).mod = s.mod := State.setStrand_mod ..
@[simp] theorem State.onStrand_inputs (s : State) (g : Strand → Strand) : (s.onStrand g).inputs = s.inputs := State.setStrand_inputs ..
@[simp] theorem State.onStrand_draw (s : State) (g : Strand → Strand) : (s.onStrand g).draw = s.draw := State.setStrand_draw ..

/-! `setUnitOf` -/

@[simp] theorem State.setUnitOf_cycle (s : State) (w : Who) (u : StrandUnit) : (s.setUnitOf w u).cycle = s.cycle := by cases w <;> rfl
@[simp] theorem State.setUnitOf_turn (s : State) (w : Who) (u : StrandUnit) : (s.setUnitOf w u).turn = s.turn := by cases w <;> rfl
@[simp] theorem State.setUnitOf_who (s : State) (w : Who) (u : StrandUnit) : (s.setUnitOf w u).who = s.who := by cases w <;> rfl
@[simp] theorem State.setUnitOf_grp (s : State) (w : Who) (u : StrandUnit) : (s.setUnitOf w u).grp = s.grp := by cases w <;> rfl
@[simp] theorem State.setUnitOf_parked (s : State) (w : Who) (u : StrandUnit) : (s.setUnitOf w u).parked = s.parked := by cases w <;> rfl
@[simp] theorem State.setUnitOf_parkedCl (s : State) (w : Who) (u : StrandUnit) : (s.setUnitOf w u).parkedCl = s.parkedCl :=
  by cases w <;> rfl
@[simp] theorem State.setUnitOf_mod (s : State) (w : Who) (u : StrandUnit) : (s.setUnitOf w u).mod = s.mod := by cases w <;> rfl
@[simp] theorem State.setUnitOf_inputs (s : State) (w : Who) (u : StrandUnit) : (s.setUnitOf w u).inputs = s.inputs := by cases w <;> rfl
@[simp] theorem State.setUnitOf_draw (s : State) (w : Who) (u : StrandUnit) : (s.setUnitOf w u).draw = s.draw := by cases w <;> rfl

/-! `emitFull` -/

@[simp] theorem State.emitFull_cycle (s : State) (e : Effect) (fl : Flags) (lat : Nat) (m : Bool) (p : Option Word) : (s.emitFull e fl lat m p).cycle = s.cycle :=
  State.onStrand_cycle ..
@[simp] theorem State.emitFull_turn (s : State) (e : Effect) (fl : Flags) (lat : Nat) (m : Bool) (p : Option Word) : (s.emitFull e fl lat m p).turn = s.turn :=
  State.onStrand_turn ..
@[simp] theorem State.emitFull_who (s : State) (e : Effect) (fl : Flags) (lat : Nat) (m : Bool) (p : Option Word) : (s.emitFull e fl lat m p).who = s.who :=
  State.onStrand_who ..
@[simp] theorem State.emitFull_grp (s : State) (e : Effect) (fl : Flags) (lat : Nat) (m : Bool) (p : Option Word) : (s.emitFull e fl lat m p).grp = s.grp :=
  State.onStrand_grp ..
@[simp] theorem State.emitFull_parked (s : State) (e : Effect) (fl : Flags) (lat : Nat) (m : Bool) (p : Option Word) : (s.emitFull e fl lat m p).parked = s.parked :=
  State.onStrand_parked ..
@[simp] theorem State.emitFull_parkedCl (s : State) (e : Effect) (fl : Flags) (lat : Nat) (m : Bool) (p : Option Word) : (s.emitFull e fl lat m p).parkedCl = s.parkedCl :=
  State.onStrand_parkedCl ..
@[simp] theorem State.emitFull_mod (s : State) (e : Effect) (fl : Flags) (lat : Nat) (m : Bool) (p : Option Word) : (s.emitFull e fl lat m p).mod = s.mod :=
  State.onStrand_mod ..
@[simp] theorem State.emitFull_inputs (s : State) (e : Effect) (fl : Flags) (lat : Nat) (m : Bool) (p : Option Word) : (s.emitFull e fl lat m p).inputs = s.inputs :=
  State.onStrand_inputs ..
@[simp] theorem State.emitFull_draw (s : State) (e : Effect) (fl : Flags) (lat : Nat) (m : Bool) (p : Option Word) : (s.emitFull e fl lat m p).draw = s.draw :=
  State.onStrand_draw ..

/-! `emit` -/

@[simp] theorem State.emit_cycle (s : State) (e : Effect) (fl : Flags) (lat : Nat) : (s.emit e fl lat).cycle = s.cycle :=
  State.emitFull_cycle ..
@[simp] theorem State.emit_turn (s : State) (e : Effect) (fl : Flags) (lat : Nat) : (s.emit e fl lat).turn = s.turn :=
  State.emitFull_turn ..
@[simp] theorem State.emit_who (s : State) (e : Effect) (fl : Flags) (lat : Nat) : (s.emit e fl lat).who = s.who := State.emitFull_who ..
@[simp] theorem State.emit_grp (s : State) (e : Effect) (fl : Flags) (lat : Nat) : (s.emit e fl lat).grp = s.grp := State.emitFull_grp ..
@[simp] theorem State.emit_parked (s : State) (e : Effect) (fl : Flags) (lat : Nat) : (s.emit e fl lat).parked = s.parked :=
  State.emitFull_parked ..
@[simp] theorem State.emit_parkedCl (s : State) (e : Effect) (fl : Flags) (lat : Nat) : (s.emit e fl lat).parkedCl = s.parkedCl :=
  State.emitFull_parkedCl ..
@[simp] theorem State.emit_mod (s : State) (e : Effect) (fl : Flags) (lat : Nat) : (s.emit e fl lat).mod = s.mod := State.emitFull_mod ..
@[simp] theorem State.emit_inputs (s : State) (e : Effect) (fl : Flags) (lat : Nat) : (s.emit e fl lat).inputs = s.inputs :=
  State.emitFull_inputs ..
@[simp] theorem State.emit_draw (s : State) (e : Effect) (fl : Flags) (lat : Nat) : (s.emit e fl lat).draw = s.draw :=
  State.emitFull_draw ..

/-! `emitX` -/

@[simp] theorem State.emitX_cycle (s : State) (d : Fin 64) (v : Word) (lat : Nat) : (s.emitX d v lat).cycle = s.cycle :=
  State.emit_cycle ..
@[simp] theorem State.emitX_turn (s : State) (d : Fin 64) (v : Word) (lat : Nat) : (s.emitX d v lat).turn = s.turn := State.emit_turn ..
@[simp] theorem State.emitX_who (s : State) (d : Fin 64) (v : Word) (lat : Nat) : (s.emitX d v lat).who = s.who := State.emit_who ..
@[simp] theorem State.emitX_grp (s : State) (d : Fin 64) (v : Word) (lat : Nat) : (s.emitX d v lat).grp = s.grp := State.emit_grp ..
@[simp] theorem State.emitX_parked (s : State) (d : Fin 64) (v : Word) (lat : Nat) : (s.emitX d v lat).parked = s.parked :=
  State.emit_parked ..
@[simp] theorem State.emitX_parkedCl (s : State) (d : Fin 64) (v : Word) (lat : Nat) : (s.emitX d v lat).parkedCl = s.parkedCl :=
  State.emit_parkedCl ..
@[simp] theorem State.emitX_mod (s : State) (d : Fin 64) (v : Word) (lat : Nat) : (s.emitX d v lat).mod = s.mod := State.emit_mod ..
@[simp] theorem State.emitX_inputs (s : State) (d : Fin 64) (v : Word) (lat : Nat) : (s.emitX d v lat).inputs = s.inputs :=
  State.emit_inputs ..
@[simp] theorem State.emitX_draw (s : State) (d : Fin 64) (v : Word) (lat : Nat) : (s.emitX d v lat).draw = s.draw := State.emit_draw ..

/-! `emitP` -/

@[simp] theorem State.emitP_cycle (s : State) (d : Fin 16) (v : Bool) (lat : Nat) : (s.emitP d v lat).cycle = s.cycle :=
  State.emit_cycle ..
@[simp] theorem State.emitP_turn (s : State) (d : Fin 16) (v : Bool) (lat : Nat) : (s.emitP d v lat).turn = s.turn := State.emit_turn ..
@[simp] theorem State.emitP_who (s : State) (d : Fin 16) (v : Bool) (lat : Nat) : (s.emitP d v lat).who = s.who := State.emit_who ..
@[simp] theorem State.emitP_grp (s : State) (d : Fin 16) (v : Bool) (lat : Nat) : (s.emitP d v lat).grp = s.grp := State.emit_grp ..
@[simp] theorem State.emitP_parked (s : State) (d : Fin 16) (v : Bool) (lat : Nat) : (s.emitP d v lat).parked = s.parked :=
  State.emit_parked ..
@[simp] theorem State.emitP_parkedCl (s : State) (d : Fin 16) (v : Bool) (lat : Nat) : (s.emitP d v lat).parkedCl = s.parkedCl :=
  State.emit_parkedCl ..
@[simp] theorem State.emitP_mod (s : State) (d : Fin 16) (v : Bool) (lat : Nat) : (s.emitP d v lat).mod = s.mod := State.emit_mod ..
@[simp] theorem State.emitP_inputs (s : State) (d : Fin 16) (v : Bool) (lat : Nat) : (s.emitP d v lat).inputs = s.inputs :=
  State.emit_inputs ..
@[simp] theorem State.emitP_draw (s : State) (d : Fin 16) (v : Bool) (lat : Nat) : (s.emitP d v lat).draw = s.draw := State.emit_draw ..

/-! `orFlags` -/

@[simp] theorem State.orFlags_cycle (s : State) (w : Who) (fl : Flags) : (s.orFlags w fl).cycle = s.cycle := State.setStrandOf_cycle ..
@[simp] theorem State.orFlags_turn (s : State) (w : Who) (fl : Flags) : (s.orFlags w fl).turn = s.turn := State.setStrandOf_turn ..
@[simp] theorem State.orFlags_who (s : State) (w : Who) (fl : Flags) : (s.orFlags w fl).who = s.who := State.setStrandOf_who ..
@[simp] theorem State.orFlags_grp (s : State) (w : Who) (fl : Flags) : (s.orFlags w fl).grp = s.grp := State.setStrandOf_grp ..
@[simp] theorem State.orFlags_parked (s : State) (w : Who) (fl : Flags) : (s.orFlags w fl).parked = s.parked :=
  State.setStrandOf_parked ..
@[simp] theorem State.orFlags_parkedCl (s : State) (w : Who) (fl : Flags) : (s.orFlags w fl).parkedCl = s.parkedCl :=
  State.setStrandOf_parkedCl ..
@[simp] theorem State.orFlags_mod (s : State) (w : Who) (fl : Flags) : (s.orFlags w fl).mod = s.mod := State.setStrandOf_mod ..
@[simp] theorem State.orFlags_inputs (s : State) (w : Who) (fl : Flags) : (s.orFlags w fl).inputs = s.inputs :=
  State.setStrandOf_inputs ..
@[simp] theorem State.orFlags_draw (s : State) (w : Who) (fl : Flags) : (s.orFlags w fl).draw = s.draw := State.setStrandOf_draw ..

/-! `writeSysreg` -/

@[simp] theorem State.writeSysreg_cycle (s : State) (w : Who) (n : Nat) (v : Word) : (writeSysreg w n v s).cycle = s.cycle :=
  by unfold writeSysreg; split <;> simp
@[simp] theorem State.writeSysreg_turn (s : State) (w : Who) (n : Nat) (v : Word) : (writeSysreg w n v s).turn = s.turn :=
  by unfold writeSysreg; split <;> simp
@[simp] theorem State.writeSysreg_who (s : State) (w : Who) (n : Nat) (v : Word) : (writeSysreg w n v s).who = s.who :=
  by unfold writeSysreg; split <;> simp
@[simp] theorem State.writeSysreg_grp (s : State) (w : Who) (n : Nat) (v : Word) : (writeSysreg w n v s).grp = s.grp :=
  by unfold writeSysreg; split <;> simp
@[simp] theorem State.writeSysreg_parked (s : State) (w : Who) (n : Nat) (v : Word) : (writeSysreg w n v s).parked = s.parked :=
  by unfold writeSysreg; split <;> simp
@[simp] theorem State.writeSysreg_parkedCl (s : State) (w : Who) (n : Nat) (v : Word) : (writeSysreg w n v s).parkedCl = s.parkedCl :=
  by unfold writeSysreg; split <;> simp
@[simp] theorem State.writeSysreg_mod (s : State) (w : Who) (n : Nat) (v : Word) : (writeSysreg w n v s).mod = s.mod :=
  by unfold writeSysreg; split <;> simp
@[simp] theorem State.writeSysreg_inputs (s : State) (w : Who) (n : Nat) (v : Word) : (writeSysreg w n v s).inputs = s.inputs :=
  by unfold writeSysreg; split <;> simp
@[simp] theorem State.writeSysreg_draw (s : State) (w : Who) (n : Nat) (v : Word) : (writeSysreg w n v s).draw = s.draw :=
  by unfold writeSysreg; split <;> simp

/-! `applyEffect` -/

@[simp] theorem State.applyEffect_cycle (s : State) (w : Who) (e : Effect) : (s.applyEffect w e).cycle = s.cycle :=
  by cases e <;> simp only [State.applyEffect] <;> (try split) <;> simp
@[simp] theorem State.applyEffect_turn (s : State) (w : Who) (e : Effect) : (s.applyEffect w e).turn = s.turn :=
  by cases e <;> simp only [State.applyEffect] <;> (try split) <;> simp
@[simp] theorem State.applyEffect_who (s : State) (w : Who) (e : Effect) : (s.applyEffect w e).who = s.who :=
  by cases e <;> simp only [State.applyEffect] <;> (try split) <;> simp
@[simp] theorem State.applyEffect_grp (s : State) (w : Who) (e : Effect) : (s.applyEffect w e).grp = s.grp :=
  by cases e <;> simp only [State.applyEffect] <;> (try split) <;> simp
@[simp] theorem State.applyEffect_parked (s : State) (w : Who) (e : Effect) : (s.applyEffect w e).parked = s.parked :=
  by cases e <;> simp only [State.applyEffect] <;> (try split) <;> simp
@[simp] theorem State.applyEffect_parkedCl (s : State) (w : Who) (e : Effect) : (s.applyEffect w e).parkedCl = s.parkedCl :=
  by cases e <;> simp only [State.applyEffect] <;> (try split) <;> simp
@[simp] theorem State.applyEffect_mod (s : State) (w : Who) (e : Effect) : (s.applyEffect w e).mod = s.mod :=
  by cases e <;> simp only [State.applyEffect] <;> (try split) <;> simp
@[simp] theorem State.applyEffect_inputs (s : State) (w : Who) (e : Effect) : (s.applyEffect w e).inputs = s.inputs :=
  by cases e <;> simp only [State.applyEffect] <;> (try split) <;> simp
@[simp] theorem State.applyEffect_draw (s : State) (w : Who) (e : Effect) : (s.applyEffect w e).draw = s.draw :=
  by cases e <;> simp only [State.applyEffect] <;> (try split) <;> simp

/-! `setSp` -/

@[simp] theorem State.setSp_cycle (s : State) (m : Memory) : (s.setSp m).cycle = s.cycle := by unfold State.setSp; split <;> rfl
@[simp] theorem State.setSp_turn (s : State) (m : Memory) : (s.setSp m).turn = s.turn := by unfold State.setSp; split <;> rfl
@[simp] theorem State.setSp_who (s : State) (m : Memory) : (s.setSp m).who = s.who := by unfold State.setSp; split <;> rfl
@[simp] theorem State.setSp_grp (s : State) (m : Memory) : (s.setSp m).grp = s.grp := by unfold State.setSp; split <;> rfl
@[simp] theorem State.setSp_parked (s : State) (m : Memory) : (s.setSp m).parked = s.parked := by unfold State.setSp; split <;> rfl
@[simp] theorem State.setSp_parkedCl (s : State) (m : Memory) : (s.setSp m).parkedCl = s.parkedCl := by unfold State.setSp; split <;> rfl
@[simp] theorem State.setSp_mod (s : State) (m : Memory) : (s.setSp m).mod = s.mod := by unfold State.setSp; split <;> rfl
@[simp] theorem State.setSp_inputs (s : State) (m : Memory) : (s.setSp m).inputs = s.inputs := by unfold State.setSp; split <;> rfl
@[simp] theorem State.setSp_draw (s : State) (m : Memory) : (s.setSp m).draw = s.draw := by unfold State.setSp; split <;> rfl

/-! `setSpPoison` -/

@[simp] theorem State.setSpPoison_cycle (s : State) (p : List Nat) : (s.setSpPoison p).cycle = s.cycle :=
  by unfold State.setSpPoison; split <;> rfl
@[simp] theorem State.setSpPoison_turn (s : State) (p : List Nat) : (s.setSpPoison p).turn = s.turn :=
  by unfold State.setSpPoison; split <;> rfl
@[simp] theorem State.setSpPoison_who (s : State) (p : List Nat) : (s.setSpPoison p).who = s.who :=
  by unfold State.setSpPoison; split <;> rfl
@[simp] theorem State.setSpPoison_grp (s : State) (p : List Nat) : (s.setSpPoison p).grp = s.grp :=
  by unfold State.setSpPoison; split <;> rfl
@[simp] theorem State.setSpPoison_parked (s : State) (p : List Nat) : (s.setSpPoison p).parked = s.parked :=
  by unfold State.setSpPoison; split <;> rfl
@[simp] theorem State.setSpPoison_parkedCl (s : State) (p : List Nat) : (s.setSpPoison p).parkedCl = s.parkedCl :=
  by unfold State.setSpPoison; split <;> rfl
@[simp] theorem State.setSpPoison_mod (s : State) (p : List Nat) : (s.setSpPoison p).mod = s.mod :=
  by unfold State.setSpPoison; split <;> rfl
@[simp] theorem State.setSpPoison_inputs (s : State) (p : List Nat) : (s.setSpPoison p).inputs = s.inputs :=
  by unfold State.setSpPoison; split <;> rfl
@[simp] theorem State.setSpPoison_draw (s : State) (p : List Nat) : (s.setSpPoison p).draw = s.draw :=
  by unfold State.setSpPoison; split <;> rfl

/-! `spWrite` -/

@[simp] theorem State.spWrite_cycle (s : State) (a : Nat) (bs : List Byte) : (s.spWrite a bs).cycle = s.cycle := by simp [State.spWrite]
@[simp] theorem State.spWrite_turn (s : State) (a : Nat) (bs : List Byte) : (s.spWrite a bs).turn = s.turn := by simp [State.spWrite]
@[simp] theorem State.spWrite_who (s : State) (a : Nat) (bs : List Byte) : (s.spWrite a bs).who = s.who := by simp [State.spWrite]
@[simp] theorem State.spWrite_grp (s : State) (a : Nat) (bs : List Byte) : (s.spWrite a bs).grp = s.grp := by simp [State.spWrite]
@[simp] theorem State.spWrite_parked (s : State) (a : Nat) (bs : List Byte) : (s.spWrite a bs).parked = s.parked :=
  by simp [State.spWrite]
@[simp] theorem State.spWrite_parkedCl (s : State) (a : Nat) (bs : List Byte) : (s.spWrite a bs).parkedCl = s.parkedCl :=
  by simp [State.spWrite]
@[simp] theorem State.spWrite_mod (s : State) (a : Nat) (bs : List Byte) : (s.spWrite a bs).mod = s.mod := by simp [State.spWrite]
@[simp] theorem State.spWrite_inputs (s : State) (a : Nat) (bs : List Byte) : (s.spWrite a bs).inputs = s.inputs :=
  by simp [State.spWrite]
@[simp] theorem State.spWrite_draw (s : State) (a : Nat) (bs : List Byte) : (s.spWrite a bs).draw = s.draw := by simp [State.spWrite]

/-! `verdict` -/

@[simp] theorem State.verdict_cycle (s : State) (v : Verdict) : (s.verdict v).cycle = s.cycle := rfl
@[simp] theorem State.verdict_turn (s : State) (v : Verdict) : (s.verdict v).turn = s.turn := rfl
@[simp] theorem State.verdict_who (s : State) (v : Verdict) : (s.verdict v).who = s.who := rfl
@[simp] theorem State.verdict_core (s : State) (v : Verdict) : (s.verdict v).core = s.core := rfl
@[simp] theorem State.verdict_parked (s : State) (v : Verdict) : (s.verdict v).parked = s.parked := rfl
@[simp] theorem State.verdict_ctl (s : State) (v : Verdict) : (s.verdict v).ctl = s.ctl := rfl
@[simp] theorem State.verdict_parkedCl (s : State) (v : Verdict) : (s.verdict v).parkedCl = s.parkedCl := rfl
@[simp] theorem State.verdict_mod (s : State) (v : Verdict) : (s.verdict v).mod = s.mod := rfl
@[simp] theorem State.verdict_inputs (s : State) (v : Verdict) : (s.verdict v).inputs = s.inputs := rfl
@[simp] theorem State.verdict_draw (s : State) (v : Verdict) : (s.verdict v).draw = s.draw := rfl

/-! `atItem` -/

@[simp] theorem State.atItem_cycle (s : State) (i : Item) : (s.atItem i).cycle = s.cycle := rfl
@[simp] theorem State.atItem_turn (s : State) (i : Item) : (s.atItem i).turn = s.turn := rfl
@[simp] theorem State.atItem_who (s : State) (i : Item) : (s.atItem i).who = s.who := rfl
@[simp] theorem State.atItem_core (s : State) (i : Item) : (s.atItem i).core = s.core := rfl
@[simp] theorem State.atItem_parked (s : State) (i : Item) : (s.atItem i).parked = s.parked := rfl
@[simp] theorem State.atItem_ctl (s : State) (i : Item) : (s.atItem i).ctl = s.ctl := rfl
@[simp] theorem State.atItem_parkedCl (s : State) (i : Item) : (s.atItem i).parkedCl = s.parkedCl := rfl
@[simp] theorem State.atItem_mod (s : State) (i : Item) : (s.atItem i).mod = s.mod := rfl
@[simp] theorem State.atItem_inputs (s : State) (i : Item) : (s.atItem i).inputs = s.inputs := rfl
@[simp] theorem State.atItem_draw (s : State) (i : Item) : (s.atItem i).draw = s.draw := rfl

/-! `jump` -/

@[simp] theorem State.jump_cycle (s : State) (pc : Nat) : (s.jump pc).cycle = s.cycle := State.onStrand_cycle ..
@[simp] theorem State.jump_turn (s : State) (pc : Nat) : (s.jump pc).turn = s.turn := State.onStrand_turn ..
@[simp] theorem State.jump_who (s : State) (pc : Nat) : (s.jump pc).who = s.who := State.onStrand_who ..
@[simp] theorem State.jump_grp (s : State) (pc : Nat) : (s.jump pc).grp = s.grp := State.onStrand_grp ..
@[simp] theorem State.jump_parked (s : State) (pc : Nat) : (s.jump pc).parked = s.parked := State.onStrand_parked ..
@[simp] theorem State.jump_parkedCl (s : State) (pc : Nat) : (s.jump pc).parkedCl = s.parkedCl := State.onStrand_parkedCl ..
@[simp] theorem State.jump_mod (s : State) (pc : Nat) : (s.jump pc).mod = s.mod := State.onStrand_mod ..
@[simp] theorem State.jump_inputs (s : State) (pc : Nat) : (s.jump pc).inputs = s.inputs := State.onStrand_inputs ..
@[simp] theorem State.jump_draw (s : State) (pc : Nat) : (s.jump pc).draw = s.draw := State.onStrand_draw ..

/-! `jumpIf` -/

@[simp] theorem State.jumpIf_cycle (s : State) (b : Bool) (pc : Nat) : (s.jumpIf b pc).cycle = s.cycle :=
  by unfold State.jumpIf; split <;> simp
@[simp] theorem State.jumpIf_turn (s : State) (b : Bool) (pc : Nat) : (s.jumpIf b pc).turn = s.turn :=
  by unfold State.jumpIf; split <;> simp
@[simp] theorem State.jumpIf_who (s : State) (b : Bool) (pc : Nat) : (s.jumpIf b pc).who = s.who :=
  by unfold State.jumpIf; split <;> simp
@[simp] theorem State.jumpIf_grp (s : State) (b : Bool) (pc : Nat) : (s.jumpIf b pc).grp = s.grp :=
  by unfold State.jumpIf; split <;> simp
@[simp] theorem State.jumpIf_parked (s : State) (b : Bool) (pc : Nat) : (s.jumpIf b pc).parked = s.parked :=
  by unfold State.jumpIf; split <;> simp
@[simp] theorem State.jumpIf_parkedCl (s : State) (b : Bool) (pc : Nat) : (s.jumpIf b pc).parkedCl = s.parkedCl :=
  by unfold State.jumpIf; split <;> simp
@[simp] theorem State.jumpIf_mod (s : State) (b : Bool) (pc : Nat) : (s.jumpIf b pc).mod = s.mod :=
  by unfold State.jumpIf; split <;> simp
@[simp] theorem State.jumpIf_inputs (s : State) (b : Bool) (pc : Nat) : (s.jumpIf b pc).inputs = s.inputs :=
  by unfold State.jumpIf; split <;> simp
@[simp] theorem State.jumpIf_draw (s : State) (b : Bool) (pc : Nat) : (s.jumpIf b pc).draw = s.draw :=
  by unfold State.jumpIf; split <;> simp

/-! `eret` -/

@[simp] theorem State.eret_cycle (s : State) (es : List ReplayEntry) (n : Option Nest) : (s.eret es n).cycle = s.cycle :=
  State.onStrand_cycle ..
@[simp] theorem State.eret_turn (s : State) (es : List ReplayEntry) (n : Option Nest) : (s.eret es n).turn = s.turn :=
  State.onStrand_turn ..
@[simp] theorem State.eret_who (s : State) (es : List ReplayEntry) (n : Option Nest) : (s.eret es n).who = s.who := State.onStrand_who ..
@[simp] theorem State.eret_grp (s : State) (es : List ReplayEntry) (n : Option Nest) : (s.eret es n).grp = s.grp := State.onStrand_grp ..
@[simp] theorem State.eret_parked (s : State) (es : List ReplayEntry) (n : Option Nest) : (s.eret es n).parked = s.parked :=
  State.onStrand_parked ..
@[simp] theorem State.eret_parkedCl (s : State) (es : List ReplayEntry) (n : Option Nest) : (s.eret es n).parkedCl = s.parkedCl :=
  State.onStrand_parkedCl ..
@[simp] theorem State.eret_mod (s : State) (es : List ReplayEntry) (n : Option Nest) : (s.eret es n).mod = s.mod := State.onStrand_mod ..
@[simp] theorem State.eret_inputs (s : State) (es : List ReplayEntry) (n : Option Nest) : (s.eret es n).inputs = s.inputs :=
  State.onStrand_inputs ..
@[simp] theorem State.eret_draw (s : State) (es : List ReplayEntry) (n : Option Nest) : (s.eret es n).draw = s.draw :=
  State.onStrand_draw ..

/-! `report` -/

@[simp] theorem State.report_cycle (s : State) (c : Byte) : (s.report c).cycle = s.cycle := rfl
@[simp] theorem State.report_turn (s : State) (c : Byte) : (s.report c).turn = s.turn := rfl
@[simp] theorem State.report_who (s : State) (c : Byte) : (s.report c).who = s.who := rfl
@[simp] theorem State.report_grp (s : State) (c : Byte) : (s.report c).grp = s.grp := rfl
@[simp] theorem State.report_core (s : State) (c : Byte) : (s.report c).core = s.core := rfl
@[simp] theorem State.report_parked (s : State) (c : Byte) : (s.report c).parked = s.parked := rfl
@[simp] theorem State.report_ctl (s : State) (c : Byte) : (s.report c).ctl = s.ctl := rfl
@[simp] theorem State.report_parkedCl (s : State) (c : Byte) : (s.report c).parkedCl = s.parkedCl := rfl
@[simp] theorem State.report_inputs (s : State) (c : Byte) : (s.report c).inputs = s.inputs := rfl
@[simp] theorem State.report_draw (s : State) (c : Byte) : (s.report c).draw = s.draw := rfl

/-! `setQueue` -/

@[simp] theorem State.setQueue_cycle (s : State) (q : Fin 8) (d : DataQueue) : (s.setQueue q d).cycle = s.cycle := rfl
@[simp] theorem State.setQueue_turn (s : State) (q : Fin 8) (d : DataQueue) : (s.setQueue q d).turn = s.turn := rfl
@[simp] theorem State.setQueue_who (s : State) (q : Fin 8) (d : DataQueue) : (s.setQueue q d).who = s.who := rfl
@[simp] theorem State.setQueue_grp (s : State) (q : Fin 8) (d : DataQueue) : (s.setQueue q d).grp = s.grp := rfl
@[simp] theorem State.setQueue_parked (s : State) (q : Fin 8) (d : DataQueue) : (s.setQueue q d).parked = s.parked := rfl
@[simp] theorem State.setQueue_ctl (s : State) (q : Fin 8) (d : DataQueue) : (s.setQueue q d).ctl = s.ctl := rfl
@[simp] theorem State.setQueue_parkedCl (s : State) (q : Fin 8) (d : DataQueue) : (s.setQueue q d).parkedCl = s.parkedCl := rfl
@[simp] theorem State.setQueue_mod (s : State) (q : Fin 8) (d : DataQueue) : (s.setQueue q d).mod = s.mod := rfl
@[simp] theorem State.setQueue_inputs (s : State) (q : Fin 8) (d : DataQueue) : (s.setQueue q d).inputs = s.inputs := rfl
@[simp] theorem State.setQueue_draw (s : State) (q : Fin 8) (d : DataQueue) : (s.setQueue q d).draw = s.draw := rfl

/-! `putQueue` -/

@[simp] theorem State.putQueue_cycle (s : State) (c : Bool) (q : Fin 8) (v : Queue) : (s.putQueue c q v).cycle = s.cycle :=
  by unfold State.putQueue; split <;> rfl
@[simp] theorem State.putQueue_turn (s : State) (c : Bool) (q : Fin 8) (v : Queue) : (s.putQueue c q v).turn = s.turn :=
  by unfold State.putQueue; split <;> rfl
@[simp] theorem State.putQueue_who (s : State) (c : Bool) (q : Fin 8) (v : Queue) : (s.putQueue c q v).who = s.who :=
  by unfold State.putQueue; split <;> rfl
@[simp] theorem State.putQueue_grp (s : State) (c : Bool) (q : Fin 8) (v : Queue) : (s.putQueue c q v).grp = s.grp :=
  by unfold State.putQueue; split <;> rfl
@[simp] theorem State.putQueue_parked (s : State) (c : Bool) (q : Fin 8) (v : Queue) : (s.putQueue c q v).parked = s.parked :=
  by unfold State.putQueue; split <;> rfl
@[simp] theorem State.putQueue_parkedCl (s : State) (c : Bool) (q : Fin 8) (v : Queue) : (s.putQueue c q v).parkedCl = s.parkedCl :=
  by unfold State.putQueue; split <;> rfl
@[simp] theorem State.putQueue_mod (s : State) (c : Bool) (q : Fin 8) (v : Queue) : (s.putQueue c q v).mod = s.mod :=
  by unfold State.putQueue; split <;> rfl
@[simp] theorem State.putQueue_inputs (s : State) (c : Bool) (q : Fin 8) (v : Queue) : (s.putQueue c q v).inputs = s.inputs :=
  by unfold State.putQueue; split <;> rfl
@[simp] theorem State.putQueue_draw (s : State) (c : Bool) (q : Fin 8) (v : Queue) : (s.putQueue c q v).draw = s.draw :=
  by unfold State.putQueue; split <;> rfl

/-! `enqueue` -/

@[simp] theorem State.enqueue_cycle (s : State) (c : Command) : (s.enqueue c).cycle = s.cycle :=
  by simp only [State.enqueue]; split <;> simp
@[simp] theorem State.enqueue_turn (s : State) (c : Command) : (s.enqueue c).turn = s.turn :=
  by simp only [State.enqueue]; split <;> simp
@[simp] theorem State.enqueue_who (s : State) (c : Command) : (s.enqueue c).who = s.who := by simp only [State.enqueue]; split <;> simp
@[simp] theorem State.enqueue_grp (s : State) (c : Command) : (s.enqueue c).grp = s.grp := by simp only [State.enqueue]; split <;> simp
@[simp] theorem State.enqueue_parked (s : State) (c : Command) : (s.enqueue c).parked = s.parked :=
  by simp only [State.enqueue]; split <;> simp
@[simp] theorem State.enqueue_parkedCl (s : State) (c : Command) : (s.enqueue c).parkedCl = s.parkedCl :=
  by simp only [State.enqueue]; split <;> simp
@[simp] theorem State.enqueue_mod (s : State) (c : Command) : (s.enqueue c).mod = s.mod := by simp only [State.enqueue]; split <;> simp
@[simp] theorem State.enqueue_inputs (s : State) (c : Command) : (s.enqueue c).inputs = s.inputs :=
  by simp only [State.enqueue]; split <;> simp
@[simp] theorem State.enqueue_draw (s : State) (c : Command) : (s.enqueue c).draw = s.draw :=
  by simp only [State.enqueue]; split <;> simp

/-! `setRing` -/

@[simp] theorem State.setRing_cycle (s : State) (r : Fin 8) (g : Ring) : (s.setRing r g).cycle = s.cycle := rfl
@[simp] theorem State.setRing_turn (s : State) (r : Fin 8) (g : Ring) : (s.setRing r g).turn = s.turn := rfl
@[simp] theorem State.setRing_who (s : State) (r : Fin 8) (g : Ring) : (s.setRing r g).who = s.who := rfl
@[simp] theorem State.setRing_grp (s : State) (r : Fin 8) (g : Ring) : (s.setRing r g).grp = s.grp := rfl
@[simp] theorem State.setRing_parked (s : State) (r : Fin 8) (g : Ring) : (s.setRing r g).parked = s.parked := rfl
@[simp] theorem State.setRing_ctl (s : State) (r : Fin 8) (g : Ring) : (s.setRing r g).ctl = s.ctl := rfl
@[simp] theorem State.setRing_parkedCl (s : State) (r : Fin 8) (g : Ring) : (s.setRing r g).parkedCl = s.parkedCl := rfl
@[simp] theorem State.setRing_mod (s : State) (r : Fin 8) (g : Ring) : (s.setRing r g).mod = s.mod := rfl
@[simp] theorem State.setRing_inputs (s : State) (r : Fin 8) (g : Ring) : (s.setRing r g).inputs = s.inputs := rfl
@[simp] theorem State.setRing_draw (s : State) (r : Fin 8) (g : Ring) : (s.setRing r g).draw = s.draw := rfl

/-! `store` -/

@[simp] theorem State.store_cycle (s : State) (pa : Nat) (bs : List Byte) : (s.store pa bs).cycle = s.cycle := rfl
@[simp] theorem State.store_turn (s : State) (pa : Nat) (bs : List Byte) : (s.store pa bs).turn = s.turn := rfl
@[simp] theorem State.store_who (s : State) (pa : Nat) (bs : List Byte) : (s.store pa bs).who = s.who := rfl
@[simp] theorem State.store_grp (s : State) (pa : Nat) (bs : List Byte) : (s.store pa bs).grp = s.grp := rfl
@[simp] theorem State.store_core (s : State) (pa : Nat) (bs : List Byte) : (s.store pa bs).core = s.core := rfl
@[simp] theorem State.store_parked (s : State) (pa : Nat) (bs : List Byte) : (s.store pa bs).parked = s.parked := rfl
@[simp] theorem State.store_ctl (s : State) (pa : Nat) (bs : List Byte) : (s.store pa bs).ctl = s.ctl := rfl
@[simp] theorem State.store_parkedCl (s : State) (pa : Nat) (bs : List Byte) : (s.store pa bs).parkedCl = s.parkedCl := rfl
@[simp] theorem State.store_inputs (s : State) (pa : Nat) (bs : List Byte) : (s.store pa bs).inputs = s.inputs := rfl
@[simp] theorem State.store_draw (s : State) (pa : Nat) (bs : List Byte) : (s.store pa bs).draw = s.draw := rfl

/-! `keepLine` -/

@[simp] theorem State.keepLine_cycle (s : State) (pl : Place) (r : Bool) : (s.keepLine pl r).cycle = s.cycle :=
  by unfold State.keepLine; split <;> rfl
@[simp] theorem State.keepLine_turn (s : State) (pl : Place) (r : Bool) : (s.keepLine pl r).turn = s.turn :=
  by unfold State.keepLine; split <;> rfl
@[simp] theorem State.keepLine_who (s : State) (pl : Place) (r : Bool) : (s.keepLine pl r).who = s.who :=
  by unfold State.keepLine; split <;> rfl
@[simp] theorem State.keepLine_grp (s : State) (pl : Place) (r : Bool) : (s.keepLine pl r).grp = s.grp :=
  by unfold State.keepLine; split <;> rfl
@[simp] theorem State.keepLine_parked (s : State) (pl : Place) (r : Bool) : (s.keepLine pl r).parked = s.parked :=
  by unfold State.keepLine; split <;> rfl
@[simp] theorem State.keepLine_ctl (s : State) (pl : Place) (r : Bool) : (s.keepLine pl r).ctl = s.ctl :=
  by unfold State.keepLine; split <;> rfl
@[simp] theorem State.keepLine_parkedCl (s : State) (pl : Place) (r : Bool) : (s.keepLine pl r).parkedCl = s.parkedCl :=
  by unfold State.keepLine; split <;> rfl
@[simp] theorem State.keepLine_mod (s : State) (pl : Place) (r : Bool) : (s.keepLine pl r).mod = s.mod :=
  by unfold State.keepLine; split <;> rfl
@[simp] theorem State.keepLine_inputs (s : State) (pl : Place) (r : Bool) : (s.keepLine pl r).inputs = s.inputs :=
  by unfold State.keepLine; split <;> rfl
@[simp] theorem State.keepLine_draw (s : State) (pl : Place) (r : Bool) : (s.keepLine pl r).draw = s.draw :=
  by unfold State.keepLine; split <;> rfl

/-! `note` -/

@[simp] theorem State.note_cycle (s : State) (va : Word) (pl : Place) (r : Bool) : (s.note va pl r).cycle = s.cycle :=
  by unfold State.note; split <;> simp
@[simp] theorem State.note_turn (s : State) (va : Word) (pl : Place) (r : Bool) : (s.note va pl r).turn = s.turn :=
  by unfold State.note; split <;> simp
@[simp] theorem State.note_who (s : State) (va : Word) (pl : Place) (r : Bool) : (s.note va pl r).who = s.who :=
  by unfold State.note; split <;> simp
@[simp] theorem State.note_grp (s : State) (va : Word) (pl : Place) (r : Bool) : (s.note va pl r).grp = s.grp :=
  by unfold State.note; split <;> simp
@[simp] theorem State.note_parked (s : State) (va : Word) (pl : Place) (r : Bool) : (s.note va pl r).parked = s.parked :=
  by unfold State.note; split <;> simp
@[simp] theorem State.note_ctl (s : State) (va : Word) (pl : Place) (r : Bool) : (s.note va pl r).ctl = s.ctl :=
  by unfold State.note; split <;> simp
@[simp] theorem State.note_parkedCl (s : State) (va : Word) (pl : Place) (r : Bool) : (s.note va pl r).parkedCl = s.parkedCl :=
  by unfold State.note; split <;> simp
@[simp] theorem State.note_inputs (s : State) (va : Word) (pl : Place) (r : Bool) : (s.note va pl r).inputs = s.inputs :=
  by unfold State.note; split <;> simp
@[simp] theorem State.note_draw (s : State) (va : Word) (pl : Place) (r : Bool) : (s.note va pl r).draw = s.draw :=
  by unfold State.note; split <;> simp

/-! `noteTag` -/

@[simp] theorem State.noteTag_cycle (s : State) (va : Word) (pl : Place) (i c : Nat) (r : Bool) : (s.noteTag va pl i c r).cycle = s.cycle :=
  by unfold State.noteTag; split <;> simp
@[simp] theorem State.noteTag_turn (s : State) (va : Word) (pl : Place) (i c : Nat) (r : Bool) : (s.noteTag va pl i c r).turn = s.turn :=
  by unfold State.noteTag; split <;> simp
@[simp] theorem State.noteTag_who (s : State) (va : Word) (pl : Place) (i c : Nat) (r : Bool) : (s.noteTag va pl i c r).who = s.who :=
  by unfold State.noteTag; split <;> simp
@[simp] theorem State.noteTag_grp (s : State) (va : Word) (pl : Place) (i c : Nat) (r : Bool) : (s.noteTag va pl i c r).grp = s.grp :=
  by unfold State.noteTag; split <;> simp
@[simp] theorem State.noteTag_parked (s : State) (va : Word) (pl : Place) (i c : Nat) (r : Bool) : (s.noteTag va pl i c r).parked = s.parked :=
  by unfold State.noteTag; split <;> simp
@[simp] theorem State.noteTag_ctl (s : State) (va : Word) (pl : Place) (i c : Nat) (r : Bool) : (s.noteTag va pl i c r).ctl = s.ctl :=
  by unfold State.noteTag; split <;> simp
@[simp] theorem State.noteTag_parkedCl (s : State) (va : Word) (pl : Place) (i c : Nat) (r : Bool) : (s.noteTag va pl i c r).parkedCl = s.parkedCl :=
  by unfold State.noteTag; split <;> simp
@[simp] theorem State.noteTag_inputs (s : State) (va : Word) (pl : Place) (i c : Nat) (r : Bool) : (s.noteTag va pl i c r).inputs = s.inputs :=
  by unfold State.noteTag; split <;> simp
@[simp] theorem State.noteTag_draw (s : State) (va : Word) (pl : Place) (i c : Nat) (r : Bool) : (s.noteTag va pl i c r).draw = s.draw :=
  by unfold State.noteTag; split <;> simp

/-! `onPart` -/

@[simp] theorem State.onPart_cycle (s : State) (n : Fin 16) (g : Partition → Partition) : (s.onPart n g).cycle = s.cycle := rfl
@[simp] theorem State.onPart_turn (s : State) (n : Fin 16) (g : Partition → Partition) : (s.onPart n g).turn = s.turn := rfl
@[simp] theorem State.onPart_who (s : State) (n : Fin 16) (g : Partition → Partition) : (s.onPart n g).who = s.who := rfl
@[simp] theorem State.onPart_grp (s : State) (n : Fin 16) (g : Partition → Partition) : (s.onPart n g).grp = s.grp := rfl
@[simp] theorem State.onPart_core (s : State) (n : Fin 16) (g : Partition → Partition) : (s.onPart n g).core = s.core := rfl
@[simp] theorem State.onPart_parked (s : State) (n : Fin 16) (g : Partition → Partition) : (s.onPart n g).parked = s.parked := rfl
@[simp] theorem State.onPart_ctl (s : State) (n : Fin 16) (g : Partition → Partition) : (s.onPart n g).ctl = s.ctl := rfl
@[simp] theorem State.onPart_parkedCl (s : State) (n : Fin 16) (g : Partition → Partition) : (s.onPart n g).parkedCl = s.parkedCl := rfl
@[simp] theorem State.onPart_inputs (s : State) (n : Fin 16) (g : Partition → Partition) : (s.onPart n g).inputs = s.inputs := rfl
@[simp] theorem State.onPart_draw (s : State) (n : Fin 16) (g : Partition → Partition) : (s.onPart n g).draw = s.draw := rfl

/-! `onVf` -/

@[simp] theorem State.onVf_cycle (s : State) (v : Fin 128) (g : VirtualFunction → VirtualFunction) : (s.onVf v g).cycle = s.cycle := rfl
@[simp] theorem State.onVf_turn (s : State) (v : Fin 128) (g : VirtualFunction → VirtualFunction) : (s.onVf v g).turn = s.turn := rfl
@[simp] theorem State.onVf_who (s : State) (v : Fin 128) (g : VirtualFunction → VirtualFunction) : (s.onVf v g).who = s.who := rfl
@[simp] theorem State.onVf_grp (s : State) (v : Fin 128) (g : VirtualFunction → VirtualFunction) : (s.onVf v g).grp = s.grp := rfl
@[simp] theorem State.onVf_core (s : State) (v : Fin 128) (g : VirtualFunction → VirtualFunction) : (s.onVf v g).core = s.core := rfl
@[simp] theorem State.onVf_parked (s : State) (v : Fin 128) (g : VirtualFunction → VirtualFunction) : (s.onVf v g).parked = s.parked :=
  rfl
@[simp] theorem State.onVf_ctl (s : State) (v : Fin 128) (g : VirtualFunction → VirtualFunction) : (s.onVf v g).ctl = s.ctl := rfl
@[simp] theorem State.onVf_parkedCl (s : State) (v : Fin 128) (g : VirtualFunction → VirtualFunction) : (s.onVf v g).parkedCl = s.parkedCl :=
  rfl
@[simp] theorem State.onVf_inputs (s : State) (v : Fin 128) (g : VirtualFunction → VirtualFunction) : (s.onVf v g).inputs = s.inputs :=
  rfl
@[simp] theorem State.onVf_draw (s : State) (v : Fin 128) (g : VirtualFunction → VirtualFunction) : (s.onVf v g).draw = s.draw := rfl

/-! `answerHost` -/

@[simp] theorem State.answerHost_cycle (s : State) (r : HostReply) : (s.answerHost r).cycle = s.cycle := rfl
@[simp] theorem State.answerHost_turn (s : State) (r : HostReply) : (s.answerHost r).turn = s.turn := rfl
@[simp] theorem State.answerHost_who (s : State) (r : HostReply) : (s.answerHost r).who = s.who := rfl
@[simp] theorem State.answerHost_grp (s : State) (r : HostReply) : (s.answerHost r).grp = s.grp := rfl
@[simp] theorem State.answerHost_core (s : State) (r : HostReply) : (s.answerHost r).core = s.core := rfl
@[simp] theorem State.answerHost_parked (s : State) (r : HostReply) : (s.answerHost r).parked = s.parked := rfl
@[simp] theorem State.answerHost_ctl (s : State) (r : HostReply) : (s.answerHost r).ctl = s.ctl := rfl
@[simp] theorem State.answerHost_parkedCl (s : State) (r : HostReply) : (s.answerHost r).parkedCl = s.parkedCl := rfl
@[simp] theorem State.answerHost_inputs (s : State) (r : HostReply) : (s.answerHost r).inputs = s.inputs := rfl
@[simp] theorem State.answerHost_draw (s : State) (r : HostReply) : (s.answerHost r).draw = s.draw := rfl

/-! `onCkpt` -/

@[simp] theorem State.onCkpt_cycle (s : State) (g : Checkpoint → Checkpoint) : (s.onCkpt g).cycle = s.cycle := rfl
@[simp] theorem State.onCkpt_turn (s : State) (g : Checkpoint → Checkpoint) : (s.onCkpt g).turn = s.turn := rfl
@[simp] theorem State.onCkpt_who (s : State) (g : Checkpoint → Checkpoint) : (s.onCkpt g).who = s.who := rfl
@[simp] theorem State.onCkpt_grp (s : State) (g : Checkpoint → Checkpoint) : (s.onCkpt g).grp = s.grp := rfl
@[simp] theorem State.onCkpt_core (s : State) (g : Checkpoint → Checkpoint) : (s.onCkpt g).core = s.core := rfl
@[simp] theorem State.onCkpt_parked (s : State) (g : Checkpoint → Checkpoint) : (s.onCkpt g).parked = s.parked := rfl
@[simp] theorem State.onCkpt_ctl (s : State) (g : Checkpoint → Checkpoint) : (s.onCkpt g).ctl = s.ctl := rfl
@[simp] theorem State.onCkpt_parkedCl (s : State) (g : Checkpoint → Checkpoint) : (s.onCkpt g).parkedCl = s.parkedCl := rfl
@[simp] theorem State.onCkpt_inputs (s : State) (g : Checkpoint → Checkpoint) : (s.onCkpt g).inputs = s.inputs := rfl
@[simp] theorem State.onCkpt_draw (s : State) (g : Checkpoint → Checkpoint) : (s.onCkpt g).draw = s.draw := rfl

/-! `onRoute` -/

@[simp] theorem State.onRoute_cycle (s : State) (n : Fin 16) (i : Fin 64) (g : Route → Route) : (s.onRoute n i g).cycle = s.cycle := rfl
@[simp] theorem State.onRoute_turn (s : State) (n : Fin 16) (i : Fin 64) (g : Route → Route) : (s.onRoute n i g).turn = s.turn := rfl
@[simp] theorem State.onRoute_who (s : State) (n : Fin 16) (i : Fin 64) (g : Route → Route) : (s.onRoute n i g).who = s.who := rfl
@[simp] theorem State.onRoute_grp (s : State) (n : Fin 16) (i : Fin 64) (g : Route → Route) : (s.onRoute n i g).grp = s.grp := rfl
@[simp] theorem State.onRoute_core (s : State) (n : Fin 16) (i : Fin 64) (g : Route → Route) : (s.onRoute n i g).core = s.core := rfl
@[simp] theorem State.onRoute_parked (s : State) (n : Fin 16) (i : Fin 64) (g : Route → Route) : (s.onRoute n i g).parked = s.parked :=
  rfl
@[simp] theorem State.onRoute_ctl (s : State) (n : Fin 16) (i : Fin 64) (g : Route → Route) : (s.onRoute n i g).ctl = s.ctl := rfl
@[simp] theorem State.onRoute_parkedCl (s : State) (n : Fin 16) (i : Fin 64) (g : Route → Route) : (s.onRoute n i g).parkedCl = s.parkedCl :=
  rfl
@[simp] theorem State.onRoute_inputs (s : State) (n : Fin 16) (i : Fin 64) (g : Route → Route) : (s.onRoute n i g).inputs = s.inputs :=
  rfl
@[simp] theorem State.onRoute_draw (s : State) (n : Fin 16) (i : Fin 64) (g : Route → Route) : (s.onRoute n i g).draw = s.draw := rfl

/-! `onLane` -/

@[simp] theorem State.onLane_cycle (s : State) (l : LaneRef) (g : Lane → Lane) : (s.onLane l g).cycle = s.cycle := rfl
@[simp] theorem State.onLane_turn (s : State) (l : LaneRef) (g : Lane → Lane) : (s.onLane l g).turn = s.turn := rfl
@[simp] theorem State.onLane_who (s : State) (l : LaneRef) (g : Lane → Lane) : (s.onLane l g).who = s.who := rfl
@[simp] theorem State.onLane_grp (s : State) (l : LaneRef) (g : Lane → Lane) : (s.onLane l g).grp = s.grp := rfl
@[simp] theorem State.onLane_core (s : State) (l : LaneRef) (g : Lane → Lane) : (s.onLane l g).core = s.core := rfl
@[simp] theorem State.onLane_parked (s : State) (l : LaneRef) (g : Lane → Lane) : (s.onLane l g).parked = s.parked := rfl
@[simp] theorem State.onLane_ctl (s : State) (l : LaneRef) (g : Lane → Lane) : (s.onLane l g).ctl = s.ctl := rfl
@[simp] theorem State.onLane_parkedCl (s : State) (l : LaneRef) (g : Lane → Lane) : (s.onLane l g).parkedCl = s.parkedCl := rfl
@[simp] theorem State.onLane_inputs (s : State) (l : LaneRef) (g : Lane → Lane) : (s.onLane l g).inputs = s.inputs := rfl
@[simp] theorem State.onLane_draw (s : State) (l : LaneRef) (g : Lane → Lane) : (s.onLane l g).draw = s.draw := rfl

/-! `asController` -/

@[simp] theorem State.asController_cycle (s : State) : (s.asController).cycle = s.cycle := rfl
@[simp] theorem State.asController_turn (s : State) : (s.asController).turn = s.turn := rfl
@[simp] theorem State.asController_grp (s : State) : (s.asController).grp = s.grp := rfl
@[simp] theorem State.asController_core (s : State) : (s.asController).core = s.core := rfl
@[simp] theorem State.asController_parked (s : State) : (s.asController).parked = s.parked := rfl
@[simp] theorem State.asController_ctl (s : State) : (s.asController).ctl = s.ctl := rfl
@[simp] theorem State.asController_parkedCl (s : State) : (s.asController).parkedCl = s.parkedCl := rfl
@[simp] theorem State.asController_mod (s : State) : (s.asController).mod = s.mod := rfl
@[simp] theorem State.asController_inputs (s : State) : (s.asController).inputs = s.inputs := rfl
@[simp] theorem State.asController_draw (s : State) : (s.asController).draw = s.draw := rfl

/-! `onEntry` -/

@[simp] theorem State.onEntry_cycle (s : State) (n : Nat) (g : Entry → Entry) : (s.onEntry n g).cycle = s.cycle := rfl
@[simp] theorem State.onEntry_turn (s : State) (n : Nat) (g : Entry → Entry) : (s.onEntry n g).turn = s.turn := rfl
@[simp] theorem State.onEntry_who (s : State) (n : Nat) (g : Entry → Entry) : (s.onEntry n g).who = s.who := rfl
@[simp] theorem State.onEntry_grp (s : State) (n : Nat) (g : Entry → Entry) : (s.onEntry n g).grp = s.grp := rfl
@[simp] theorem State.onEntry_core (s : State) (n : Nat) (g : Entry → Entry) : (s.onEntry n g).core = s.core := rfl
@[simp] theorem State.onEntry_parked (s : State) (n : Nat) (g : Entry → Entry) : (s.onEntry n g).parked = s.parked := rfl
@[simp] theorem State.onEntry_mod (s : State) (n : Nat) (g : Entry → Entry) : (s.onEntry n g).mod = s.mod := rfl
@[simp] theorem State.onEntry_inputs (s : State) (n : Nat) (g : Entry → Entry) : (s.onEntry n g).inputs = s.inputs := rfl
@[simp] theorem State.onEntry_draw (s : State) (n : Nat) (g : Entry → Entry) : (s.onEntry n g).draw = s.draw := rfl

/-! `setDle` -/

@[simp] theorem State.setDle_cycle (s : State) (n : Fin 2) (z : DleSlot) : (s.setDle n z).cycle = s.cycle := rfl
@[simp] theorem State.setDle_turn (s : State) (n : Fin 2) (z : DleSlot) : (s.setDle n z).turn = s.turn := rfl
@[simp] theorem State.setDle_who (s : State) (n : Fin 2) (z : DleSlot) : (s.setDle n z).who = s.who := rfl
@[simp] theorem State.setDle_grp (s : State) (n : Fin 2) (z : DleSlot) : (s.setDle n z).grp = s.grp := rfl
@[simp] theorem State.setDle_parked (s : State) (n : Fin 2) (z : DleSlot) : (s.setDle n z).parked = s.parked := rfl
@[simp] theorem State.setDle_ctl (s : State) (n : Fin 2) (z : DleSlot) : (s.setDle n z).ctl = s.ctl := rfl
@[simp] theorem State.setDle_parkedCl (s : State) (n : Fin 2) (z : DleSlot) : (s.setDle n z).parkedCl = s.parkedCl := rfl
@[simp] theorem State.setDle_mod (s : State) (n : Fin 2) (z : DleSlot) : (s.setDle n z).mod = s.mod := rfl
@[simp] theorem State.setDle_inputs (s : State) (n : Fin 2) (z : DleSlot) : (s.setDle n z).inputs = s.inputs := rfl
@[simp] theorem State.setDle_draw (s : State) (n : Fin 2) (z : DleSlot) : (s.setDle n z).draw = s.draw := rfl

/-! `kvHold` -/

@[simp] theorem State.kvHold_cycle (s : State) (e : Effect) (fl : Flags) : (s.kvHold e fl).cycle = s.cycle := State.onStrand_cycle ..
@[simp] theorem State.kvHold_turn (s : State) (e : Effect) (fl : Flags) : (s.kvHold e fl).turn = s.turn := State.onStrand_turn ..
@[simp] theorem State.kvHold_who (s : State) (e : Effect) (fl : Flags) : (s.kvHold e fl).who = s.who := State.onStrand_who ..
@[simp] theorem State.kvHold_grp (s : State) (e : Effect) (fl : Flags) : (s.kvHold e fl).grp = s.grp := State.onStrand_grp ..
@[simp] theorem State.kvHold_parked (s : State) (e : Effect) (fl : Flags) : (s.kvHold e fl).parked = s.parked := State.onStrand_parked ..
@[simp] theorem State.kvHold_parkedCl (s : State) (e : Effect) (fl : Flags) : (s.kvHold e fl).parkedCl = s.parkedCl :=
  State.onStrand_parkedCl ..
@[simp] theorem State.kvHold_mod (s : State) (e : Effect) (fl : Flags) : (s.kvHold e fl).mod = s.mod := State.onStrand_mod ..
@[simp] theorem State.kvHold_inputs (s : State) (e : Effect) (fl : Flags) : (s.kvHold e fl).inputs = s.inputs := State.onStrand_inputs ..
@[simp] theorem State.kvHold_draw (s : State) (e : Effect) (fl : Flags) : (s.kvHold e fl).draw = s.draw := State.onStrand_draw ..

/-! `holdFor` -/

@[simp] theorem State.holdFor_cycle (s : State) (e : Effect) : (s.holdFor e).cycle = s.cycle := State.onStrand_cycle ..
@[simp] theorem State.holdFor_turn (s : State) (e : Effect) : (s.holdFor e).turn = s.turn := State.onStrand_turn ..
@[simp] theorem State.holdFor_who (s : State) (e : Effect) : (s.holdFor e).who = s.who := State.onStrand_who ..
@[simp] theorem State.holdFor_grp (s : State) (e : Effect) : (s.holdFor e).grp = s.grp := State.onStrand_grp ..
@[simp] theorem State.holdFor_parked (s : State) (e : Effect) : (s.holdFor e).parked = s.parked := State.onStrand_parked ..
@[simp] theorem State.holdFor_parkedCl (s : State) (e : Effect) : (s.holdFor e).parkedCl = s.parkedCl := State.onStrand_parkedCl ..
@[simp] theorem State.holdFor_mod (s : State) (e : Effect) : (s.holdFor e).mod = s.mod := State.onStrand_mod ..
@[simp] theorem State.holdFor_inputs (s : State) (e : Effect) : (s.holdFor e).inputs = s.inputs := State.onStrand_inputs ..
@[simp] theorem State.holdFor_draw (s : State) (e : Effect) : (s.holdFor e).draw = s.draw := State.onStrand_draw ..

/-! `ctlDrop` -/

@[simp] theorem State.ctlDrop_cycle (s : State) (c : Command) : (s.ctlDrop c).cycle = s.cycle := rfl
@[simp] theorem State.ctlDrop_turn (s : State) (c : Command) : (s.ctlDrop c).turn = s.turn := rfl
@[simp] theorem State.ctlDrop_who (s : State) (c : Command) : (s.ctlDrop c).who = s.who := rfl
@[simp] theorem State.ctlDrop_grp (s : State) (c : Command) : (s.ctlDrop c).grp = s.grp := rfl
@[simp] theorem State.ctlDrop_core (s : State) (c : Command) : (s.ctlDrop c).core = s.core := rfl
@[simp] theorem State.ctlDrop_parked (s : State) (c : Command) : (s.ctlDrop c).parked = s.parked := rfl
@[simp] theorem State.ctlDrop_parkedCl (s : State) (c : Command) : (s.ctlDrop c).parkedCl = s.parkedCl := rfl
@[simp] theorem State.ctlDrop_mod (s : State) (c : Command) : (s.ctlDrop c).mod = s.mod := rfl
@[simp] theorem State.ctlDrop_inputs (s : State) (c : Command) : (s.ctlDrop c).inputs = s.inputs := rfl
@[simp] theorem State.ctlDrop_draw (s : State) (c : Command) : (s.ctlDrop c).draw = s.draw := rfl

/-! `placed` -/

@[simp] theorem State.placed_cycle (s : State) : (s.placed).cycle = s.cycle := rfl
@[simp] theorem State.placed_turn (s : State) : (s.placed).turn = s.turn := rfl
@[simp] theorem State.placed_who (s : State) : (s.placed).who = s.who := rfl
@[simp] theorem State.placed_grp (s : State) : (s.placed).grp = s.grp := rfl
@[simp] theorem State.placed_core (s : State) : (s.placed).core = s.core := rfl
@[simp] theorem State.placed_parked (s : State) : (s.placed).parked = s.parked := rfl
@[simp] theorem State.placed_parkedCl (s : State) : (s.placed).parkedCl = s.parkedCl := rfl
@[simp] theorem State.placed_mod (s : State) : (s.placed).mod = s.mod := rfl
@[simp] theorem State.placed_inputs (s : State) : (s.placed).inputs = s.inputs := rfl
@[simp] theorem State.placed_draw (s : State) : (s.placed).draw = s.draw := rfl

/-! `withModule` -/

@[simp] theorem State.withModule_cycle (s : State) (m : Module) : (s.withModule m).cycle = s.cycle := rfl
@[simp] theorem State.withModule_turn (s : State) (m : Module) : (s.withModule m).turn = s.turn := rfl
@[simp] theorem State.withModule_who (s : State) (m : Module) : (s.withModule m).who = s.who := rfl
@[simp] theorem State.withModule_grp (s : State) (m : Module) : (s.withModule m).grp = s.grp := rfl
@[simp] theorem State.withModule_parked (s : State) (m : Module) : (s.withModule m).parked = s.parked := rfl
@[simp] theorem State.withModule_ctl (s : State) (m : Module) : (s.withModule m).ctl = s.ctl := rfl
@[simp] theorem State.withModule_parkedCl (s : State) (m : Module) : (s.withModule m).parkedCl = s.parkedCl := rfl
@[simp] theorem State.withModule_inputs (s : State) (m : Module) : (s.withModule m).inputs = s.inputs := rfl
@[simp] theorem State.withModule_draw (s : State) (m : Module) : (s.withModule m).draw = s.draw := rfl

/-! `nextCycle` -/

@[simp] theorem State.nextCycle_turn (s : State) : (s.nextCycle).turn = s.turn := rfl
@[simp] theorem State.nextCycle_who (s : State) : (s.nextCycle).who = s.who := rfl
@[simp] theorem State.nextCycle_grp (s : State) : (s.nextCycle).grp = s.grp := rfl
@[simp] theorem State.nextCycle_core (s : State) : (s.nextCycle).core = s.core := rfl
@[simp] theorem State.nextCycle_parked (s : State) : (s.nextCycle).parked = s.parked := rfl
@[simp] theorem State.nextCycle_ctl (s : State) : (s.nextCycle).ctl = s.ctl := rfl
@[simp] theorem State.nextCycle_parkedCl (s : State) : (s.nextCycle).parkedCl = s.parkedCl := rfl
@[simp] theorem State.nextCycle_inputs (s : State) : (s.nextCycle).inputs = s.inputs := rfl
@[simp] theorem State.nextCycle_draw (s : State) : (s.nextCycle).draw = s.draw := rfl

/-! `setEthernet` -/

@[simp] theorem State.setEthernet_cycle (s : State) (p : Fin 8) (a : List Byte) (u : Word) : (s.setEthernet p a u).cycle = s.cycle := rfl
@[simp] theorem State.setEthernet_turn (s : State) (p : Fin 8) (a : List Byte) (u : Word) : (s.setEthernet p a u).turn = s.turn := rfl
@[simp] theorem State.setEthernet_who (s : State) (p : Fin 8) (a : List Byte) (u : Word) : (s.setEthernet p a u).who = s.who := rfl
@[simp] theorem State.setEthernet_grp (s : State) (p : Fin 8) (a : List Byte) (u : Word) : (s.setEthernet p a u).grp = s.grp := rfl
@[simp] theorem State.setEthernet_core (s : State) (p : Fin 8) (a : List Byte) (u : Word) : (s.setEthernet p a u).core = s.core := rfl
@[simp] theorem State.setEthernet_parked (s : State) (p : Fin 8) (a : List Byte) (u : Word) : (s.setEthernet p a u).parked = s.parked := rfl
@[simp] theorem State.setEthernet_ctl (s : State) (p : Fin 8) (a : List Byte) (u : Word) : (s.setEthernet p a u).ctl = s.ctl := rfl
@[simp] theorem State.setEthernet_parkedCl (s : State) (p : Fin 8) (a : List Byte) (u : Word) : (s.setEthernet p a u).parkedCl = s.parkedCl := rfl
@[simp] theorem State.setEthernet_inputs (s : State) (p : Fin 8) (a : List Byte) (u : Word) : (s.setEthernet p a u).inputs = s.inputs := rfl
@[simp] theorem State.setEthernet_draw (s : State) (p : Fin 8) (a : List Byte) (u : Word) : (s.setEthernet p a u).draw = s.draw := rfl

/-! `onItem` -/

@[simp] theorem State.onItem_cycle (s : State) (t : Task) (f : Cluster → WorkSet → Cluster) : (s.onItem t f).cycle = s.cycle := by unfold State.onItem; split <;> rfl
@[simp] theorem State.onItem_turn (s : State) (t : Task) (f : Cluster → WorkSet → Cluster) : (s.onItem t f).turn = s.turn := by unfold State.onItem; split <;> rfl
@[simp] theorem State.onItem_who (s : State) (t : Task) (f : Cluster → WorkSet → Cluster) : (s.onItem t f).who = s.who := by unfold State.onItem; split <;> rfl
@[simp] theorem State.onItem_grp (s : State) (t : Task) (f : Cluster → WorkSet → Cluster) : (s.onItem t f).grp = s.grp := by unfold State.onItem; split <;> rfl
@[simp] theorem State.onItem_core (s : State) (t : Task) (f : Cluster → WorkSet → Cluster) : (s.onItem t f).core = s.core := by unfold State.onItem; split <;> rfl
@[simp] theorem State.onItem_parked (s : State) (t : Task) (f : Cluster → WorkSet → Cluster) : (s.onItem t f).parked = s.parked := by unfold State.onItem; split <;> rfl
@[simp] theorem State.onItem_mod (s : State) (t : Task) (f : Cluster → WorkSet → Cluster) : (s.onItem t f).mod = s.mod := by unfold State.onItem; split <;> rfl
@[simp] theorem State.onItem_inputs (s : State) (t : Task) (f : Cluster → WorkSet → Cluster) : (s.onItem t f).inputs = s.inputs := by unfold State.onItem; split <;> rfl
@[simp] theorem State.onItem_draw (s : State) (t : Task) (f : Cluster → WorkSet → Cluster) : (s.onItem t f).draw = s.draw := by unfold State.onItem; split <;> rfl

end Sys2Proof.Machine
end

