-- ==== Sys2Proof/Laws/Ops.lean ====
section
/-! SUPPORT. What each shared operation of `Machine/Ops.lean` does: strands read back, results in flight, registers, trap entry. -/

namespace Sys2Proof.Machine

/-! ## Strands -/

@[simp] theorem Core.strand_setStrand (k : Core) (w : Who) (f : Strand) (h : w ≠ .c) : (k.setStrand w f).strand w = f := by
  cases w with
  | t c => fin_cases c <;> rfl
  | c => exact absurd rfl h
  | _ => rfl

@[simp] theorem State.strandOf_setStrandOf (s : State) (w : Who) (f : Strand) : (s.setStrandOf w f).strandOf w = f := by
  cases w with
  | t c => fin_cases c <;> rfl
  | _ => rfl

@[simp] theorem State.strand_setStrand (s : State) (f : Strand) : (s.setStrand f).strand = f := by
  simp [State.strand, State.setStrand]

@[simp] theorem State.strand_onStrand (s : State) (g : Strand → Strand) : (s.onStrand g).strand = g s.strand := by
  simp [State.onStrand]

@[simp] theorem State.strand_verdict (s : State) (v : Verdict) : (s.verdict v).strand = s.strand := rfl

/-- The strand that another strand's update leaves alone. -/
theorem State.strandOf_setStrandOf_ne (s : State) (w w' : Who) (f : Strand) (h : w ≠ w') :
    (s.setStrandOf w f).strandOf w' = s.strandOf w' := by
  cases w with
  | t c => cases w' with
    | t d => fin_cases c <;> fin_cases d <;> first | rfl | exact absurd rfl h
    | _ => fin_cases c <;> rfl
  | _ => cases w' with
    | t d => first | rfl | (fin_cases d <;> rfl)
    | _ => first | rfl | exact absurd rfl h

/-- Two updates of one strand are one. -/
@[simp] theorem State.setStrandOf_setStrandOf (s : State) (w : Who) (f g : Strand) :
    (s.setStrandOf w f).setStrandOf w g = s.setStrandOf w g := by
  cases w with
  | t c => fin_cases c <;> rfl
  | _ => rfl

@[simp] theorem State.setStrandOf_strandOf (s : State) (w : Who) : s.setStrandOf w (s.strandOf w) = s := by
  cases w with
  | t c => fin_cases c <;> rfl
  | _ => rfl

@[simp] theorem State.unit_setStrandOf (s : State) (w : Who) (f : Strand) : (s.setStrandOf w f).unit = s.unit := by
  simp only [State.unit, State.unitOf, State.setStrandOf_who]
  cases w with
  | t c => fin_cases c <;> (cases s.who <;> rfl)
  | _ => cases s.who <;> rfl

/-! ## Results in flight (R75 to R77) -/

/-- The result that an instruction of fixed latency puts in flight: one for x0 keeps only its flags (R71, R260). -/
def State.result (s : State) (e : Effect) (fl : Flags) (lat : Nat) : Result :=
  ⟨e.kept, fl, s.cycle + lat, false, none, s.grp.addr, false, false⟩

@[simp] theorem Effect.kept_scalar_zero (v : Word) : (Effect.scalar 0 v).kept = .flagsOnly := rfl

theorem Effect.kept_scalar (d : Fin 64) (v : Word) (h : d ≠ 0) : (Effect.scalar d v).kept = .scalar d v := by
  unfold Effect.kept
  split
  · next h' => injection h' with h1 _; exact absurd h1 h
  · rfl

@[simp] theorem Effect.kept_pred (d : Fin 16) (v : Bool) : (Effect.pred d v).kept = .pred d v := rfl

/-- A result is put in flight, and nothing else of the state changes. -/
theorem State.emit_eq (s : State) (e : Effect) (fl : Flags) (lat : Nat) :
    s.emit e fl lat = s.onStrand fun f => { f with results := f.results ++ [s.result e fl lat] } := rfl

theorem State.emitX_eq (s : State) (d : Fin 64) (v : Word) (lat : Nat) :
    s.emitX d v lat = s.onStrand fun f => { f with results := f.results ++ [s.result (.scalar d v) 0 lat] } := rfl

/-- A predicate result is put in flight under its physical number (R79). -/
theorem State.emitP_eq (s : State) (d : Fin 16) (v : Bool) (lat : Nat) :
    s.emitP d v lat = s.onStrand fun f => { f with results := f.results ++ [s.result (.pred (physP s.strand d) v) 0 lat] } := rfl

@[simp] theorem State.emitX_strand_x (s : State) (d : Fin 64) (v : Word) (lat : Nat) : (s.emitX d v lat).strand.x = s.strand.x := by
  rw [State.emitX_eq]; simp

@[simp] theorem State.emitX_xr (s : State) (d : Fin 64) (v : Word) (lat : Nat) (r : Fin 64) : (s.emitX d v lat).xr r = s.xr r := by
  unfold State.xr Strand.xr; simp

/-! ## Registers (R71) -/

@[simp] theorem State.xr_zero (s : State) : s.xr 0 = 0 := rfl

theorem Strand.xr_of_ne (f : Strand) (r : Fin 64) (h : r ≠ 0) : f.xr r = f.x[r] := by simp [Strand.xr, h]

/-- A scalar effect writes its register and no other. -/
theorem State.applyEffect_scalar_xr (s : State) (r q : Fin 64) (v : Word) (h : r ≠ 0) :
    (s.applyEffect s.who (.scalar r v)).xr q = if q = r then v else s.xr q := by
  have hq : (s.applyEffect s.who (.scalar r v)).strand = { s.strand with x := s.strand.x.set r v } := by
    simp [State.applyEffect, h, State.strand]
  unfold State.xr Strand.xr
  rw [hq]
  by_cases h0 : q = 0
  · subst h0; simp [Ne.symm h]
  · simp only [h0, if_false]
    by_cases e : q = r
    · subst e; simp
    · have : r.val ≠ q.val := fun hh => e (Fin.ext hh.symm)
      simp [e, this]

/-- A padded list has its length, whatever it is padded from. -/
@[simp] theorem padTo_length (n : Nat) (bs : List Byte) : (padTo n bs).length = n := by
  induction n generalizing bs with
  | zero => rfl
  | succ n ih => simp [padTo, ih]

/-- A list of the wanted length is its own padding. -/
theorem padTo_self (bs : List Byte) : padTo bs.length bs = bs := by
  induction bs with
  | nil => rfl
  | cons b bs ih => simp [padTo, ih]

end Sys2Proof.Machine
end

