-- ==== Sys2Proof/Laws/Frame.lean ====
section
/-! SUPPORT. What the shared memory operations and trap entry do to memory: they keep the canonical form, and trap entry leaves physical memory,
the safe tier and every other core as they were. -/

namespace Sys2Proof

theorem Memory.wf_writeNat {m : Memory} (hm : m.wf = true) (a n v : Nat) : (m.writeNat a n v).wf = true := Memory.wf_write hm _ _

/-- Writes made one after the other keep the canonical form. -/
theorem Memory.wf_foldl {α : Type} (f : Memory → α → Memory) (hf : ∀ m x, Memory.wf m = true → Memory.wf (f m x) = true) :
    ∀ (xs : List α) {m : Memory}, m.wf = true → Memory.wf (xs.foldl f m) = true
  | [], _, hm => hm
  | x :: xs, _, hm => Memory.wf_foldl f hf xs (hf _ x hm)

theorem Memory.get_writeNat {m : Memory} (hm : m.wf = true) (a n v b : Nat) :
    (m.writeNat a n v).get b = if a ≤ b ∧ b < a + n then (bytesOfNat n v).getD (b - a) 0 else m.get b := by
  rw [Memory.writeNat, Memory.get_write hm, bytesOfNat_length]

namespace Machine

/-! ## Physical accesses (R352, R359) -/

/-- Writes made line by line, the poisoned lines left out, keep the canonical form. -/
theorem lineWrites_wf (p : List Nat) (pa : Nat) (bs : List Byte) (ls : List Nat) {mm : Memory} (hm : mm.wf = true) :
    Memory.wf (ls.foldl (fun (mm : Memory) l =>
      if p.contains l then mm
      else
        let lo := max pa (128 * l)
        let hi := min (pa + bs.length) (128 * l + 128)
        mm.write lo ((bs.drop (lo - pa)).take (hi - lo))) mm) = true := by
  refine Memory.wf_foldl _ (fun m l h => ?_) ls hm
  by_cases hc : p.contains l = true
  · rw [if_pos hc]; exact h
  · rw [if_neg hc]; exact Memory.wf_write h _ _

theorem physWrite_wf {m : Module} (hm : Memory.wf m.mem = true) (pa : Nat) (bs : List Byte) : Memory.wf (physWrite m pa bs).mem = true := by
  unfold physWrite
  by_cases h : (decide (statusBase ≤ pa) && decide (pa < cxlBase)) = true
  · rw [if_pos h]
    by_cases h2 : (pa - statusBase) % 0x10000 < 8
    · simp only [h2, if_true]; exact hm
    · simp only [h2, if_false]; exact hm
  · rw [if_neg h]
    by_cases h2 : poisonedIn (clearPoison m.poison pa bs.length) pa bs.length = true
    · simp only [h2, if_true]; exact lineWrites_wf _ pa bs _ hm
    · simp only [h2]; exact Memory.wf_write hm _ _

@[simp] theorem physWrite_ckpt (m : Module) (pa : Nat) (bs : List Byte) : (physWrite m pa bs).ckpt = m.ckpt := by
  unfold physWrite; dsimp only; split <;> (try split) <;> rfl

@[simp] theorem physWrite_parts (m : Module) (pa : Nat) (bs : List Byte) : (physWrite m pa bs).parts = m.parts := by
  unfold physWrite; dsimp only; split <;> (try split) <;> rfl

/-- Outside the memory-side status pages and over lines that are not poisoned, a write replaces its own bytes and no other. -/
theorem physWrite_mem (m : Module) (pa : Nat) (bs : List Byte) (hs : ¬(statusBase ≤ pa ∧ pa < cxlBase))
    (hp : poisonedIn (clearPoison m.poison pa bs.length) pa bs.length = false) :
    (physWrite m pa bs).mem = m.mem.write pa bs := by
  have h : (decide (statusBase ≤ pa) && decide (pa < cxlBase)) = false := by
    simpa using fun h => Nat.le_of_not_lt fun h' => hs ⟨h, h'⟩
  unfold physWrite
  simp [h, hp]

/-! ## Translation caches and RDC (R340, R346): they hold no memory -/

/-- What a change of the translation caches and the RDC leaves: memory, its poison, the L2s, the partitions and the checkpoint engine. -/
def Module.Kept (m m' : Module) : Prop :=
  m'.mem = m.mem ∧ m'.ckpt = m.ckpt ∧ m'.poison = m.poison ∧ m'.parts = m.parts ∧ m'.l2 = m.l2

theorem Module.Kept.rfl {m : Module} : Module.Kept m m := ⟨Eq.refl _, Eq.refl _, Eq.refl _, Eq.refl _, Eq.refl _⟩

theorem Module.Kept.trans {a b c : Module} (h : Module.Kept a b) (g : Module.Kept b c) : Module.Kept a c :=
  ⟨g.1.trans h.1, g.2.1.trans h.2.1, g.2.2.1.trans h.2.2.1, g.2.2.2.1.trans h.2.2.2.1, g.2.2.2.2.trans h.2.2.2.2⟩

theorem noteLeaf_kept (m : Module) (die : Fin 24) (core : Option Nat) (n : Fin 16) (va : Nat) :
    Module.Kept m (noteLeaf m die core n va) := by
  unfold noteLeaf
  split
  · exact .rfl
  · split
    · dsimp only
      split <;> split <;> exact ⟨rfl, rfl, rfl, rfl, rfl⟩
    · exact .rfl

theorem noteTagged_kept (m : Module) (die : Fin 24) (core : Option Nat) (n : Fin 16) (va : Word) (pl : Place) (id coord : Nat)
    (read : Bool) (now : Nat) : Module.Kept m (noteTagged m die core n va pl id coord read now) := by
  refine (noteLeaf_kept m die core n (vaBits va)).trans ?_
  unfold noteTagged
  generalize noteLeaf m die core n (vaBits va) = m
  dsimp only
  split
  · exact .rfl
  · split
    · exact ⟨rfl, rfl, rfl, rfl, rfl⟩
    · split
      · unfold Module.rdcRead
        dsimp only
        split <;> exact ⟨rfl, rfl, rfl, rfl, rfl⟩
      · exact ⟨rfl, rfl, rfl, rfl, rfl⟩

theorem State.note_kept (s : State) (va : Word) (pl : Place) (read : Bool) : Module.Kept s.mod (s.note va pl read).mod := by
  unfold State.note; split
  · exact .rfl
  · rw [State.keepLine_mod]; exact noteTagged_kept ..

@[simp] theorem State.note_mem (s : State) (va : Word) (pl : Place) (read : Bool) : (s.note va pl read).mod.mem = s.mod.mem :=
  (State.note_kept ..).1

@[simp] theorem State.note_ckpt (s : State) (va : Word) (pl : Place) (read : Bool) : (s.note va pl read).mod.ckpt = s.mod.ckpt :=
  (State.note_kept ..).2.1

/-! ## The L2s (R345): a line that leaves may carry data of its own to memory -/

/-- One change of the L2s: memory stays canonical, and every byte of it that no late line holds stays; no line becomes late. -/
def Module.Settles (m m' : Module) : Prop :=
  (Memory.wf m.mem = true → Memory.wf m'.mem = true ∧ ∀ b, ¬m.Late b → m'.mem.get b = m.mem.get b) ∧
  (∀ l, l ∈ m'.l2 → l.dirty = true → l.id ≠ 0 → l ∈ m.l2) ∧
  (∀ x, x ∈ m'.poison → x ∈ m.poison ∨ ∃ l, l ∈ m.l2 ∧ l.dirty = true ∧ l.id ≠ 0 ∧ l.line = x) ∧
  m'.ckpt = m.ckpt ∧ m'.parts = m.parts

theorem Module.Settles.rfl {m : Module} : Module.Settles m m :=
  ⟨fun h => ⟨h, fun _ _ => Eq.refl _⟩, fun _ h _ _ => h, fun _ h => .inl h, Eq.refl _, Eq.refl _⟩

theorem Module.Settles.trans {a b c : Module} (h : Module.Settles a b) (g : Module.Settles b c) : Module.Settles a c := by
  obtain ⟨h1, h2, h3, h4, h5⟩ := h
  obtain ⟨g1, g2, g3, g4, g5⟩ := g
  refine ⟨fun w => ⟨(g1 (h1 w).1).1, fun x hx => ?_⟩, fun l hl hd hi => h2 l (g2 l hl hd hi) hd hi, fun x hx => ?_, g4.trans h4, g5.trans h5⟩
  · rw [(g1 (h1 w).1).2 x, (h1 w).2 x hx]
    rintro ⟨l, hl, hd, hi, hb⟩
    exact hx ⟨l, h2 l hl hd hi, hd, hi, hb⟩
  · obtain hx | ⟨l, hl, hd, hi, e⟩ := g3 x hx
    · exact h3 x hx
    · exact .inr ⟨l, h2 l hl hd hi, hd, hi, e⟩

theorem mem_insertNat {x n : Nat} : ∀ {ms : List Nat}, x ∈ insertNat n ms → x = n ∨ x ∈ ms
  | [], h => by simpa [insertNat] using h
  | m :: ms, h => by
    unfold insertNat at h
    split at h
    · simpa using h
    · split at h
      · exact .inr h
      · obtain rfl | h := List.mem_cons.mp h
        · exact .inr (List.mem_cons_self ..)
        · exact (mem_insertNat h).imp_right (List.mem_cons_of_mem _)

/-- The note that the L2s do not hold a line changes nothing else of the module. -/
theorem Module.noteGone_kept (m : Module) (t : Fin 16 × Nat × Nat) : Module.Kept m (m.noteGone t) := by
  unfold Module.noteGone
  split <;> exact ⟨rfl, rfl, rfl, rfl, rfl⟩

@[simp] theorem Module.noteGone_mem (m : Module) (t : Fin 16 × Nat × Nat) : (m.noteGone t).mem = m.mem := (m.noteGone_kept t).1
@[simp] theorem Module.noteGone_ckpt (m : Module) (t : Fin 16 × Nat × Nat) : (m.noteGone t).ckpt = m.ckpt := (m.noteGone_kept t).2.1
@[simp] theorem Module.noteGone_poison (m : Module) (t : Fin 16 × Nat × Nat) : (m.noteGone t).poison = m.poison :=
  (m.noteGone_kept t).2.2.1
@[simp] theorem Module.noteGone_parts (m : Module) (t : Fin 16 × Nat × Nat) : (m.noteGone t).parts = m.parts :=
  (m.noteGone_kept t).2.2.2.1
@[simp] theorem Module.noteGone_l2 (m : Module) (t : Fin 16 × Nat × Nat) : (m.noteGone t).l2 = m.l2 := (m.noteGone_kept t).2.2.2.2

theorem Module.evict_settles (m : Module) {l : L2Line} (hl : l ∈ m.l2) : Module.Settles m (m.evict l) := by
  unfold Module.evict
  dsimp only
  split
  · next h =>
    simp only [Bool.and_eq_true, bne_iff_ne] at h
    simp only [Module.noteGone_mem, Module.noteGone_poison]
    refine ⟨fun w => ⟨Memory.wf_write w _ _, fun b hb => ?_⟩, fun x hx _ _ => List.mem_of_mem_filter (Module.noteGone_l2 .. ▸ hx),
      fun x hx => ?_, Module.noteGone_ckpt .., Module.noteGone_parts ..⟩
    · rw [Memory.get_write w, if_neg]
      exact fun hh => hb ⟨l, hl, h.1, h.2, hh⟩
    · dsimp only at hx
      split at hx
      · obtain rfl | hx := mem_insertNat hx
        · exact .inr ⟨l, hl, h.1, h.2, rfl⟩
        · exact .inl hx
      · exact .inl (List.mem_of_mem_filter hx)
  · refine ⟨fun w => ?_, fun x hx _ _ => List.mem_of_mem_filter (Module.noteGone_l2 .. ▸ hx), fun x hx => .inl ?_,
      Module.noteGone_ckpt .., Module.noteGone_parts ..⟩
    · simpa using w
    · simpa using hx

/-- A line under the flat tag comes to an L2. -/
theorem setLine_settles (m : Module) (v : L2Line) (hv : v.id = 0) : Module.Settles m (setLine m v) := by
  have key : ∀ m' : Module, Module.Settles m m' → Module.Settles m { m' with
      l2 := v :: m'.l2.filter fun l => !l.tagged v.part v.id v.coord
      gone := m'.gone.filter (· != (v.part, v.id, v.coord)) } := fun m' h => by
    refine h.trans ⟨fun w => ⟨w, fun _ _ => rfl⟩, fun l hl _ hi => ?_, fun x hx => .inl hx, rfl, rfl⟩
    obtain rfl | hl := List.mem_cons.mp hl
    · exact absurd hv hi
    · exact List.mem_of_mem_filter hl
  unfold setLine
  dsimp only
  apply key
  split
  · exact .rfl
  · split
    · next h =>
      have := List.mem_of_getLast? h
      exact Module.evict_settles m (List.mem_of_mem_filter (List.mem_of_mem_filter this))
    · exact .rfl

theorem dirtyFlat_settles (m : Module) (n : Fin 16) (pa len : Nat) : Module.Settles m (dirtyFlat m n pa len) := by
  unfold dirtyFlat
  generalize linesOf pa len = ls
  induction ls generalizing m with
  | nil => exact .rfl
  | cons l ls ih =>
    rw [List.foldl_cons]
    refine Module.Settles.trans ?_ (ih _)
    split
    · exact setLine_settles _ _ rfl
    · split
      · exact .rfl
      · exact setLine_settles _ _ rfl

/-! ## Writes through the home L2 (R345) and at the base die (R351) -/

theorem l2Write_wf {m : Module} (hm : Memory.wf m.mem = true) (n : Fin 16) (pa : Nat) (bs : List Byte) :
    Memory.wf (l2Write m n pa bs).mem = true := by
  unfold l2Write
  split
  · exact physWrite_wf hm pa bs
  · exact physWrite_wf ((dirtyFlat_settles m n pa bs.length).1 hm).1 pa bs

@[simp] theorem dropFlat_mem (m : Module) (n : Fin 16) (pa len : Nat) : (dropFlat m n pa len).mem = m.mem := by
  unfold dropFlat
  dsimp only
  generalize linesOf pa len = ls
  have h : ∀ (ls : List Nat) (m : Module), (ls.foldl (fun m l => m.noteGone (n, 0, l)) m).mem = m.mem := by
    intro ls
    induction ls with
    | nil => exact fun _ => rfl
    | cons l ls ih => exact fun m => by rw [List.foldl_cons, ih, Module.noteGone_mem]
  rw [h]

theorem baseWrite_wf {m : Module} (hm : Memory.wf m.mem = true) (n : Fin 16) (pa : Nat) (bs : List Byte) :
    Memory.wf (baseWrite m n pa bs).mem = true := by
  unfold baseWrite
  refine physWrite_wf ?_ pa bs
  split
  · exact hm
  · simpa using hm

@[simp] theorem l2Write_ckpt (m : Module) (n : Fin 16) (pa : Nat) (bs : List Byte) : (l2Write m n pa bs).ckpt = m.ckpt := by
  unfold l2Write
  split
  · exact physWrite_ckpt ..
  · rw [physWrite_ckpt]; exact (dirtyFlat_settles m n pa bs.length).2.2.2.1

@[simp] theorem l2Write_parts (m : Module) (n : Fin 16) (pa : Nat) (bs : List Byte) : (l2Write m n pa bs).parts = m.parts := by
  unfold l2Write
  split
  · exact physWrite_parts ..
  · rw [physWrite_parts]; exact (dirtyFlat_settles m n pa bs.length).2.2.2.2

theorem poisonedIn_false {p : List Nat} {a n : Nat} :
    poisonedIn p a n = false ↔ ∀ l, l ∈ p → ¬(a / 128 ≤ l ∧ l ≤ (a + n - 1) / 128 ∧ n ≠ 0) := by
  simp only [poisonedIn, List.any_eq_false, Bool.and_eq_true, decide_eq_true_eq, and_assoc]

/-- A write of a line of a partition replaces its own bytes, and no other byte but those that a late line brings to memory. -/
theorem l2Write_get {m : Module} (hm : Memory.wf m.mem = true) (n : Fin 16) (pa : Nat) (bs : List Byte)
    (hs : ¬(statusBase ≤ pa ∧ pa < cxlBase)) (hl : m.Lands pa bs.length) (b : Nat) :
    (pa ≤ b → b < pa + bs.length → (l2Write m n pa bs).mem.get b = bs.getD (b - pa) 0) ∧
    (b < pa ∨ pa + bs.length ≤ b → ¬m.Late b → (l2Write m n pa bs).mem.get b = m.mem.get b) := by
  obtain ⟨hw, -, hp, -⟩ := dirtyFlat_settles m n pa bs.length
  have h : (decide (statusBase ≤ pa) && decide (pa < cxlBase)) = false := by
    simpa using fun h => Nat.le_of_not_lt fun h' => hs ⟨h, h'⟩
  have hq : poisonedIn (clearPoison (dirtyFlat m n pa bs.length).poison pa bs.length) pa bs.length = false := by
    rw [poisonedIn_false]
    intro l hl' hh
    obtain hx | ⟨x, hx, hd, hi, rfl⟩ := hp l (List.mem_of_mem_filter hl')
    · exact poisonedIn_false.mp hl.1 l hx hh
    · exact hl.2 x hx hd hi ⟨hh.1, hh.2.1⟩
  have he : (l2Write m n pa bs).mem = (dirtyFlat m n pa bs.length).mem.write pa bs := by
    unfold l2Write
    simp only [h, Bool.false_eq_true, if_false]
    exact physWrite_mem _ pa bs hs hq
  rw [he, Memory.get_write (hw hm).1]
  refine ⟨fun h1 h2 => by rw [if_pos ⟨h1, h2⟩], fun h1 h2 => ?_⟩
  rw [if_neg (by omega), (hw hm).2 b h2]

theorem State.store_wf {s : State} (h : Memory.wf s.mod.mem = true) (pa : Nat) (bs : List Byte) :
    Memory.wf (s.store pa bs).mod.mem = true := l2Write_wf h _ pa bs

@[simp] theorem State.store_ckpt (s : State) (pa : Nat) (bs : List Byte) : (s.store pa bs).mod.ckpt = s.mod.ckpt := l2Write_ckpt ..

/-- The pinned part of the scratchpad is the same whatever a strand holds. -/
@[simp] theorem State.spSize_setStrand (s : State) (f : Strand) : (s.setStrand f).spSize = s.spSize := by
  have h : (s.setStrand f).core.ways = s.core.ways := by
    unfold State.setStrand
    cases s.who with
    | t c => fin_cases c <;> rfl
    | _ => rfl
  simp [State.spSize, State.onController, h]

/-! ## Trap entry (R84, R85) -/

@[simp] theorem State.resetCluster_mod (s : State) (d : Fin 24) (c : Fin 6) : (s.resetCluster d c).mod = s.mod := rfl

@[simp] theorem State.report_mem (s : State) (c : Byte) : (s.report c).mod.mem = s.mod.mem := rfl
@[simp] theorem State.report_ckpt (s : State) (c : Byte) : (s.report c).mod.ckpt = s.mod.ckpt := rfl

/-- A double trap changes the core or controller and the reports, and no memory. -/
theorem State.doubleTrap_mem (s : State) (now : Nat) (c : Cause) :
    (s.doubleTrap now c).mod.mem = s.mod.mem ∧ (s.doubleTrap now c).mod.ckpt = s.mod.ckpt := by
  unfold State.doubleTrap
  dsimp only
  split
  · exact ⟨rfl, rfl⟩
  · split <;> exact ⟨rfl, rfl⟩

/-- The data of poisoned queue loads go to their queues, and no strand, size or memory changes. -/
theorem State.filled_keeps (s : State) :
    s.filled.mod = s.mod ∧ s.filled.who = s.who ∧ s.filled.strand = s.strand ∧ s.filled.spSize = s.spSize := by
  unfold State.filled
  split
  · next h => simp [State.strand, State.strandOf, Core.strand, State.spSize, State.onController, Core.fillPoisoned, h]
  · exact ⟨rfl, rfl, rfl, rfl⟩

@[simp] theorem State.filled_mod (s : State) : s.filled.mod = s.mod := s.filled_keeps.1
@[simp] theorem State.filled_who (s : State) : s.filled.who = s.who := s.filled_keeps.2.1
@[simp] theorem State.filled_strand (s : State) : s.filled.strand = s.strand := s.filled_keeps.2.2.1
@[simp] theorem State.filled_spSize (s : State) : s.filled.spSize = s.spSize := s.filled_keeps.2.2.2

/-- Trap entry writes the frame to the scratchpad and the strand's registers, and no memory. -/
theorem State.trapAt_mem (s : State) (now addr : Nat) (c : Cause) :
    (s.trapAt now addr c).mod.mem = s.mod.mem ∧ (s.trapAt now addr c).mod.ckpt = s.mod.ckpt := by
  have hd : ∀ (f : Strand) (c : Cause), ((s.filled.setStrand f).doubleTrap now c).mod.mem = s.mod.mem ∧
      ((s.filled.setStrand f).doubleTrap now c).mod.ckpt = s.mod.ckpt := fun f c => by
    simpa using State.doubleTrap_mem (s.filled.setStrand f) now c
  unfold State.trapAt
  dsimp only
  generalize (if s.coreHalted = true then none else s.arriving.head?) = taken
  generalize (if taken.isSome = true then s.arriving.tail else s.arriving) = rest
  split
  · exact hd ..
  · split
    · exact hd ..
    · simp

/-- A raised cause answers the state of trap entry. -/
theorem State.raise_next (s : State) (code : Nat) (tval orig : Word) :
    s.raise code tval orig = .next ((s.trapAt s.cycle s.grp.addr ⟨BitVec.ofNat 8 code, tval, orig, 0, false⟩).verdict .trapped) := rfl

/-- Trap entry on a strand that is in no handler, with its trap area pinned and no poison in flight: what R84 saves and where it goes. -/
theorem State.trapAt_strand (s : State) (now addr : Nat) (c : Cause) (h : s.strand.th = false) (hq : s.strand.rq = false)
    (hp : s.arriving = []) (ha : s.strand.traparea.toNat + 4096 ≤ s.spSize) :
    let f := (s.trapAt now addr c).strand
    f.epc = BitVec.ofNat 64 addr ∧ f.cause = c.code.zeroExtend 64 ∧ f.tval = c.tval ∧ f.ppl = s.strand.pl ∧ f.pl = true ∧ f.th = true ∧
    f.rq = true ∧ f.pc = s.strand.handler.toNat ∧ f.x = s.strand.x ∧ f.p = s.strand.p ∧ f.v = s.strand.v ∧ f.flags = s.strand.flags ∧
    f.nest = none ∧ f.replays = [] := by
  have hlt : ¬ s.spSize < s.strand.traparea.toNat + 4096 := by omega
  simp [State.trapAt, h, hq, hp, hlt, State.spSize_setStrand]

end Machine

end Sys2Proof
end

