-- ==== Sys2Proof/Tests/Slice0.lean ====
section
/-! SUPPORT. Tests: words written out from the spec's encodings, terms that the well-formedness checks refuse, single steps whose
result the spec states, and witnesses of the statements' hypotheses. -/

set_option maxRecDepth 20000
set_option Elab.async false

namespace Sys2Proof.Tests

open Sys2Proof Sys2Proof.Machine Sys2Proof.Claims

/-! ## States -/

/-- The bytes of a record of n bytes, by those that are not zero. -/
def recordOf (n : Nat) (bs : List (Nat × Byte)) : List Byte := (List.range n).map fun i => ((bs.find? fun b => b.1 = i).map (·.2)).getD 0

/-- A partition of cluster 0 with channel group 0, lane group 0, virtual function 0, a quota of one waiter, DEBUG and a pool share of a
granule. -/
def desc : List Byte := recordOf 128 [(0, 1), (24, 1), (72, 1), (80, 1), (96, 1), (99, 2), (104, 1)]

/-- Its job: identifier 5, two modules in x, this module 1. -/
def job : List Byte := recordOf 2048 [(0, 5), (8, 1), (12, 1)]

def part : Partition := { Partition.reset with state := .live, desc := desc, job := job }

def header : Header := ⟨0, 0, 0, 0, 0, 0, 0, 0, [3, 5], 0, 0, 16, 64, 1, 0, 0, 0, 0⟩

def task : Task := ⟨0, header, 0x2A, 0, 0, 1, 0, 0, 0, none, none, none, false, false, none, 0⟩

/-- The partition is live, page 0 of 2 MiB is mapped to itself for reads and writes, and page 1 holds counters, in the TLB and in the die's
translation cache; the core runs a task and has
two ways of scratchpad. -/
def live : State :=
  { State.reset with
    mod := { Module.reset with
      parts := Module.reset.parts.set 0 part
      tlb := [⟨0, none, 0, 1, 0, 0x33⟩, ⟨0, none, 0, 1, 1, 0x2000B3⟩, ⟨0, some 0, 0, 1, 0, 0x33⟩, ⟨0, some 0, 0, 1, 1, 0x2000B3⟩] }
    core := { Core.reset 0 0 0 with task := some task, ways := 2 } }

/-- A state of `live` with the A strand's registers as given. -/
def withX (xs : List (Fin 64 × Word)) : State :=
  live.onStrand fun f => { f with x := xs.foldl (fun v r => v.set r.1 r.2) f.x }

/-- What a step answers. -/
def next? : Host.Outcome State Fault Refusal → Option State
  | .next t => some t
  | _ => none

/-- The state after an instruction, where it answers one. -/
def after (i : Instr) (s : State) : State := (next? (exec i s)).getD s

/-- The scalar result that an instruction puts in flight: the register, the value, and its latency. -/
def inX (i : Instr) (s : State) : Option (Fin 64 × Word × Nat) :=
  match (after i s).strand.results with
  | [⟨.scalar d v, _, due, _, _, _, _, _⟩] => some (d, v, due - s.cycle)
  | _ => none

end Sys2Proof.Tests
namespace Sys2Proof.Tests

/-! ## Decoding

Words written out from the formats of R39 and the encodings of R45 to R52, field by field: for every major its instructions, with the stop
bit set and distinct operands. -/

/-- Each of the words, with the syllables behind it, is read as its instruction. -/
abbrev Words (l : List (Nat × List Nat × Instr)) : Prop := ∀ x ∈ l, decode x.1 x.2.1 = (.ok x.2.2, 1 + x.2.1.length)

theorem test_decode_major_00 : Words [
    (0b1_0000000000000000000000000000000, [], .nop),
    (0b1_000000000000000000_000110_0000001, [], .trap 6),
    (0b1_0000000000000000000000000000010, [], .brk),
    (0b1_000000_100110_0000000000000000011, [], .rdcyc 38),
    (0b1_000000_100110_000000000_101_0000100, [], .rdwid 38 5),
    (0b1_000000_100110_000000_001010_0000101, [], .rdsr 38 0x00A),
    (0b1_000000_000000_001011_001010_0000110, [], .wrsr 0x00A 11),
    (0b1_000000000000_001011_0000000000111, [], .fenceE 11)] := by decide

theorem test_decode_major_01 : Words [
    (0b1_000001_100110_001011_010101_0000000, [], .add 38 11 21),
    (0b1_000001_100110_001011_010101_0000001, [], .sub 38 11 21),
    (0b1_000001_100110_001011_010101_0000010, [], .mul 38 11 21),
    (0b1_000001_100110_001011_010101_0000011, [], .mulhI64 38 11 21),
    (0b1_000001_100110_001011_010101_0000100, [], .mulhN64 38 11 21),
    (0b1_000001_100110_001011_010101_0000101, [], .divI64 38 11 21),
    (0b1_000001_100110_001011_010101_0000110, [], .divN64 38 11 21),
    (0b1_000001_100110_001011_010101_0000111, [], .remI64 38 11 21),
    (0b1_000001_100110_001011_010101_0001000, [], .remN64 38 11 21),
    (0b1_000001_100110_001011_010101_0001001, [], .minI64 38 11 21),
    (0b1_000001_100110_001011_010101_0001010, [], .minN64 38 11 21),
    (0b1_000001_100110_001011_010101_0001011, [], .maxI64 38 11 21),
    (0b1_000001_100110_001011_010101_0001100, [], .maxN64 38 11 21),
    (0b1_000001_100110_001011_0000000001101, [], .abs 38 11),
    (0b1_000001_100110_001011_010101_0001110, [], .and 38 11 21),
    (0b1_000001_100110_001011_010101_0001111, [], .or 38 11 21),
    (0b1_000001_100110_001011_010101_0010000, [], .xor 38 11 21),
    (0b1_000001_100110_001011_010101_0010001, [], .andn 38 11 21),
    (0b1_000001_100110_001011_010101_0010010, [], .shl 38 11 21),
    (0b1_000001_100110_001011_010101_0010011, [], .shr 38 11 21),
    (0b1_000001_100110_001011_010101_0010100, [], .sra 38 11 21),
    (0b1_000001_100110_001011_010101_0010101, [], .rot 38 11 21),
    (0b1_000001_100110_001011_0000000010110, [], .clz 38 11),
    (0b1_000001_100110_001011_0000000010111, [], .ctz 38 11),
    (0b1_000001_100110_001011_0000000011000, [], .popc 38 11),
    (0b1_000001_100110_001011_101101_0011010, [], .shlImm 38 11 45),
    (0b1_000001_100110_001011_101101_0011011, [], .shrImm 38 11 45),
    (0b1_000001_100110_001011_101101_0011100, [], .sraImm 38 11 45),
    (0b1_000001_100110_001011_101101_0011101, [], .rotImm 38 11 45),
    (0b1_000001_100110_001011_010101_010_1001, [], .sel 38 11 21 9),
    (0b1_000001_100110_001011_010101_0110_101, [], .lea 38 11 21 5)] := by decide

theorem test_decode_major_02 : Words [
    (0b1_000010_100110_001011_1000010110011, [], .addi 38 11 4275)] := by decide

theorem test_decode_major_03 : Words [
    (0b1_000011_100110_000000_1000010110011, [], .movi 38 4275)] := by decide

theorem test_decode_major_04 : Words [
    (0b1_000100_100110_001011_010101_0_101101, [], .fsh 38 11 21 45)] := by decide

theorem test_decode_major_05 : Words [
    (0b1_000101_100110_001011_0_000101_011010, [], .bfxN64 38 11 5 26),
    (0b1_000101_100110_001011_1_000101_011010, [], .bfxI64 38 11 5 26)] := by decide

theorem test_decode_major_06 : Words [
    (0b1_000110_100110_001011_0_000101_011010, [], .bfi 38 11 5 26)] := by decide

theorem test_decode_major_07 : Words [
    (0b1_00011100_0110_001011_010101_0000000, [], .cmpEq 6 11 21),
    (0b1_00011100_0110_001011_010101_0000001, [], .cmpNe 6 11 21),
    (0b1_00011100_0110_001011_010101_0000010, [], .cmpLt 6 11 21),
    (0b1_00011100_0110_001011_010101_0000011, [], .cmpGe 6 11 21),
    (0b1_00011100_0110_001011_010101_0000100, [], .cmpLtu 6 11 21),
    (0b1_00011100_0110_001011_010101_0000101, [], .cmpGeu 6 11 21),
    (0b1_00011100_0110_00_1011_00_0101_0010000, [], .pand 6 11 5),
    (0b1_00011100_0110_00_1011_00_0101_0010001, [], .por 6 11 5),
    (0b1_00011100_0110_00_1011_00_0101_0010010, [], .pxor 6 11 5),
    (0b1_00011100_0110_00_1011_0000000010011, [], .pnot 6 11)] := by decide

theorem test_decode_major_08 : Words [
    (0b1_001000_100110_001011_1000010110011, [], .ld64 38 11 4275)] := by decide

theorem test_decode_major_09 : Words [
    (0b1_001001_100110_001011_1000010110011, [], .ldN32 38 11 4275)] := by decide

theorem test_decode_major_0A : Words [
    (0b1_001010_100110_001011_1000010110011, [], .ldI32 38 11 4275)] := by decide

theorem test_decode_major_0B : Words [
    (0b1_001011_100110_001011_1000010110011, [], .st64 38 11 4275)] := by decide

theorem test_decode_major_0C : Words [
    (0b1_001100_100110_001011_1000010110011, [], .st32 38 11 4275)] := by decide

theorem test_decode_major_0D : Words [
    (0b1_001101_100110_001011_1000010110011, [], .ldsp 38 11 4275)] := by decide

theorem test_decode_major_0E : Words [
    (0b1_001110_100110_001011_1000010110011, [], .stsp 38 11 4275)] := by decide

theorem test_decode_major_0F : Words [
    (0b1_001111_100110_001011_010101_0000000, [], .ldN8 38 11 21),
    (0b1_001111_100110_001011_010101_0000001, [], .ldI8 38 11 21),
    (0b1_001111_100110_001011_010101_0000010, [], .ldN16 38 11 21),
    (0b1_001111_100110_001011_010101_0000011, [], .ldI16 38 11 21),
    (0b1_001111_100110_001011_010101_0000100, [], .st8 38 11 21),
    (0b1_001111_100110_001011_010101_0000101, [], .st16 38 11 21),
    (0b1_001111000_011_001011_010101_0001000, [], .ldq 3 11 21),
    (0b1_001111000_011_001011_010101_0001001, [], .stq 3 11 21),
    (0b1_001111000_011_001011_0000000001010, [], .qpush 3 11),
    (0b1_001111_100110_000_011_0000000001011, [], .qpop 38 3),
    (0b1_00111100000000_1010_0000000001100, [], .bqpush 10),
    (0b1_001111_100110_001011_010101_0010000, [], .amoAdd 38 11 21),
    (0b1_001111_100110_001011_010101_0010001, [], .amoMinI64 38 11 21),
    (0b1_001111_100110_001011_010101_0010010, [], .amoMinN64 38 11 21),
    (0b1_001111_100110_001011_010101_0010011, [], .amoMaxI64 38 11 21),
    (0b1_001111_100110_001011_010101_0010100, [], .amoMaxN64 38 11 21),
    (0b1_001111_100110_001011_010101_0010101, [], .amoAnd 38 11 21),
    (0b1_001111_100110_001011_010101_0010110, [], .amoOr 38 11 21),
    (0b1_001111_100110_001011_010101_0010111, [], .amoXor 38 11 21),
    (0b1_001111_100110_001011_010101_0011000, [], .amoXchg 38 11 21),
    (0b1_001111_100110_001011_010101_0011001, [], .amoCas 38 11 21),
    (0b1_001111_100110_001011_010101_0011010, [], .amoFaddF32 38 11 21),
    (0b1_001111_100110_001011_010101_0011011, [], .amoFaddBf16 38 11 21),
    (0b1_001111_100110_001011_010101_0011100, [], .amoFmaxF32 38 11 21),
    (0b1_001111_100110_001011_010101_0011101, [], .amoFmaxBf16 38 11 21),
    (0b1_001111000_011_001011_010101_0100000, [], .cadd 3 11 21),
    (0b1_001111_100110_001011_000_100_0100001, [], .cread 38 11 4),
    (0b1_001111_100110_001011_010101_0100010, [], .cwait 38 11 21),
    (0b1_001111_100110_001011_0000000101000, [], .kadd 38 11),
    (0b1_001111000000_001011_010101_0101001, [], .kwait 11 21),
    (0b1_001111_100110_001011_0000000101010, [], .kread 38 11),
    (0b1_001111_100110_001011_010101_0101011, [], .klink 38 11 21)] := by decide

theorem test_decode_major_10 : Words [
    (0b1_0100000000000_100000000010110011, [], .br 131251),
    (0b1_010000001_1010_100000000010110011, [], .bp 10 131251),
    (0b1_010000010_1010_100000000010110011, [], .bpF 10 131251),
    (0b1_0100000110000_100000000010110011, [], .bq 131251)] := by decide

theorem test_decode_major_11 : Words [
    (0b1_0100010000000_100000000010110011, [], .call 131251)] := by decide

theorem test_decode_major_12 : Words [
    (0b1_010010_101101_0_100000000010110011, [], .dbnz 45 131251),
    (0b1_010010_101101_1_100000000010110011, [], .dbnzG 45 131251)] := by decide

theorem test_decode_major_13 : Words [
    (0b1_010011000000_001011_0000000000000, [], .jr 11),
    (0b1_0100110000000000000000000000001, [], .ret),
    (0b1_0100110000000000000000000000010, [], .eret),
    (0b1_0100110000000000000000000001000, [], .taskend),
    (0b1_010011000000_001011_0000000001001, [], .ovswap 11),
    (0b1_010011000000_001011_010101_0010000, [], .specBegin 11 21),
    (0b1_0100110000000000000000000010001, [], .specCommit),
    (0b1_0100110000000000000000000010010, [], .specAbort)] := by decide

theorem test_decode_major_14 : Words [
    (0b1_0101000000000_100000000010110011, [], .ubz 131251)] := by decide

theorem test_decode_major_15 : Words [
    (0b1_010101_100110_0_01101_0000000000000, [], .nest 38 13),
    (0b1_010101_100110_0_01101_00_101_10000000, [], .nestR 38 13 5)] := by decide

theorem test_decode_major_18 : Words [
    (0b1_011000_100110_001011_010101_0000000, [], .wld 38 11 21),
    (0b1_011000_100110_001011_010101_0000001, [], .wst 38 11 21),
    (0b1_011000_100110_001011_000_011_0000010, [], .wset 38 11 3),
    (0b1_011000_100110_0000000000000000011, [], .wgo 38),
    (0b1_011000_100110_00_1010_0000000000100, [], .wgoNb 38 10),
    (0b1_011000_100110_001011_000_011_0000101, [], .wpatch 38 11 3)] := by decide

theorem test_decode_major_19 : Words [
    (0b1_011001000_011_000101_00_1101_0000000, [], .ringdef 3 5 13),
    (0b1_011001000_011_0000000100000000000, [], .ringdefU 3),
    (0b1_011001000000000_011_0000000000001, [], .ringpop 3),
    (0b1_011001_100110_000_011_0000000000010, [], .ringstat 38 3),
    (0b1_011001_001010_001011_0000000000011, [], .tdef 10 11),
    (0b1_011001_100110_001010_0000000000100, [], .tfeRd 38 10),
    (0b1_011001_100110_001010_0000010000100, [], .tfeSet 38 10),
    (0b1_011001_100110_001010_0000100000100, [], .tfeClr 38 10),
    (0b1_011001000000_001011_0000000000101, [], .rcfence 11),
    (0b1_011001_100110_001011_0000000000110, [], .recld 38 11),
    (0b1_011001_100110_000000000_011_0000111, [], .eqstat 38 3),
    (0b1_011001_100110_000000010_011_0000111, [], .eqstatC 38 3),
    (0b1_011001000000000000000_011_0001000, [], .ecancelRes 3),
    (0b1_011001000000000001000_011_0001000, [], .ecancelOne 3),
    (0b1_011001000000000010000_011_0001000, [], .ecancelAll 3)] := by decide

theorem test_decode_major_20 : Words [
    (0b1_100000_100110_001011_010101_1010_000, [], .vld 38 11 21 .f32),
    (0b1_100000_100110_001011_010101_1010_001, [], .vst 38 11 21 .f32),
    (0b1_100000_100110_000_011_0000000000010, [], .vqpop 38 3),
    (0b1_100000000_011_001011_0000000000011, [], .vqpush 3 11),
    (0b1_100000_100110_001011_000000_1010_100, [], .vmov 38 11 .f32),
    (0b1_100000_100110_001011_000000_1010_101, [], .vbcst 38 11 .f32),
    (0b1_100000_100110_001011_010101_1010_110, [], .vins 38 11 21 .f32),
    (0b1_100000_100110_001011_010101_1010_111, [], .vextr 38 11 21 .f32)] := by decide

theorem test_decode_major_21 : Words [
    (0b1_100001_100110_001011_010101_1010_000, [], .vadd 38 11 21 .f32),
    (0b1_100001_100110_001011_010101_1010_001, [], .vsub 38 11 21 .f32),
    (0b1_100001_100110_001011_010101_1010_010, [], .vmul 38 11 21 .f32),
    (0b1_100001_100110_001011_010101_1010_011, [], .vmin 38 11 21 .f32),
    (0b1_100001_100110_001011_010101_1010_100, [], .vmax 38 11 21 .f32),
    (0b1_100001_100110_001011_000000_1010_101, [], .vabs 38 11 .f32),
    (0b1_100001_100110_001011_000000_1010_110, [], .vneg 38 11 .f32)] := by decide

theorem test_decode_major_22 : Words [
    (0b1_100010_100110_001011_010101_1010_000, [], .vfma 38 11 21 .f32),
    (0b1_100010_100110_001011_010101_1010_001, [], .vfms 38 11 21 .f32),
    (0b1_100010_100110_001011_010101_1000_010, [], .vwmul 38 11 21 .bf16),
    (0b1_100010_100110_001011_010101_1000_011, [], .vwadd 38 11 21 .bf16),
    (0b1_100010_100110_001011_010101_1000_100, [], .vwfma 38 11 21 .bf16),
    (0b1_100010_100110_001011_010101_0001_101, [], .vdot4 38 11 21 .i8),
    (0b1_100010_100110_001011_010101_1010_110, [], .vamax 38 11 21 .f32)] := by decide

theorem test_decode_major_23 : Words [
    (0b1_100011_100110_001011_010101_1010_000, [], .vand 38 11 21 .f32),
    (0b1_100011_100110_001011_010101_1010_001, [], .vor 38 11 21 .f32),
    (0b1_100011_100110_001011_010101_1010_010, [], .vxor 38 11 21 .f32),
    (0b1_100011_100110_001011_010101_1010_011, [], .vandn 38 11 21 .f32),
    (0b1_100011_100110_001011_010101_0010_100, [], .vshl 38 11 21 .i16),
    (0b1_100011_100110_001011_010101_0010_101, [], .vshr 38 11 21 .i16),
    (0b1_100011_100110_001011_010101_0010_110, [], .vsra 38 11 21 .i16)] := by decide

theorem test_decode_major_24 : Words [
    (0b1_100100_100110_001011_010101_1010_000, [], .vcmpEq 38 11 21 .f32),
    (0b1_100100_100110_001011_010101_1010_001, [], .vcmpNe 38 11 21 .f32),
    (0b1_100100_100110_001011_010101_1010_010, [], .vcmpLt 38 11 21 .f32),
    (0b1_100100_100110_001011_010101_1010_011, [], .vcmpLe 38 11 21 .f32),
    (0b1_100100_100110_001011_010101_1010_100, [], .vcmpGt 38 11 21 .f32),
    (0b1_100100_100110_001011_010101_1010_101, [], .vcmpGe 38 11 21 .f32),
    (0b1_100100_100110_001011_010101_1010_110, [], .vcmpUn 38 11 21 .f32)] := by decide

theorem test_decode_major_25 : Words [
    (0b1_100101_100110_001011_010101_1010_000, [], .vsel 38 11 21 .f32),
    (0b1_100101_100110_001011_010101_1010_001, [], .vperm 38 11 21 .f32),
    (0b1_100101_100110_001011_010101_1010_010, [], .vzip 38 11 21 .f32),
    (0b1_100101_100110_001011_010101_1010_011, [], .vunzip 38 11 21 .f32),
    (0b1_100101_100110_001011_010101_1010_100, [], .vslide 38 11 21 .f32),
    (0b1_100101_100110_001011_0000_01_1010_101, [], .vred 38 11 1 .f32),
    (0b1_100101_100110_001011_0000_10_1010_110, [], .vscan 38 11 2 .f32),
    (0b1_100101_100110_001011_000000_0101_111, [], .vlut 38 11 .n8)] := by decide

theorem test_decode_major_26 : Words [
    (0b1_100110_100110_001011_000_001_1010_000, [], .vexp2 38 11 .rz .f32),
    (0b1_100110_100110_001011_000_001_1010_001, [], .vlog2 38 11 .rz .f32),
    (0b1_100110_100110_001011_000_001_1010_010, [], .vrcp 38 11 .rz .f32),
    (0b1_100110_100110_001011_000_001_1010_011, [], .vrsq 38 11 .rz .f32),
    (0b1_100110_100110_001011_000_001_1010_100, [], .vtanh 38 11 .rz .f32),
    (0b1_100110000000_001011_0000000000101, [], .vlutld 11),
    (0b1_100110_100110_0000000000000111110, [], .vrng 38)] := by decide

theorem test_decode_major_27 : Words [
    (0b1_100111_100110_001011_0_1_1010_1000_001, [], .vcvt 38 11 true .f32 .bf16 .rz)] := by decide

theorem test_decode_major_28 : Words [
    (0b1_101000_100110_001010_0_1_1000_1010_001, [], .vnarrow 38 10 true .bf16 .f32 .rz)] := by decide

theorem test_decode_major_29 : Words [
    (0b1_101001000000_001011_0000000000000, [], .mpush 11),
    (0b1_1010010000000000000000000000001, [], .minv),
    (0b1_1010010000000000000000000000010, [], .mpop),
    (0b1_101001_100110_0000000000000000011, [], .mtop 38)] := by decide

theorem test_decode_major_30 : Words [
    (0b1_110000000000_001011_010101_0000000, [], .attmask 11 21),
    (0b1_11000000000_1_001011_0000000000001, [], .attstLd 1 11),
    (0b1_11000000001_1_001011_0000000000001, [], .attstLdM 1 11),
    (0b1_11000000000_1_001011_0000000000010, [], .attstSt 1 11),
    (0b1_110000000_101_001011_0000000000011, [], .seqbind 5 11)] := by decide

theorem test_decode_major_31 : Words [
    (0b1_110001_100110_001011_010101_0000000, [], .kvappend 38 11 21),
    (0b1_110001_100110_001011_010101_0000001, [], .kvput 38 11 21),
    (0b1_110001000000_001011_010101_0000010, [], .kvinv 11 21)] := by decide

theorem test_decode_major_34 : Words [
    (0b1_110100000000_001011_0000000000000, [], .xlinvPg 11),
    (0b1_110100000001_001011_010101_0000000, [], .xlinvRg 11 21),
    (0b1_1101000000100000000000000000000, [], .xlinvAll),
    (0b1_110100000000_001011_0000000000001, [], .poisonClr 11),
    (0b1_110100000001_001011_0000000000001, [], .poisonClrSp 11)] := by decide

theorem test_decode_major_38 : Words [
    (0b1_111_001010_0_01001_1000000010110011, [], .pw 10 9 32947),
    (0b1_111_001010_1_01001_1000000010110011, [], .pwS 10 9 32947)] := by decide

/-- Bit 12 of the first syllable is bit 31 of the value (R39, R41). -/
theorem test_decode_major_37 : Words [
    (0b0_110111_100110_000000_1_000000000000, [0b1_0001010101111001101111011110001], .movl 38 0x8ABCDEF1),
    (0b0_110111_100110_000000_0_000000000001, [0b1_0001010101111001101111011110001], .movlN 38 0x0ABCDEF1),
    (0b0_110111_100110_000000_1_000000000010, [0b1_1111111111111111111111111111111], .movlH 38 0xFFFFFFFF)] := by decide

/-- Words that are no instruction, each refused by its name: unassigned majors, funcs and markers, bits set in unused fields, and operand
values that a form does not admit (R38, R40, R45 to R52). -/
abbrev Refused (r : DecodeResult) (l : List (Nat × List Nat)) : Prop := ∀ x ∈ l, (decode x.1 x.2).1 = r

theorem test_decode_opcode : Refused .opcode [
    (0b1_010110_000000_000000_000000_0000000, []), (0b1_010111_000000_000000_000000_0000000, []),
    (0b1_011010_000000_000000_000000_0000000, []), (0b1_101111_000000_000000_000000_0000000, []),
    (0b1_110010_000000_000000_000000_0000000, []), (0b1_110101_000000_000000_000000_0000000, []),
    (0b1_000000_000000_000000_000000_0001000, []), (0b1_000001_000000_000000_000000_0011001, []),
    (0b1_000001_000000_000000_000000_0111000, []), (0b1_000111_000000_000000_000000_0000110, []),
    (0b1_001111_000000_000000_000000_0000110, []), (0b1_010011_000000_000000_000000_0000011, []),
    (0b1_011000_000000_000000_000000_0000110, []), (0b1_011001_000000_000000_000000_0001001, []),
    (0b1_100001_000000_000000_000000_1010_111, []), (0b1_101001_000000_000000_000000_0000_100, []),
    (0b0_110111_000000_000000_0_000000000011, [0])] := by decide

theorem test_decode_encoding : Refused .encoding [
    (0b1_000000_000001_000000_000000_0000000, []), (0b1_000011_000001_000001_0000000000000, []),
    (0b1_000111_010000_000000_000000_0000000, []), (0b1_000001_000001_000001_000001_0001101, []),
    (0b1_001111_001000_000000_000000_0001010, []), (0b1_010000_100_0000_000000000000000000, []),
    (0b1_010000_000_0001_000000000000000000, []), (0b1_011000_000001_000010_000100_0000010, []),
    (0b1_011001_000011_000101_010001_0000000, []), (0b1_100110_000001_000010_001000_1010_000, []),
    (0b1_100110_000001_000010_000110_1010_000, []), (0b0_110111_000001_000001_0_000000000000, [0])] := by decide

/-! ## Well-formed instructions

For each check of `formOk` a term that it refuses, beside one that it admits. -/

/-- The check admits the first term and refuses the second. -/
abbrev Checked (i j : Instr) : Prop := i.WellFormed ∧ ¬j.WellFormed

theorem test_wf_fields : Checked (.rdwid 1 7) (.rdwid 1 6) ∧ Checked (.rdsr 1 4) (.rdsr 1 5) ∧ Checked (.wrsr 2 1) (.wrsr 3 1) ∧
    Checked (.wrsr 0x11 1) (.wrsr 0x12 1) ∧ Checked (.bfxN64 1 2 31 32) (.bfxN64 1 2 32 32) ∧ Checked (.bfxI64 1 2 0 63) (.bfxI64 1 2 1 63) ∧
    Checked (.bfi 1 2 63 0) (.bfi 1 2 63 1) ∧ Checked (.cadd 4 1 2) (.cadd 5 1 2) ∧ Checked (.cread 1 2 4) (.cread 1 2 5) ∧
    Checked (.wset 1 2 3) (.wset 1 2 4) ∧ Checked (.nest 2 0) (.nest 3 0) ∧ Checked (.nestR 2 0 1) (.nestR 3 0 1) ∧
    Checked (.ringdef 0 60 3) (.ringdef 0 60 4) := by decide

theorem test_wf_types : Checked (.vadd 1 2 3 .i8) (.vadd 1 2 3 .e4m3) ∧ Checked (.vfma 1 2 3 .bf16) (.vfma 1 2 3 .e4m3) ∧
    Checked (.vabs 1 2 .f16) (.vabs 1 2 .e2m1) ∧ Checked (.vcmpEq 1 2 3 .n32) (.vcmpEq 1 2 3 .e2m3) ∧ Checked (.vcmpUn 1 2 3 .f32) (.vcmpUn 1 2 3 .i32) ∧
    Checked (.vred 1 2 2 .f32) (.vred 1 2 3 .f32) ∧ Checked (.vscan 1 2 0 .i16) (.vscan 1 2 0 .e5m2) ∧ Checked (.vshl 1 2 3 .n8) (.vshl 1 2 3 .f32) ∧
    Checked (.vwmul 2 1 3 .i8) (.vwmul 3 1 3 .i8) ∧ Checked (.vwadd 2 1 3 .bf16) (.vwadd 2 1 3 .f32) ∧ Checked (.vdot4 1 2 3 .i8) (.vdot4 1 2 3 .i16) ∧
    Checked (.vzip 2 1 3 .i4) (.vzip 1 2 3 .i4) ∧ Checked (.vunzip 4 1 3 .e3m2) (.vunzip 5 1 3 .e3m2) ∧ Checked (.vlut 4 1 .n4) (.vlut 2 1 .n4) ∧
    Checked (.vlut 2 1 .n8) (.vlut 2 1 .i16) ∧ Checked (.vexp2 1 2 .rup .f32) (.vexp2 1 2 .sr .f32) ∧ Checked (.vrcp 1 2 .rne .bf16) (.vrcp 1 2 .rne .i8) := by
  decide

theorem test_wf_conversions : Checked (.vcvt 2 1 false .f32 .bf16 .rne) (.vcvt 3 1 false .f32 .bf16 .rne) ∧
    Checked (.vcvt 4 1 false .f32 .i8 .rne) (.vcvt 2 1 false .f32 .i8 .rne) ∧ Checked (.vcvt 1 2 false .i32 .f32 .rz) (.vcvt 1 2 false .f32 .f32 .rz) ∧
    Checked (.vcvt 1 2 true .bf16 .f16 .sr) (.vcvt 1 2 true .i16 .f16 .sr) ∧ Checked (.vcvt 4 1 true .f32 .bf16 .rz) (.vcvt 4 1 true .f32 .bf16 .sr) ∧
    Checked (.vnarrow 1 2 false .bf16 .f32 .sr) (.vnarrow 1 3 false .bf16 .f32 .rne) ∧
    Checked (.vnarrow 1 4 false .i8 .f32 .rne) (.vnarrow 1 4 false .i8 .f32 .sr) ∧ Checked (.vnarrow 1 2 true .e4m3 .bf16 .rne) (.vnarrow 1 2 true .bf16 .bf16 .rne) := by
  decide

end Sys2Proof.Tests
namespace Sys2Proof.Tests

open Sys2Proof Sys2Proof.Machine Sys2Proof.Claims

/-! ## Numbers

The values of 01_numbers and 05_vector's own examples. -/

/-- 01_numbers, "one value, five modes": 0x3F8CCCCD to E4M3, with NX. -/
theorem test_convert_modes :
    [Rm.rne, .rna, .rup, .rz, .rdn].map (fun r => convertElem .f32 .e4m3 r false 0 0x3F8CCCCD) =
      [(0x39, 0x10), (0x39, 0x10), (0x39, 0x10), (0x38, 0x10), (0x38, 0x10)] := by decide

/-- The same example under `.sr`, with both stochastic words. -/
theorem test_convert_stochastic :
    [0x20000000, 0x90000000].map (fun u => convertElem .f32 .e4m3 .sr false u 0x3F8CCCCD) = [(0x38, 0x10), (0x39, 0x10)] := by decide

/-- R16: infinities and overflow of E5M2 and of 512 into E4M3, with and without saturation. -/
theorem test_convert_overflow :
    [(ElemType.e5m2, 0x7C, false), (.e5m2, 0xFC, false), (.e5m2, 0x7C, true), (.bf16, 0x4400, false), (.bf16, 0x4400, true)].map
      (fun x => convertElem x.1 .e4m3 .rne x.2.2 0 x.2.1) =
      [(0x7F, 0x04), (0xFF, 0x04), (0x7E, 0x24), (0x7F, 0x14), (0x7E, 0x34)] := by decide

/-- R141: 15 into E5M2 rounds to 16; −8 into E2M3 saturates at −7.5. -/
theorem test_convert_integers :
    convertElem .n4 .e5m2 .rne false 0 15 = (0x4C, 0x10) ∧ convertElem .i4 .e2m3 .rne false 0 8 = (0x3F, 0x34) := by decide

/-- R18: 127.4, 127.6 and −128.6 (here 127.375, 127.625 and −128.625 in binary32) into `.i8`. -/
theorem test_convert_to_integer :
    [(Rm.rne, 0x42FEC000), (.rne, 0x42FF4000), (.rz, 0xC300A000), (.rne, 0xC300A000)].map (fun x => convertElem .f32 .i8 x.1 false 0 x.2) =
      [(127, 0x10), (127, 0x21), (0x80, 0x10), (0x80, 0x21)] := by decide

/-- R19: the words of the zero counter under the zero key. -/
theorem test_philox : philox (0, 0, 0, 0) 0 0 = (0x6627E8D5, 0xE169C58D, 0xBC57AC4C, 0x9B00DBD8) := by decide

/-- R25: exact results raise nothing: 2^3, log2 8, 1/8, 1/√16 in BF16. -/
theorem test_special_exact :
    [specialFn .exp2 .bf16 .rne 0x4040, specialFn .log2 .bf16 .rne 0x4100, specialFn .rcp .bf16 .rne 0x4100, specialFn .rsq .bf16 .rne 0x4180] =
      [(0x4100, 0), (0x4040, 0), (0x3E00, 0), (0x3E80, 0)] := by decide

/-- R25: the table of special inputs: −0 to `VRCP` and `VRSQ`, a negative number to `VLOG2`, +∞ to `VTANH`. -/
theorem test_special_table :
    [specialFn .rcp .f16 .rne 0x8000, specialFn .rsq .f16 .rne 0x8000, specialFn .log2 .f16 .rne 0xBC00, specialFn .tanh .f16 .rne 0x7C00] =
      [(0xFC00, 2), (0xFC00, 2), (0x7E00, 1), (0x3C00, 0)] := by decide

/-! ## Scalar instructions -/

/-- R90: −2^63 / −1 gives −2^63, and the remainder 0; a zero divisor gives −1 and the dividend. -/
theorem test_div :
    let s := withX [(1, 0x8000000000000000), (2, 0xFFFFFFFFFFFFFFFF)]
    [inX (.divI64 5 1 2) s, inX (.remI64 5 1 2) s, inX (.divI64 5 2 0) s, inX (.remN64 5 2 0) s] =
      [some (5, 0x8000000000000000, 20), some (5, 0, 20), some (5, 0xFFFFFFFFFFFFFFFF, 20), some (5, 0xFFFFFFFFFFFFFFFF, 20)] := by decide

/-- R90: the high halves of −1 × −1, signed and unsigned; a sum wraps. -/
theorem test_products :
    let s := withX [(1, 0xFFFFFFFFFFFFFFFF)]
    [inX (.mulhI64 5 1 1) s, inX (.mulhN64 5 1 1) s, inX (.add 5 1 1) s] =
      [some (5, 0, 3), some (5, 0xFFFFFFFFFFFFFFFE, 3), some (5, 0xFFFFFFFFFFFFFFFE, 1)] := by decide

/-- R91: an arithmetic shift keeps the sign; a shift takes its amount mod 64; a field is sign-extended; the funnel shift joins x[a] above x[b]. -/
theorem test_shifts :
    let s := withX [(1, 0x8000000000000010), (2, 68)]
    [inX (.sra 5 1 2) s, inX (.rot 5 1 2) s, inX (.bfxI64 5 1 0 4) s, inX (.fsh 5 1 1 4) s] =
      [some (5, 0xF800000000000001, 1), some (5, 0x0800000000000001, 1), some (5, 0xFFFFFFFFFFFFFFFF, 1), some (5, 0x0800000000000001, 1)] := by decide

/-- R71: a write to x0 writes no register. -/
theorem test_x0 : (after (.addi 0 0 5) live).strand.results.map (·.eff) = [.flagsOnly] := by decide

/-- R119: fields of the work identifier 0x2A under the widths 3 and 5, the lowest field last; field 7 is the whole. -/
theorem test_rdwid :
    [inX (.rdwid 5 0) live, inX (.rdwid 5 1) live, inX (.rdwid 5 7) live] = [some (5, 1, 1), some (5, 10, 1), some (5, 0x2A, 1)] := by decide

/-- R42: a branch goes to the address of its group plus 4 × disp18, here 100 − 8. -/
theorem test_branch : (after (.br (-2)) { live with grp := { live.grp with addr := 100 } }).strand.pc = 92 := by decide

/-- R111: `DBNZ` to 0 does not branch, and `DBNZ.G` of 0 writes nothing. -/
theorem test_dbnz :
    inX (.dbnz 1 5) (withX [(1, 1)]) = some (1, 0, 1) ∧ (after (.dbnz 1 5) (withX [(1, 1)])).strand.pc = 0 ∧
    (after (.dbnzG 1 5) (withX [])).strand.results = [] := by decide

/-- R106, R108: at a ceiling of 3 an add of 3 passes, and one of 4 traps `CEILING` with the counter in tval. -/
theorem test_ceiling :
    let s : State := { withX [(1, 3), (2, 4)] with core := { live.core with
      k := live.core.k.set 5 ⟨0, ⟨true, 6, 3⟩, none, []⟩
      a := (withX [(1, 3), (2, 4)]).core.a } }
    ((after (.kadd 5 1) s).core.k[(5 : Fin 64)]).count = 3 ∧ (after (.kadd 5 2) s).strand.cause = 0x18 ∧
    (after (.kadd 5 2) s).strand.tval = 5 ∧ ((after (.kadd 5 2) s).core.k[(5 : Fin 64)]).count = 0 := by decide

/-- R89: a misaligned load traps `ALIGN`, an address that is not canonical `XLATE_PROT`. -/
theorem test_load_checks :
    (after (.ld64 5 1 4) live).strand.cause = 0x12 ∧ (after (.ld64 5 1 0) (withX [(1, 0x0100000000000000)])).strand.cause = 0x11 := by decide

/-- R94: a store is posted with its bytes in little-endian order, and then read back. -/
theorem test_store :
    let t := after .storePerformed (after (.st32 1 0 8) (withX [(1, 0x1122334455667788)]))
    t.mod.mem = [(8, 0x88), (9, 0x77), (10, 0x66), (11, 0x55)] ∧
    (after (.ldN16 5 2 0) (t.onStrand fun f => { f with x := f.x.set 2 10 })).strand.results.map (·.eff) = [.scalar 5 0x5566] := by decide

/-- R99: a returning `AMO.CAS` whose compare fails leaves memory as it is and answers the old value. -/
theorem test_cas :
    let s : State := { withX [(1, 0x40), (2, 9), (5, 1)] with mod := { live.mod with mem := [(0x40, 7)] } }
    (after (.amoCas 5 1 2) s).mod.mem = [(0x40, 7)] ∧ (after (.amoCas 5 1 2) s).strand.results.map (·.eff) = [.scalar 5 7] := by decide

/-! ## Vector and mask instructions -/

/-- The X strand of `live`, with vector registers as given, in 32-bit lanes from lane 0 on. -/
def withV (vs : List (Fin 64 × VReg)) : State :=
  State.onStrand { live with who := .x } fun f => { f with v := vs.foldl (fun v r => v.set r.1 r.2) f.v }

/-- The low 64 bits that an instruction's vector result gives its first register. -/
def inV (i : Instr) (s : State) : Option (Nat × Flags) :=
  match (after i s).strand.results with
  | [⟨.vec ((_, v) :: _) _, fl, _, _, _, _, _, _⟩] => some (v.toNat % 2 ^ 64, fl)
  | _ => none

/-- R134, R17: 2 + −3 and ∞ + −∞ in binary32: −1, and the canonical NaN with IV. -/
theorem test_vadd : inV (.vadd 3 1 2 .f32) (withV [(1, 0x7F80000040000000), (2, 0xFF800000C0400000)]) = some (0x7FC00000BF800000, 1) := by decide

/-- R136: a signed compare gives ones and zeros. -/
theorem test_vcmp : inV (.vcmpLt 3 1 2 .i32) (withV [(1, 0xFFFFFFFF00000005), (2, 0x0000000000000005)]) = some (0xFFFFFFFF00000000, 0) := by decide

/-- R144: `VZIP` of words interleaves its sources. -/
theorem test_vzip : inV (.vzip 4 1 2 .n32) (withV [(1, 0xA), (2, 0xB)]) = some (0xB0000000A, 0) := by decide

/-- R153, R154: a push narrows the top to the nonzero nibbles, and `MINV` takes the others. -/
theorem test_masks :
    let s := withV [(1, 0x0F0)]
    (after (.mpush 1) s).strand.results.map (·.eff) = [.maskPush 2] ∧
    (after .minv (s.onStrand fun f => { f with masks := [2] })).strand.results.map (·.eff) = [.maskTop (BitVec.allOnes 1024 ^^^ 2)] ∧
    (after .mpop s).strand.cause = 0x0B := by decide

end Sys2Proof.Tests
namespace Sys2Proof.Tests

open Sys2Proof Sys2Proof.Machine Sys2Proof.Claims

/-! ## Witnesses: strands

For every statement with hypotheses, states and operands that meet them together. -/

/-- The conditions of `canTrap` as a test. -/
def trapOk (s : State) : Bool :=
  !s.strand.th && (!s.strand.rq || s.strand.replayStore.isEmpty) && decide (s.strand.traparea.toNat + 4096 ≤ s.spSize) &&
  s.strand.poisons.isEmpty && s.strand.results.all (fun r => r.poison.isNone) &&
  decide (s.who = .a → s.core.poisonedLoads = []) && Memory.wf s.spMem

theorem canTrap_of (s : State) (h : trapOk s = true) : canTrap s := by
  simp only [trapOk, Bool.and_eq_true, Bool.not_eq_true', Bool.or_eq_true, decide_eq_true_eq, List.all_eq_true, List.isEmpty_iff,
    Option.isNone_iff_eq_none] at h
  exact ⟨h.1.1.1.1.1.1, h.1.1.1.1.1.2, h.1.1.1.1.2, h.1.1.1.2, h.1.1.2, h.1.2, h.2⟩

/-- A strand of `live` as g makes it. -/
def strandWith (g : Strand → Strand) : State := live.onStrand g

/-- A core of `live` as g makes it. -/
def coreWith (g : Core → Core) : State := { live with core := g live.core }

theorem witness_ScalarFields : (60 : Fin 64).val + (3 : Fin 64).val + 1 ≤ 64 := by decide

/-- Two results of x5 in one cycle, and one. -/
theorem witness_ResultsReachTheirRegisters :
    (strandWith fun f => { f with results := [plain 5 7 0 0] }).strand.results = [plain 5 7 (strandWith id).cycle 0] ∧
    (strandWith fun f => { f with results := [plain 5 7 0 0, plain 5 8 0 4] }).strand.results = [plain 5 7 live.cycle 0, plain 5 8 live.cycle 4] := by
  decide

/-- A queue that holds a command of a strand. -/
def cmd (img : Image) (who : Who) (seq : Nat) : Command := { (default : Command) with image := img, by_ := who, seq := seq, cursor := .start }

theorem witness_SystemInstructions :
    live.who ≠ .c ∧ live.core.task = some task ∧
    (∀ e q, e < 7 → (live.xr 1).toNat / 2 ^ e % 2 = 1 → q ∈ queuesOfEngine e →
      ∀ c, c ∈ (live.core.queue[q]).waiting ++ (live.core.queue[q]).started → c.by_ ≠ live.who) ∧
    (let s := { withX [(1, 2)] with core := { (withX [(1, 2)]).core with
       queue := live.core.queue.set 1 { Queue.empty with waiting := [cmd 0 .a 0] } } }
     ∃ e q c, e < 7 ∧ (s.xr 1).toNat / 2 ^ e % 2 = 1 ∧ q ∈ queuesOfEngine e ∧
       c ∈ (s.core.queue[q]).waiting ++ (s.core.queue[q]).started ∧ c.by_ = s.who) := by
  refine ⟨by decide, by decide, ?_, 1, 1, cmd 0 .a 0, by decide, by decide, by decide, by decide, by decide⟩
  intro e q _ h
  have : (live.xr 1).toNat = 0 := by decide
  simp [this] at h

theorem witness_SystemRegisterWrites : 0x000 ∈ writableSys ∧ 0x011 ∈ writableSys := by decide

theorem canTrap_live : canTrap live := canTrap_of _ (by decide)

/-- Without DEBUG, the descriptor's flags byte is zero. -/
def plainLive : State :=
  { live with mod := { live.mod with parts := live.mod.parts.set 0 { part with desc := recordOf 128 [(0, 1), (24, 1)] } } }

theorem witness_TrapEntryAndHalt : canTrap plainLive ∧ plainLive.debugOn = false ∧ live.debugOn = true ∧ live.who ≠ .c :=
  ⟨canTrap_of _ (by decide), by decide, by decide, by decide⟩

theorem witness_TrapAndReturn :
    canTrap live ∧ live.strand.results = [] ∧ live.strand.replays = [] ∧ live.strand.nest = none ∧ live.strand.region = none ∧ live.who ≠ .c ∧
    live.grp.addr < 2 ^ 64 ∧ (∀ l, l ∈ live.core.scratchPoison → l * 128 + 128 ≤ live.strand.traparea.toNat ∨
      live.strand.traparea.toNat + 2048 ≤ l * 128) ∧ live.strand.rq = false :=
  ⟨canTrap_live, by decide, by decide, by decide, by decide, by decide, by decide, by decide, by decide⟩

theorem witness_PrivilegeLevels : canTrap live ∧ (Who.a = .a ∨ Who.a = .c) ∧
    (∃ d n, 8 ≤ (n : Fin 4096).val ∧ Instr.rdsr 5 0x00A = .rdsr d n) ∧ (∃ n a, (8 ≤ (n : Fin 4096).val ∨ n.val = 0) ∧ Instr.wrsr 0 5 = .wrsr n a) :=
  ⟨canTrap_live, .inl rfl, ⟨5, 0x00A, by decide, rfl⟩, ⟨0, 5, by decide, rfl⟩⟩

theorem witness_MemoryLoads : live.place accRead (addrM live 1 16) 8 = .ok ⟨16, 0, 0⟩ ∧ poisonedIn live.mod.poison 16 8 = false ∧
    live.place accRead (live.xr 1 + live.xr 2) 32 = .ok ⟨0, 0, 0⟩ := ⟨rfl, by decide, rfl⟩

theorem witness_MemoryStores : live.place accWrite (addrM live 1 16) (lowBytes (live.xr 2) 8).length = .ok ⟨16, 0, 0⟩ ∧ (3 : Fin 8).val < 4 :=
  ⟨rfl, by decide⟩

theorem witness_MemoryAtomics :
    amoOperands (.amoCas 5 1 2) = some (5, 1, 2) ∧ amoFloat (.amoFaddBf16 0 1 2) = some (.bf16, addElem .bf16, 0, 1, 2) ∧ live.part = some 0 ∧
    live.place accAtomic (live.xr 1) 8 = .ok ⟨0, 0, 0⟩ ∧ poisonedIn live.mod.poison 0 8 = false ∧ plainBytes 0 8 ∧ Memory.wf live.mod.mem = true :=
  ⟨rfl, rfl, by decide, rfl, by decide, .inl (by decide), by decide⟩

/-- A posted store of two bytes, a posted atomic, and the same where its line is poisoned. -/
theorem witness_PostedEffectsArePerformed :
    (strandWith fun f => { f with posted := [.store 64 [1, 2]] }).strand.posted = [Posted.store 64 [1, 2]] ∧ plainBytes 64 2 ∧
    (strandWith fun f => { f with posted := [.atomic (amoFunc (.amoAdd 0 1 2)) 64 3 0] }).strand.posted = [.atomic 0x10 64 3 0] ∧
    (amoOperands (.amoAdd 0 1 2)).isSome ∧ plainBytes 64 8 ∧ poisonedIn live.mod.poison 64 8 = false ∧ poisonedIn [0] 64 8 = true ∧
    (strandWith fun f => { f with posted := [.atomic (amoFunc (.amoFmaxF32 0 1 2)) 64 3 0] }).strand.posted = [.atomic 0x1C 64 3 0] :=
  ⟨by decide, .inl (by decide), by decide, by decide, .inl (by decide), by decide, by decide, by decide⟩

/-- One address for each check, in their order: bit 57 set, an address not a multiple of 8, a page that nothing maps, and a counter page. -/
theorem witness_AddressChecks :
    live.part = some 0 ∧ (∃ k, 57 ≤ k ∧ k < 64 ∧ (0x0200000000000000 : Word).getLsbD k ≠ (0x0200000000000000 : Word).getLsbD 56) ∧
    (∀ k, 57 ≤ k → k < 64 → (4 : Word).getLsbD k = (4 : Word).getLsbD 56) ∧ (4 : Word).toNat % 8 ≠ 0 ∧ canTrap live ∧
    (withX [(1, 0x8000000000)]).place accRead (addrM (withX [(1, 0x8000000000)]) 1 0) 8 = .error 0x10 ∧
    (withX [(1, 0x200000)]).place accWrite (addrM (withX [(1, 0x200000)]) 1 0) 8 = .error 0x11 ∧
    (withX [(1, 4)]).place accAtomic ((withX [(1, 4)]).xr 1) 8 = .error 0x12 := by
  refine ⟨by decide, ⟨57, by decide⟩, ?_, by decide, canTrap_live, rfl, rfl, rfl⟩
  intro k h1 h2
  have : k = 57 ∨ k = 58 ∨ k = 59 ∨ k = 60 ∨ k = 61 ∨ k = 62 ∨ k = 63 := by omega
  rcases this with rfl | rfl | rfl | rfl | rfl | rfl | rfl <;> decide

/-- A tile over the first 128 bytes of the scratchpad, full or empty. -/
def tiled (w : Word) : State := coreWith fun k => { k with tile := k.tile.set 0 w }

theorem witness_ScratchpadAccess :
    Memory.wf live.spMem = true ∧ live.strand.region = none ∧
    (addrM live 1 8).toNat % 8 = 0 ∧ (addrM live 1 8).toNat + 8 ≤ live.spSize ∧ live.couples 8 8 false = false ∧ live.couples 8 8 true = false ∧
    live.spPoison.contains (8 / 128) = false ∧ (tiled 0x4000000000400000).couples 8 8 false = true ∧ (tiled 0xC000000000400000).couples 8 8 true = true ∧
    (addrM live 1 4).toNat % 8 ≠ 0 ∧ canTrap live ∧
    (addrM (withX [(1, 524288)]) 1 0).toNat % 8 = 0 ∧ (withX [(1, 524288)]).spSize < (addrM (withX [(1, 524288)]) 1 0).toNat + 8 ∧
    canTrap (withX [(1, 524288)]) :=
  ⟨by decide, by decide, by decide, by decide, by decide, by decide, by decide, by decide, by decide, by decide, canTrap_live, by decide, by decide,
    canTrap_of _ (by decide)⟩

end Sys2Proof.Tests
namespace Sys2Proof.Tests

open Sys2Proof Sys2Proof.Machine Sys2Proof.Claims

/-! ## Witnesses: queues, control, counters, templates, rings -/

def entry (v : BitVec 512) (ready : Nat) : QEntry := ⟨v, ready, false, false, 0, 0⟩

/-- `live` with the entries of queue 4. -/
def queued (es : List QEntry) : State := coreWith fun k => { k with q := k.q.set 4 ⟨0, es⟩ }

theorem witness_DataQueueTransfers :
    (live.core.q[(4 : Fin 8)]).entries = [] ∧ (live.core.q[(4 : Fin 8)]).entries.length < 16 ∧ (live.core.q[(4 : Fin 8)]).entries.length ≤ 8 ∧
    16 ≤ ((queued (List.replicate 16 (entry 1 0))).core.q[(4 : Fin 8)]).entries.length ∧
    Poppable (queued [entry 7 0, entry 8 0]) 4 [entry 7 0] [entry 8 0] ∧
    Poppable (queued [{ entry 7 0 with poison := true }]) 4 [{ entry 7 0 with poison := true }] [] ∧
    canTrap (queued [{ entry 7 0 with poison := true }]) ∧
    Poppable (queued (List.replicate 9 (entry 1 0))) 4 (List.replicate 8 (entry 1 0)) [entry 1 0] :=
  ⟨by decide, by decide, by decide, by decide, ⟨by decide, by decide⟩, ⟨by decide, by decide⟩, canTrap_of _ (by decide), ⟨by decide, by decide⟩⟩

theorem witness_QueueLoadsAndStores :
    live.place accRead (live.xr 1 + live.xr 2) 64 = .ok ⟨0, 0, 0⟩ ∧ live.place accWrite (live.xr 1 + live.xr 2) 64 = .ok ⟨0, 0, 0⟩ ∧
    (queued [entry 7 0]).place accWrite ((queued [entry 7 0]).xr 1 + (queued [entry 7 0]).xr 2) 64 = .ok ⟨0, 0, 0⟩ ∧
    (queued (List.replicate 16 (entry 1 0))).place accRead ((queued (List.replicate 16 (entry 1 0))).xr 1 +
      (queued (List.replicate 16 (entry 1 0))).xr 2) 64 = .ok ⟨0, 0, 0⟩ := ⟨rfl, rfl, rfl, rfl⟩

theorem witness_BranchOutcomes :
    live.who = .a ∧ ({ live with who := .x } : State).who = .x ∧ live.core.bqXA.entries = [] ∧ live.core.bqAX.entries.length < 32 ∧
    (coreWith fun k => { k with bqXA := ⟨3, [(true, 0)]⟩ }).core.bqXA.entries = [(true, 0)] ∧
    (coreWith fun k => { k with bqAX := ⟨3, [(false, 0)]⟩ }).core.bqAX.entries = [(false, 0)] := by decide

theorem witness_ControlTransfers :
    (live.xr 1).toNat % 4 = 0 ∧ (live.xr 63).toNat % 4 = 0 ∧ ((withX [(1, 6)]).xr 1).toNat % 4 ≠ 0 ∧ canTrap (withX [(1, 6)]) ∧
    live.strand.pendingX 5 = false ∧ (strandWith fun f => { f with results := [plain 5 7 2 0] }).strand.pendingX 5 = true :=
  ⟨by decide, by decide, by decide, canTrap_of _ (by decide), by decide, by decide⟩

theorem witness_BranchOnEmptyMask : live.strand.masks = [] ∧ (strandWith fun f => { f with masks := [0, 5] }).strand.masks = [0, 5] := by decide

/-- T in token mode: the header names no entry for it. -/
def tokens : State := { coreWith fun k => { k with task := some { task with header := { header with entryT := 0xFFFFFFFF } } } with who := .t 0 }

theorem witness_PartEnds :
    (strandWith fun f => { f with results := [plain 5 7 2 0] }).strand.draining = true ∧ live.strand.draining = false ∧ live.who = .a ∧
    ({ live with who := .t 0 } : State).strand.draining = false ∧ ({ live with who := .t 0 } : State).core.tokenMode = false ∧
    tokens.strand.draining = false ∧ tokens.core.tokenMode = true ∧ ({ live with who := .t 2 } : State).strand.draining = false ∧ (2 : Fin 5) ≠ 0 ∧
    live.core.task = some task ∧ (withX [(1, 0x1000)]).xr 1 ≠ 0 ∧ (withX [(1, 0x1000)]).strand.draining = false ∧
    ({ live with who := .x } : State).strand.draining = false := by decide

/-- Counter 5 linked to counter 6 with a slack of 3. -/
def linked (x : Word) : State :=
  { withX [(1, x)] with core := { (withX [(1, x)]).core with k := live.core.k.set 5 ⟨0, ⟨true, 6, 3⟩, none, []⟩ } }

theorem witness_LocalCounters :
    sharedWhole live ∧ ((live.counter live.onController 5).count.toNat + (live.xr 1).toNat ≤ ceilingOf live 5) ∧ sharedWhole (linked 4) ∧
    ceilingOf (linked 4) 5 < ((linked 4).counter (linked 4).onController 5).count.toNat + ((linked 4).xr 1).toNat ∧ canTrap (linked 4) ∧
    ((linked 3).counter (linked 3).onController 5).count.toNat + ((linked 3).xr 1).toNat ≤ ceilingOf (linked 3) 5 ∧
    settled live (live.counter live.onController 5) ∧ live.sharedGroup = none := by
  refine ⟨?_, by decide, ?_, by decide, canTrap_of _ (by decide), by decide, ?_, by decide⟩
  · intro g h
    have : live.sharedGroup = none := by decide
    rw [this] at h
    cases h
  · intro g h
    have : (linked 4).sharedGroup = none := by decide
    rw [this] at h
    cases h
  · unfold settled
    decide

theorem witness_CounterVisibility :
    live.who ≠ .c ∧ live.sharedGroup = none ∧ settled live live.core.k[(5 : Fin 64)] ∧
    (live.core.k[(5 : Fin 64)]).count.toNat + (live.xr 1).toNat ≤ ceilingOf live 5 ∧ 1 ≠ agentOf live live.who ∧
    1 / 16 = agentOf live live.who / 16 := by
  refine ⟨by decide, by decide, ?_, by decide, by decide, by decide⟩
  unfold settled
  decide

/-- A counter at 0x200010 that holds v, with x1 its address and x2 a value. -/
def counting (v : Byte) (x : Word) : State :=
  { withX [(1, 0x200010), (2, x)] with mod := { live.mod with mem := [(0x200010, v)] } }

/-- The same where the counter is at its greatest value, and where the home's waiter list is full. -/
def atTop : State := { withX [(1, 0x200010), (2, 1)] with mod := { live.mod with mem := (List.range 8).map fun i => (0x200010 + i, 0xFF) } }
def crowded : State := { counting 3 5 with mod := { (counting 3 5).mod with waiters := [⟨0, 0, 0, 0x200018, 1, .controller 0 0⟩] } }
/-- A continuation descriptor with a reserved bit. -/
def badDesc : State := { counting 3 5 with core := { (counting 3 5).core with ua := { live.core.ua with w := live.core.ua.w.set 6 (BitVec.ofNat 256 (2 ^ 200)) } } }

theorem witness_MemoryCounters :
    (counting 3 5).part = some 0 ∧ Memory.wf (counting 3 5).mod.mem = true ∧ poisonedIn (counting 3 5).mod.poison 0x200010 8 = false ∧
    (counting 3 5).place accCounterAdd ((counting 3 5).xr 1) 8 = .ok ⟨0x200010, 2, 0⟩ ∧
    natOfBytes ((counting 3 5).mod.mem.read 0x200010 8) + ((counting 3 5).xr 2).toNat < 2 ^ 64 ∧
    Memory.wf atTop.mod.mem = true ∧ atTop.place accCounterAdd (atTop.xr 1) 8 = .ok ⟨0x200010, 2, 0⟩ ∧
    2 ^ 64 ≤ natOfBytes (atTop.mod.mem.read 0x200010 8) + (atTop.xr 2).toNat ∧
    (counting 3 5).place accCounterRead ((counting 3 5).xr 1) 8 = .ok ⟨0x200010, 2, 0⟩ ∧ contDescOk (counting 3 5).onController (counting 3 5).unit.w[(6 : Fin 64)] = true ∧
    ((counting 3 2).xr 2).toNat ≤ natOfBytes ((counting 3 2).mod.mem.read 0x200010 8) ∧
    natOfBytes ((counting 3 5).mod.mem.read 0x200010 8) < ((counting 3 5).xr 2).toNat ∧
    waitersAt (counting 3 5).mod 0 (homeStack 0x200010) 0 < ((counting 3 5).mod.parts[(0 : Fin 16)]).quota ∧
    (crowded.mod.parts[(0 : Fin 16)]).quota ≤ waitersAt crowded.mod 0 (homeStack 0x200010) 0 ∧
    badDesc.place accCounterRead (badDesc.xr 1) 8 = .ok ⟨0x200010, 2, 0⟩ ∧ contDescOk badDesc.onController badDesc.unit.w[(6 : Fin 64)] = false ∧
    canTrap badDesc :=
  ⟨by decide, by decide, by decide, rfl, by decide, by decide, rfl, by decide, rfl, by decide, by decide, by decide, by decide, by decide, rfl,
    by decide, canTrap_of _ (by decide)⟩

/-- A region over the first line, with its 8 bytes at 8 written. -/
def region : SpecRegion := ⟨0, 256, [0], [(8, 5)], []⟩

theorem witness_SpeculationRegions :
    let s := withX [(2, 256)]
    (s.xr 1).toNat % 128 = 0 ∧ (s.xr 2).toNat ≠ 0 ∧ (s.xr 2).toNat % 128 = 0 ∧ (s.xr 1).toNat + (s.xr 2).toNat ≤ s.spSize ∧ (s.xr 2).toNat ≤ 262144 ∧
    s.strand.spec = false ∧ s.strand.copyBack = none ∧ ((withX [(2, 200)]).xr 2).toNat % 128 ≠ 0 ∧ canTrap (withX [(2, 200)]) ∧
    262144 < ((withX [(2, 262272)]).xr 2).toNat ∧ ((withX [(2, 262272)]).xr 2).toNat % 128 = 0 ∧
    ((withX [(2, 262272)]).xr 1).toNat + ((withX [(2, 262272)]).xr 2).toNat ≤ (withX [(2, 262272)]).spSize ∧ canTrap (withX [(2, 262272)]) := by
  refine ⟨by decide, by decide, by decide, by decide, by decide, by decide, by decide, by decide, canTrap_of _ (by decide), by decide, by decide,
    by decide, canTrap_of _ (by decide)⟩

theorem witness_SpeculationCommit :
    let s := strandWith fun f => { f with spec := true, region := some region }
    s.strand.region = some region ∧ Memory.wf region.data = true ∧ Memory.wf s.spMem = true ∧ (addrM s 1 16).toNat % 8 = 0 ∧
    (addrM s 1 16).toNat + 8 ≤ s.spSize ∧ s.couples 16 8 true = false ∧ s.couples 16 8 false = false ∧ region.covers (16 / 128) = true ∧
    s.spPoison = [] ∧ region.poison = [] ∧ live.strand.region = none := by decide

/-- The X strand before a body of one group that is a `NOP`, with a nest of bound b in w2. -/
def nesting (b : Nat) : State :=
  { live with
    who := .x
    core := { live.core with istore := [(7, 0x80)], ux := { live.core.ux with w := live.core.ux.w.set 2 (BitVec.ofNat 256 b) } }
    grp := { live.grp with npc := 4 } }

theorem witness_LoopNests :
    nestDescOk ((nesting 0).nestDesc 2) 1 0 = true ∧ (nesting 0).fetchBody 1 4 = .ok [[0x80000000]] ∧ nestTrips ((nesting 0).nestDesc 2) = 0 ∧
    nestDescOk ((nesting 3).nestDesc 2) 1 1 = true ∧ (nesting 3).fetchBody 1 4 = .ok [[0x80000000]] ∧ nestTrips ((nesting 3).nestDesc 2) ≠ 0 ∧
    nestDescOk ((nesting (2 ^ 134)).nestDesc 2) 1 0 = false ∧ canTrap (nesting (2 ^ 134)) :=
  ⟨by decide, rfl, by decide, by decide, rfl, by decide, by decide, canTrap_of _ (by decide)⟩

/-- Template 4 holds an `MZERO`; its queue has room, or is full. -/
def issueable : State := coreWith fun k => { k with ua := { k.ua with w := k.ua.w.set 4 0x80 } }
def fullQueue : State :=
  { issueable with core := { issueable.core with queue := live.core.queue.set 0 { Queue.empty with waiting := List.replicate 16 (cmd 0x80 .a 0) } } }

theorem witness_WideIssue :
    issueable.strand.results = [] ∧ issueable.strand.replays = [] ∧ issueable.grp.patches = [] ∧
    Room issueable (formImage issueable.unit 4 []) ∧ ¬Room fullQueue (formImage fullQueue.unit 4 []) ∧ fullQueue.strand.results = [] ∧
    (∃ img, wideOf issueable (.wpatch 4 1 2) = some (4, img, 4 * 2) ∧ Room issueable img) ∧
    (∃ img r, wideOf issueable (.pw 4 9 77) = some (4, img, r) ∧ Room issueable img) ∧ (4 : Fin 64).val + 1 < 64 := by
  unfold Room
  exact ⟨by decide, by decide, by decide, by decide, by decide, by decide, ⟨_, rfl, by decide⟩, ⟨_, _, rfl, by decide⟩, by decide⟩

/-- A ring of two slots over tiles 0 and 1 whose head slot is defined, with the tile as given. -/
def ringed (t : Word) : State := coreWith fun k => { k with tile := k.tile.set 0 t, ring := k.ring.set 0 ⟨0x80000100, []⟩ }
def fullTile : Word := 0xC000000000000000
def emptyTile : Word := 0x4000000000000000
def claimedTile : Word := 0x6000000000000000
/-- A request for a dormant context. -/
def asking : State := coreWith fun k => { k with starts := [⟨16, 1, 2, 3⟩] }

theorem witness_RingsAndTiles :
    let w := ((ringed fullTile).core.ring[(0 : Fin 8)]).word
    ringD w = true ∧ ringFirst w + ringHead w = 0 ∧ tileD fullTile = true ∧ tileF fullTile = true ∧ tileC fullTile = false ∧
    (ringed fullTile).core.tile[(0 : Fin 64)] = fullTile ∧ tileD emptyTile = true ∧ tileF emptyTile = false ∧ tileC claimedTile = true ∧
    tileD (live.core.tile[(0 : Fin 64)]) = false ∧ ringD (live.core.ring[(0 : Fin 8)]).word = false ∧ canTrap live ∧ tileC live.core.tile[(3 : Fin 64)] = false ∧
    ((withX [(1, fullTile)]).xr 1).toNat / 2 ^ 47 % 2 ^ 15 = 0 ∧ ((withX [(1, fullTile)]).xr 1).toNat / 2 ^ 22 % 2 ^ 10 = 0 ∧
    ((withX [(1, fullTile)]).xr 1).toNat % 128 = 0 ∧ (∀ j : Fin 64, j ≠ 3 → tileD (withX [(1, fullTile)]).core.tile[j] = true → False) ∧
    ((withX [(1, 5)]).xr 1).toNat % 128 ≠ 0 ∧ canTrap (withX [(1, 5)]) :=
  ⟨by decide, by decide, by decide, by decide, by decide, by decide, by decide, by decide, by decide, by decide, by decide, canTrap_live, by decide,
    by decide, by decide, by decide, by decide, by decide, canTrap_of _ (by decide)⟩

theorem witness_DormantContextStart :
    asking.core.starts = [⟨16, 1, 2, 3⟩] ∧ asking.core.halt = none ∧ asking.core.task = some task ∧ task.readyAt ≤ asking.cycle ∧ (1 : Fin 5) ≠ 0 ∧
    (asking.core.strand (.t 1)).run = .idle ∧ (∀ e : Fin 5, e ≠ 0 → e < 1 → (asking.core.strand (.t e)).run ≠ .idle) := by decide

/-- A frozen queue whose waiting command is faulted. -/
def frozenQueue : State :=
  coreWith fun k => { k with queue := k.queue.set 1 { Queue.empty with waiting := [{ cmd 0x1000 .a 3 with fault := some (mkFault 0x07 0) }], frozen := true } }

/-- A record of BF16, one dimension of 8 elements in tiles of 8, at address 0x1000. -/
def tensorBytes : List Byte := recordOf 128 [(1, 0x10), (8, 1), (11, 0x88), (16, 8), (88, 8)]
def withRecord : State :=
  { live with mod := { live.mod with mem := [(1, 0x10), (8, 1), (11, 0x88), (16, 8), (88, 8)] } }

theorem witness_EngineControl :
    live.who ≠ .c ∧ (frozenQueue.core.queue[(1 : Fin 8)]).frozen = true ∧
    (frozenQueue.core.queue[(1 : Fin 8)]).oldestFault = some { cmd 0x1000 .a 3 with fault := some (mkFault 0x07 0) } ∧
    (live.core.queue[(1 : Fin 8)]).frozen = false ∧ (live.xr 1).toNat % 128 = 0 ∧ live.strand.posted = [] ∧
    withRecord.place accRead (withRecord.xr 1) 128 = .ok ⟨0, 0, 0⟩ ∧ poisonedIn withRecord.mod.poison 0 128 = false ∧
    (parseRec (physRead withRecord.mod 0 128)).ok = true :=
  ⟨by decide, by decide, by decide, by decide, by decide, by decide, rfl, by decide, by decide⟩

end Sys2Proof.Tests
namespace Sys2Proof.Tests

open Sys2Proof Sys2Proof.Machine Sys2Proof.Claims

/-! ## Witnesses: vectors, attention and key-value forms, strand events -/

/-- The value of an answer that is one. -/
def okVal {ε α : Type} [Inhabited α] (x : Except ε α) : α :=
  match x with
  | .ok v => v
  | .error _ => default

def isOk {ε α : Type} (x : Except ε α) : Bool :=
  match x with
  | .ok _ => true
  | .error _ => false

theorem eq_okVal {ε α : Type} [Inhabited α] {x : Except ε α} (h : isOk x = true) : x = .ok (okVal x) := by
  cases x with
  | ok v => rfl
  | error e => cases h

theorem witness_VectorShapes :
    ElemType.bf16.widening = true ∧ ElemType.i8.dot = true ∧ (ElemType.i8.width ≤ ElemType.f32.width ∧ ElemType.f32.width ≤ 4 * ElemType.i8.width) ∧
    (ElemType.bf16.width ≤ ElemType.f32.width ∧ ElemType.f32.width ≤ 4 * ElemType.bf16.width) ∧ ElemType.n4.index = true := by decide

theorem witness_VectorReductions :
    ElemType.i16.arith = true ∧ ElemType.i16.isInt = true ∧ ElemType.f32.arith = true ∧ ElemType.f32.isInt = false ∧ (0 : Fin 4).val < 3 ∧
    (2 : Fin 4).val < 3 ∧ (2 : Fin 4).val ≠ 0 := by decide

theorem witness_MaskStack :
    live.strand.masks.length < 16 ∧ (strandWith fun f => { f with masks := [1, 3] }).strand.masks = [1, 3] ∧
    16 ≤ (strandWith fun f => { f with masks := List.replicate 16 1 }).strand.masks.length ∧
    canTrap (strandWith fun f => { f with masks := List.replicate 16 1 }) ∧ live.strand.masks = [] ∧ canTrap live :=
  ⟨by decide, by decide, by decide, canTrap_of _ (by decide), by decide, canTrap_live⟩

theorem witness_VectorLoadsAndStores :
    Memory.wf live.spMem = true ∧ live.strand.region = none ∧ (live.xr 1 + live.xr 2).toNat % 64 = 0 ∧ (live.xr 1 + live.xr 2).toNat + 512 ≤ live.spSize ∧
    live.couples 0 512 false = false ∧ live.couples 0 512 true = false ∧ poisonedIn live.spPoison 0 512 = false ∧
    ((withX [(1, 8)]).xr 1 + (withX [(1, 8)]).xr 2).toNat % 64 ≠ 0 ∧ canTrap (withX [(1, 8)]) ∧
    ((withX [(1, 524224)]).xr 1 + (withX [(1, 524224)]).xr 2).toNat % 64 = 0 ∧
    (withX [(1, 524224)]).spSize < ((withX [(1, 524224)]).xr 1 + (withX [(1, 524224)]).xr 2).toNat + 512 ∧ canTrap (withX [(1, 524224)]) :=
  ⟨by decide, by decide, by decide, by decide, by decide, by decide, by decide, by decide, canTrap_of _ (by decide), by decide, by decide,
    canTrap_of _ (by decide)⟩

/-! ### A key-value store -/

/-- A pool of one sequence, four records and two frames of HBM. -/
def poolRecord : List Byte := recordOf 128 [(1, 0x10), (8, 1), (17, 0x20), (24, 4), (33, 0x80), (40, 2), (58, 0x20)]
def pool : Pool := ⟨0, poolRecord, 0, [], [], [], [], [], [], [], []⟩

/-- Its sequence: one page, one layer, one head of 64 channels, a window of 64, with no token; at 0x1000, its block table at 0x4000. -/
def withPool : State :=
  { live with mod := { live.mod with
    parts := live.mod.parts.set 0 { part with pool := some pool }
    mem := [(0x1001, 0x40), (0x1014, 1), (0x1018, 1), (0x101E, 64), (0x1024, 1)] } }

/-- The handle of its sequence, to append one row: advance the length. -/
def appending (a b : Word) : State :=
  { withPool with core := { withPool.core with a := { withPool.core.a with x := (withPool.core.a.x.set 1 a).set 2 b } } }

theorem witness_AttentionStrandForms :
    live.strand.region = none ∧ Memory.wf live.spMem = true ∧ Memory.wf (live.core.dle[(1 : Fin 2)]).record = true ∧
    Memory.wf (live.core.dle[(1 : Fin 2)]).ram = true ∧ (live.xr 1).toNat / 2 ^ 56 = 0 ∧ (live.xr 1).toNat / 2 ^ 8 % 2 ^ 24 = 0 ∧
    ((live.xr 1).toNat % 8 < 4 ∧ (live.xr 1).toNat % 8 ≠ 2 ∧ (live.xr 1).toNat % 8 ≠ 3) ∧
    ((withX [(1, 0x12)]).xr 1).toNat % 8 = 2 ∧ ((withX [(1, 0x12)]).xr 1).toNat / 8 % 32 ≤ 6 ∧
    (live.xr 1).toNat % 64 = 0 ∧ (live.xr 1).toNat + (live.core.dle[(1 : Fin 2)]).image.length ≤ live.spSize ∧ live.dleBusy 1 = false ∧
    live.couples 0 (live.core.dle[(1 : Fin 2)]).image.length true = false := by decide

/-- An image of a slot of one row, at 0 of the scratchpad. -/
def imaged : State := coreWith fun k => { k with scratch := [(3, 0x80)] }

theorem witness_AttentionImageLoad :
    Memory.wf imaged.spMem = true ∧ (imaged.xr 1).toNat % 64 = 0 ∧ (imaged.xr 1).toNat + 64 ≤ imaged.spSize ∧
    (imaged.xr 1).toNat + imageSize (natOfBytes (spBytes imaged 0 4)) ≤ imaged.spSize ∧ imaged.dleBusy 1 = false ∧
    imaged.couples 0 (imageSize (natOfBytes (spBytes imaged 0 4))) false = false ∧
    poisonedIn imaged.spPoison 0 (imageSize (natOfBytes (spBytes imaged 0 4))) = false ∧
    imageOk (spBytes imaged 0 (imageSize (natOfBytes (spBytes imaged 0 4)))) = true := by decide

/-- The same with an image of that shape in the slot. -/
def reloaded : State := { imaged with core := { imaged.core with dle := imaged.core.dle.set 1 ⟨[(3, 0x80)], []⟩ } }

theorem witness_AttentionImageMerge :
    natOfBytes ((reloaded.core.dle[(1 : Fin 2)]).image.take 4) = natOfBytes (spBytes reloaded 0 4) ∧ Memory.wf (reloaded.core.dle[(1 : Fin 2)]).record = true := by
  decide

theorem witness_SequenceBind :
    ∃ q t, (appending 0 0).xr 1 = 0 ∧ (appending 0 0).runKv (kvSeq (appending 0 0).kvCtx 0) = .ok (q, t) :=
  ⟨_, _, by decide, eq_okVal (α := Seq × State) (by decide)⟩

/-- What `KeyValueStrandForms` asks of an append, of a put and of a clearing of bits, as tests. -/
def appendReady (s : State) : Bool :=
  let ctl := s.xr 1
  let src := (s.xr 2).toNat % 2 ^ 22
  match s.runKv (kvSeq s.kvCtx (ctlHandle ctl)) with
  | .error _ => false
  | .ok (q, t) =>
    decide (ctlLayer ctl < q.layers) && decide (ctlHead ctl < q.heads) && decide (src + 4 * ctlN ctl * q.d ≤ s.spSize) &&
    !s.spBad src (4 * ctlN ctl * q.d) && decide (src % 64 = 0) && decide ((s.xr 2).toNat < 2 ^ 22) &&
    decide (q.end_ + ctlN ctl ≤ 64 * q.pages) && (!ctl.getLsbD 63 || (!ctl.getLsbD 62 && decide (q.tent = 0))) &&
    isOk (t.runKv (kvAppendStep s.kvCtx ctl q (s.spRead src (4 * ctlN ctl * q.d))))

def putReady (s : State) : Bool :=
  let ctl := s.xr 1
  let src := (s.xr 2).toNat % 2 ^ 22
  let p0 := (s.xr 2).toNat / 2 ^ 32
  match s.runKv (kvSeq s.kvCtx (ctlHandle ctl)) with
  | .error _ => false
  | .ok (q, t) =>
    decide (src % 64 = 0) && decide ((s.xr 2).toNat / 2 ^ 22 % 2 ^ 10 = 0) && !ctl.getLsbD 63 && !ctl.getLsbD 62 &&
    decide (p0 + ctlN ctl ≤ q.end_) && isOk (t.runKv (kvPutStep s.kvCtx ctl p0 q (s.spRead src (4 * ctlN ctl * q.d))))

def invReady (s : State) : Bool :=
  let ctl := s.xr 1
  match s.runKv (kvSeq s.kvCtx (ctlHandle ctl)) with
  | .error _ => false
  | .ok (q, _) => decide (ctl.toNat / 2 ^ 32 % 64 = 0) && isOk (s.runKv (kvInvStep s.kvCtx q (ctl.toNat / 2 ^ 32) (s.xr 2).toNat))

/-- A sequence whose length is one, its page in format 3 (the smallest) in records 1 and 2. -/
def oneToken (a b : Word) : State :=
  { appending a b with mod := { (appending a b).mod with
    mem := [(0x1001, 0x40), (0x1008, 1), (0x1014, 1), (0x1018, 1), (0x101E, 64), (0x1024, 1), (0x2428, 0x13), (0x242A, 1), (0x2824, 1),
      (0x2828, 0x93), (0x282A, 1), (0x4000, 1), (0x4004, 2)] } }

theorem witness_KeyValueAppend : appendReady (oneToken 0x8000000000000000 0) = true := by decide +kernel

theorem witness_KeyValuePut : putReady (oneToken 0 0) = true := by decide +kernel

theorem witness_KeyValueClear : invReady (oneToken 0 1) = true := by decide +kernel

theorem witness_KeyValueTraps :
    2 ^ 22 ≤ ((withX [(2, 0x400000)]).xr 2).toNat ∧ canTrap (withX [(2, 0x400000)]) ∧ ((withX [(2, 8)]).xr 2).toNat < 2 ^ 22 ∧
    ((withX [(2, 8)]).xr 2).toNat % 64 ≠ 0 ∧ canTrap (withX [(2, 8)]) :=
  ⟨by decide, canTrap_of _ (by decide), by decide, by decide, canTrap_of _ (by decide)⟩

/-- A core of the partition with a store not performed. -/
def storing : State := strandWith fun f => { f with posted := [.store 64 [1]] }

theorem witness_PrivilegedForms :
    live.part = some 0 ∧ live.storesDone 0 = true ∧ storing.storesDone 0 = false ∧ live.strand.posted = [] ∧
    live.place accWrite (live.xr 1) 128 = .ok ⟨0, 0, 0⟩ ∧ Memory.wf live.mod.mem = true ∧ (live.xr 1).toNat % 128 = 0 ∧
    (live.xr 1).toNat + 128 ≤ live.spSize ∧ live.couples 0 128 true = false ∧ live.strand.region = none ∧ Memory.wf live.spMem = true :=
  ⟨by decide, by decide +kernel, by decide +kernel, by decide, rfl, by decide, by decide, by decide, by decide, by decide, by decide⟩

/-! ### Events of a strand -/

/-- A cause that a response carries. -/
def overflow : Cause := ⟨0x19, 0x200010, 1, 0, false⟩

/-- A queue whose head entry waits for its data, which are due. -/
def awaitingData : State := queued [⟨7, 0, true, false, 0, 0⟩]

/-- A strand whose group issues `MZERO` to a full queue whose head waits for a counter. -/
def stalled : State :=
  let k := fullQueue.core
  { fullQueue with core := { k with
      istore := [(0, 0x03), (2, 0x20), (3, 0xB0)]
      a := { k.a with stall := 4194304 }
      queue := live.core.queue.set 0 { Queue.empty with waiting := List.replicate 16 (cmd (BitVec.ofNat 512 (0x80 + 0x405 * 2 ^ 16 + 9 * 2 ^ 32)) .a 0) } } }

theorem witness_StrandEvents :
    (strandWith fun f => { f with results := [⟨.scalar 5 7, 1, 0, true, none, 0, false, false⟩] }).strand.results =
      [⟨.scalar 5 7, 1, live.cycle, true, none, 0, false, false⟩] ∧
    (strandWith fun f => { f with results := [⟨.scalar 5 7, 1, 0, false, none, 0, true, false⟩] }).strand.results =
      [⟨.scalar 5 7, 1, live.cycle, false, none, 0, true, false⟩] ∧
    (strandWith fun f => { f with hold := some ⟨0, 0, .scalar 5 7, 1, none⟩ }).strand.hold = some ⟨0, 0, .scalar 5 7, 1, none⟩ ∧
    (strandWith fun f => { f with hold := some ⟨0, 0, .flagsOnly, 0, some overflow⟩ }).strand.hold = some ⟨0, 0, .flagsOnly, 0, some overflow⟩ ∧
    canTrap (strandWith fun f => { f with hold := some ⟨0, 0, .flagsOnly, 0, some overflow⟩ }) ∧
    (∃ es e, awaitingData.filling = some (4, es, e) ∧ e.poison = false) ∧
    (strandWith fun f => { f with copyBack := some 0 }).strand.copyBack = some 0 ∧
    (strandWith fun f => { f with poisons := [(64, 8)] }).strand.poisons = [(64, 8)] ∧ canTrapOn (strandWith fun f => { f with poisons := [(64, 8)] }) ∧
    (strandWith fun f => { f with reports := [(1, 5)] }).strand.reports = [(1, 5)] ∧ canTrap (strandWith fun f => { f with reports := [(1, 5)] }) ∧
    (strandWith fun f => { f with reports := [(1, 5)] }).strand.run ≠ .ended :=
  ⟨by decide, by decide, by decide, by decide, canTrap_of _ (by decide), ⟨_, _, rfl, by decide⟩, by decide, by decide, canTrap_of _ (by decide),
    by decide, canTrap_of _ (by decide), by decide⟩

theorem witness_IssueStall :
    2 ^ 22 ≤ stalled.strand.stall ∧ stalled.stalledIssue = some (4, 0) ∧ (∃ c, stalled.headWait 0 = .counter c) ∧ canTrap stalled :=
  ⟨by decide, by decide +kernel, ⟨_, rfl⟩, canTrap_of _ (by decide)⟩

end Sys2Proof.Tests
namespace Sys2Proof.Tests

open Sys2Proof Sys2Proof.Machine Sys2Proof.Claims

/-! ## Witnesses: engines

A test on a state that says that the head of a queue starts and that its effect goes through, and that this is what `Performs` and `Does` ask. -/

/-- The state and the command in which an engine takes up its head. -/
def takenUp (s : State) (q : Fin 8) (c : Command) : Option (State × Command) :=
  match (s.putQueue false q ((s.core.queue[q]).remove c.seq)).headClaims q c with
  | .error _ => none
  | .ok (u, c0) =>
    let t : State := { u with core := { u.core with
      copies := if q = 1 then u.core.copies + 1 else u.core.copies
      opaLast := if q = 0 ∨ q = 2 then some q.val else u.core.opaLast } }
    some (t, { c0 with number := if q = 1 then t.core.copies % 512 else 0 })

def effectEnds (s : State) (q : Fin 8) (e op : Nat) (sel : Command → Bool) (f : CommandEffect) : Bool :=
  match s.headState q with
  | .starts c => decide (engineOfImage c.image = e) && decide (opOf c.image = op) && sel c && (match takenUp s q c with
    | none => false
    | some (t, c1) => match f t c1 with
      | .ok (_, _, some _) => true
      | _ => false)
  | _ => false

theorem effectEnds_spec {s : State} {q : Fin 8} {e op : Nat} {sel : Command → Bool} {f : CommandEffect} (h : effectEnds s q e op sel f = true) :
    ∃ c t c1, HeadStarts s q e op c ∧ sel c = true ∧ Taken s q c t c1 ∧ reachesEnd f t c1 := by
  unfold effectEnds at h
  split at h <;> try contradiction
  rename_i c hc
  simp only [Bool.and_eq_true, decide_eq_true_eq] at h
  obtain ⟨⟨⟨he, ho⟩, hs⟩, h⟩ := h
  split at h <;> try contradiction
  rename_i t c1 ht
  split at h <;> try contradiction
  rename_i w c2 dur hf
  refine ⟨c, t, c1, ⟨hc, he, ho⟩, hs, ?_, w, c2, dur, hf⟩
  unfold takenUp at ht
  split at ht <;> try contradiction
  rename_i u0 c0 hq
  simp only [Option.some.injEq, Prod.mk.injEq] at ht
  exact ⟨u0, c0, hq, ht.1.symm, by rw [← ht.2, ← ht.1]⟩

/-- An image: engine, op code, flags, and halfwords. -/
def image (e op flags : Nat) (hs : List (Nat × Nat)) : Image :=
  BitVec.ofNat 512 (flags + op * 64 + e * 4096 + (hs.map fun h => h.2 * 2 ^ (16 * h.1)).sum)

/-- A state with one command in a queue. -/
def engineState (s : State) (q : Fin 8) (c : Command) : State :=
  { s with core := { s.core with queue := s.core.queue.set q { Queue.empty with waiting := [c] } } }

/-- A command of A. -/
def simple (img : Image) : Command := cmd img .a 0

/-- A command past its last block: what is left of it is its signal. -/
def pastBlocks (img : Image) : Command := { simple img with cursor := { Cursor.start with block := 1 } }

def anyCommand (_ : Command) : Bool := true

/-- `live` with a task that has all accumulator planes. -/
def planes : State := { live with core := { live.core with task := some { task with header := { header with acc := 0x200000 } } } }

/-! ### Matrix, copy and transform -/

theorem witness_mma : effectEnds (engineState planes 0 (pastBlocks (image 0 0 0 []))) 0 0 0 anyCommand mmaEffect = true := by decide +kernel
theorem witness_mdrain :
    effectEnds (engineState planes 0 (pastBlocks (image 0 1 0 [(5, 0x100), (8, 256)]))) 0 0 1 anyCommand (overRange drainedBlock) = true := by decide +kernel
theorem witness_mload :
    effectEnds (engineState planes 0 (pastBlocks (image 0 3 0 [(5, 0x100), (8, 256)]))) 0 0 3 anyCommand (overRange loadedBlock) = true := by decide +kernel

/-- A copy of n and m elements, with byte strides of 1 on both sides in the first dimension. -/
def copying (img : Image) (dims : List Nat) : Command :=
  { simple img with nest := BitVec.ofNat 512 ((dims.zipIdx.map fun x => x.1 * 2 ^ (20 * x.2) + (if x.2 = 0 then 2 ^ 128 + 2 ^ 320 else 0)).sum +
    (dims.length - 1) * 2 ^ 120) }

/-- Four bytes from 0 of the scratchpad to 64. -/
theorem witness_cpy :
    effectEnds (engineState live 1 (copying (image 1 0 0 [(8, 64), (12, 0x2200), (13, 0x1100)]) [4])) 1 1 0 anyCommand copyEffect = true := by decide +kernel
theorem witness_cpyT :
    effectEnds (engineState live 1 (copying (image 1 1 0 [(8, 64), (12, 0x2200), (13, 0x1100)]) [2, 2])) 1 1 1 anyCommand copyEffect = true := by decide +kernel
theorem witness_cpyG :
    effectEnds (engineState live 1 (copying (image 1 2 0 [(8, 64), (12, 0x0200), (13, 0x1100), (16, 128)]) [2])) 1 1 2 anyCommand copyEffect = true := by
  decide +kernel
theorem witness_cpyPad :
    effectEnds (engineState live 1 (copying (image 1 3 0 [(8, 64), (12, 0x2200), (13, 0x1100), (20, 2)]) [4])) 1 1 3 anyCommand copyEffect = true := by
  decide +kernel

/-- The addresses that four entries of a table give. -/
theorem witness_agen :
    effectEnds (engineState live 1 (copying (image 1 4 0 [(8, 64), (12, 0x0200), (13, 0x1000), (16, 128)]) [4])) 1 1 4 anyCommand copyEffect = true := by
  decide +kernel

/-- `MZERO` of the block that a task of one plane has. -/
def zeroing : State :=
  engineState { live with core := { live.core with task := some { task with header := { header with acc := 0x10000 } } } } 0 (simple (image 0 2 0 []))

theorem witness_MatrixZero :
    HeadStarts zeroing 0 0 2 (simple (image 0 2 0 [])) ∧ flagOf (image 0 2 0 []) 1 = false ∧ (simple (image 0 2 0 [])).cursor.block ≤ rangeUb (image 0 2 0 []) ∧
    Memory.wf zeroing.core.acc = true ∧ zeroing.ctl.die = zeroing.core.die ∧ zeroing.ctl.number = zeroing.core.cluster ∧
    tilePlane (image 0 2 0 []) + planeWidth (image 0 2 0 []) * tileBlocks (image 0 2 0 []) ≤ zeroing.core.accPlanes ∧
    rangeUb (image 0 2 0 []) + rangeNb (image 0 2 0 []) ≤ tileBlocks (image 0 2 0 []) ∧ zeroing.core.accPlanes ≤ 32 := by
  unfold HeadStarts
  decide +kernel

/-! ### Tokens and retirement -/

/-- T waits for a token, and one is at the head of its queue. -/
def tokenComes : State :=
  let s := engineState { tokens with core := { tokens.core with t := { tokens.core.t with run := .waiting } } } 3 (simple (image 3 0 0 [(4, 2)]))
  { s with who := .a }

theorem witness_TokenStart : HeadStarts tokenComes 3 3 0 (simple (image 3 0 0 [(4, 2)])) := by
  unfold HeadStarts
  decide +kernel

/-- A copy whose time has come and which holds tile 0 as destination and tile 1 as source; it signals counter 5. -/
def ending (signal : Nat) : Command :=
  { simple (image 1 0 0 [(1, signal)]) with due := 1, claims := [⟨0, true, false⟩, ⟨1, false, false⟩] }
def retires (c : Command) : State :=
  { coreWith fun k => { k with k := k.k.set 5 ⟨7, ⟨true, 6, 7⟩, none, []⟩, queue := k.queue.set 1 { Queue.empty with started := [c] } } with cycle := 1 }

theorem retires_whole (c : Command) : sharedWhole (retires c) := fun g h => by
  have e : (retires c).sharedGroup = none := by rfl
  rw [e] at h
  cases h

theorem witness_CommandRetirement :
    (retires (ending 0)).who ≠ .c ∧ (retires (ending 0)).retiring = some (1, ending 0) ∧ (ending 0).cursor.signal = false ∧ (1 : Fin 8) ≠ 5 ∧
    sharedWhole (retires (ending 0)) ∧ (∀ d, d ∈ (ending 0).claims → ∀ e, e ∈ (ending 0).claims → d.tile = e.tile → d = e) ∧
    sigEn (ending 0).image = false :=
  ⟨by decide, by decide +kernel, by decide, by decide, retires_whole _, by decide, by decide +kernel⟩

/-- A signal of 1 to counter 5, which stands at its ceiling. -/
def refused : Command := { ending 0x200 with image := image 1 0 0 [(1, 0x200), (3, 0x1401)] }

theorem witness_CommandRetirementRefused :
    (retires refused).retiring = some (1, refused) ∧ sharedWhole (retires refused) ∧ sigEn refused.image = true ∧
    (retires refused).ceiling false (sigK refused.image) < ((retires refused).counter false (sigK refused.image)).count.toNat + sigInc refused.image ∧
    (retires refused).core.endsByCwait = false :=
  ⟨by decide +kernel, retires_whole _, by decide +kernel, by decide +kernel, by decide +kernel⟩

end Sys2Proof.Tests
namespace Sys2Proof.Tests

open Sys2Proof Sys2Proof.Machine Sys2Proof.Claims

/-! ## Witnesses: attention, tile cache, key-value store and fabric commands -/

/-- A command of sequence 0. -/
def attending (img : Image) : Command := { simple img with handle := some 0 }
def onPlanes : State := { withPool with core := planes.core }

theorem witness_attp : effectEnds (engineState onPlanes 2 (attending (image 2 0 0 [(15, 0x3F80)]))) 2 2 0 anyCommand attEffect = true := by decide +kernel
theorem witness_attd : effectEnds (engineState withPool 7 (attending (image 2 1 1 [(15, 0x3F80)]))) 7 2 1 anyCommand attEffect = true := by decide +kernel
theorem witness_ssel :
    effectEnds (engineState withPool 7 (attending (image 2 2 0 [(15, 0x3F80), (28, 1)]))) 7 2 2 anyCommand sselEffect = true := by decide +kernel
theorem witness_attgDle :
    effectEnds (engineState withPool 7 (attending (image 2 3 1 [(15, 0x3F80), (22, 64)]))) 7 2 3 anyCommand attEffect = true := by decide +kernel
theorem witness_attgOpa :
    effectEnds (engineState onPlanes 2 (attending (image 2 3 8 [(15, 0x3F80), (22, 64)]))) 2 2 3 anyCommand attEffect = true := by decide +kernel

/-- A command of a tensor whose record it has read. -/
def onTensor (bs : List Byte) (img : Image) : Command := { simple img with records := [bs] }
/-- A tensor of 8 by 8 elements of two bytes, one tile. -/
def planeBytes : List Byte := recordOf 128 [(1, 0x10), (8, 1), (11, 0x98), (16, 8), (20, 8), (40, 2), (48, 16), (88, 8), (90, 8)]
def tensorState (op flags : Nat) (hs : List (Nat × Nat)) (bs : List Byte) : State := engineState live 4 (onTensor bs (image 4 op flags hs))

theorem witness_tcLook : effectEnds (tensorState 0 0 [] tensorBytes) 4 4 0 anyCommand (tcEffect true lookEffect) = true := by decide +kernel
theorem witness_tcPf : effectEnds (tensorState 1 0 [] tensorBytes) 4 4 1 anyCommand (tcEffect true prefetchEffect) = true := by decide +kernel
theorem witness_tcHalo : effectEnds (tensorState 2 0 [(15, 0x40)] planeBytes) 4 4 2 anyCommand (tcEffect true haloEffect) = true := by decide +kernel
theorem witness_tcInv : effectEnds (tensorState 3 0 [] tensorBytes) 4 4 3 anyCommand (tcEffect false invalidateEffect) = true := by decide +kernel
theorem witness_tcWb : effectEnds (tensorState 4 0 [] tensorBytes) 4 4 4 anyCommand (tcEffect false writeBackEffect) = true := by decide +kernel
theorem witness_tcPin :
    effectEnds (tensorState 5 0 [] tensorBytes) 4 4 5 (fun c => !flagOf c.image 0) (tcEffect false pinEffect) = true := by decide +kernel
theorem witness_tcUnpin :
    effectEnds (tensorState 5 1 [] tensorBytes) 4 4 5 (fun c => flagOf c.image 0) (tcEffect false unpinEffect) = true := by decide +kernel

/-- A state with a partition and memory. -/
def stateOf (p : Partition) (m : Memory) : State := { live with mod := { live.mod with parts := live.mod.parts.set 0 p, mem := m } }

/-- A pool of two sequences, of which the first is live; the image of another stands at 0x3000. -/
def storeReady : State :=
  stateOf { part with pool := some { pool with record := poolRecord.set 8 2 } }
    [(0x1001, 0x40), (0x1014, 1), (0x1018, 1), (0x101E, 64), (0x1024, 1), (0x3009, 0x50), (0x3014, 1), (0x3018, 1), (0x301E, 64)]
/-- A command of the privileged level. -/
def stored (op flags : Nat) (hs : List (Nat × Nat)) : Command := { simple (image 5 op flags hs) with pl := true }
def store (op flags : Nat) (hs : List (Nat × Nat)) : State := engineState storeReady 5 (stored op flags hs)
def flagClear (c : Command) : Bool := !flagOf c.image 0
def flagSet (c : Command) : Bool := flagOf c.image 0

/-- No pool, and the record of one at 0x4000. -/
def unregistered : State :=
  engineState (stateOf part (poolRecord.zipIdx.filterMap fun b => if b.1 = 0 then none else some (0x4000 + b.2, b.1))) 5 (stored 0 1 [(8, 0x4000)])

theorem witness_kvNew : effectEnds (store 0 0 [(8, 0x3000)]) 5 5 0 flagClear newEffect = true := by decide +kernel
theorem witness_kvNewPool : effectEnds unregistered 5 5 0 flagSet registerEffect = true := by decide +kernel
theorem witness_kvFork : effectEnds (store 1 0 [(8, 0x5000)]) 5 5 1 anyCommand (stepEffect forked) = true := by decide +kernel
theorem witness_kvFree : effectEnds (store 2 0 []) 5 5 2 anyCommand (stepEffect freed) = true := by decide +kernel
theorem witness_kvTrunc : effectEnds (store 3 0 []) 5 5 3 anyCommand (stepEffect truncated) = true := by decide +kernel
theorem witness_kvCommit : effectEnds (store 4 0 []) 5 5 4 anyCommand (stepEffect committed) = true := by decide +kernel
theorem witness_kvClass : effectEnds (store 5 0 [(6, 2)]) 5 5 5 anyCommand (stepEffect classed) = true := by decide +kernel
theorem witness_kvPromote : effectEnds (store 6 0 [(9, 0x20)]) 5 5 6 anyCommand promoteEffect = true := by decide +kernel
theorem witness_kvDemote :
    effectEnds (store 7 0 []) 5 5 7 anyCommand (rangeEffect demotedIndex) = true := by decide +kernel
/-- An empty sequence is exported to 0x8000 by a partition that has a binding. -/
theorem witness_kvExport :
    effectEnds (engineState (stateOf { part with pool := some pool, binding := [1] }
      [(0x1001, 0x40), (0x1014, 1), (0x1018, 1), (0x101E, 64), (0x1024, 1)]) 5 (stored 8 0 [(8, 0x8000), (14, 8)])) 5 5 8 anyCommand exportEffect = true := by
  decide +kernel
theorem witness_kvLend : effectEnds (store 10 0 []) 5 5 10 flagClear lendEffect = true := by decide +kernel
theorem witness_kvLendRecall : effectEnds (store 10 1 []) 5 5 10 flagSet recallEffect = true := by decide +kernel
theorem witness_kvStat : effectEnds (store 11 0 [(13, 0x8000)]) 5 5 11 anyCommand statEffect = true := by decide +kernel
theorem witness_kvSwref : effectEnds (store 12 0 []) 5 5 12 anyCommand (rangeEffect refreshedIndex) = true := by decide +kernel

/-- Lane groups of both directions of x; descriptors of a collective at 0x1000 and of a sampling at 0x1040, their group of both modules at
0x3000. -/
def networked : State :=
  stateOf { part with desc := desc.set 72 0x11 }
    [(0x1011, 0x30), (0x1018, 1), (0x101D, 3), (0x1051, 0x30), (0x1058, 1), (0x105D, 1), (0x1060, 1), (0x3000, 2), (0x3044, 1)]
def net (op flags : Nat) (hs : List (Nat × Nat)) : State := engineState networked 6 (simple (image 6 op flags hs))
def action (n : Nat) (c : Command) : Bool := hwBits c.image 0 0 2 = n

theorem witness_coll : effectEnds (net 0 0 [(4, 0x1000)]) 6 6 0 anyCommand (collEffect false) = true := by decide +kernel
theorem witness_collArgmaxn : effectEnds (net 1 0 [(4, 0x1040)]) 6 6 1 anyCommand (collEffect true) = true := by decide +kernel
theorem witness_fput : effectEnds (net 2 0 [(4, 0x1000), (8, 0x2000), (12, 1), (14, 8)]) 6 6 2 anyCommand putEffect = true := by decide +kernel
theorem witness_fget : effectEnds (net 3 0 [(4, 0x1000), (8, 0x2000), (12, 1), (14, 8)]) 6 6 3 anyCommand getEffect = true := by decide +kernel
theorem witness_fcadd : effectEnds (net 4 0 [(5, 0x20), (8, 1), (12, 1)]) 6 6 4 anyCommand addEffect = true := by decide +kernel
theorem witness_frouteRead : effectEnds (net 5 0 [(15, 0x8000)]) 6 6 5 (action 0) routeReadEffect = true := by decide +kernel
/-- The same with every Ethernet port of the module. -/
def onEthernet : State :=
  { networked with mod := { networked.mod with parts := networked.mod.parts.set 0 { part with desc := (desc.set 72 0x11).set 75 0xFF } } }
theorem witness_frouteAttest : effectEnds (engineState onEthernet 6 (simple (image 6 5 1 [(4, 0x4000)]))) 6 6 5 (action 1) routeAttestEffect = true := by decide +kernel
theorem witness_frouteRevoke : effectEnds (net 5 2 []) 6 6 5 (action 2) routeRevokeEffect = true := by decide +kernel

end Sys2Proof.Tests
namespace Sys2Proof.Tests

open Sys2Proof Sys2Proof.Machine Sys2Proof.Claims

/-! ## Witnesses: events of the key-value store and of the fabric, packets, lane groups -/

/-- The pool of `withPool`, changed. -/
def pooled (g : Pool → Pool) : State :=
  { withPool with mod := { withPool.mod with parts := live.mod.parts.set 0 { part with pool := some (g pool) } } }

def releasing : State := pooled fun p => { p with pending := [(1, 5)] }
def moving : Move := ⟨1, 1, 2, 0, 0, 0, 0, none, [], [], false⟩
def endsMove : State := pooled fun p => { p with moves := [moving] }
def loan (answered : Bool) : Loan := ⟨0, [], [], 1, 0, answered, some 0, 0⟩
def borrowing (answered : Bool) : State := pooled fun p => { p with borrowed := [loan answered] }
def farMove : Move := ⟨1, 2, 0, 0, 1, 0, 0, none, [], [], false⟩
def farMoves : State := pooled fun p => { p with moves := [farMove] }

theorem witness_KeyValueStoreEvents :
    releasing.freeable = some (0, 1, 5) ∧
    isOk (kvWrite (releasing.kvCtxOf 0) (pool.recAt 1) (List.replicate 1024 0) { releasing.mod with parts := withPool.mod.parts }) = true ∧
    (endsMove.poolWith fun _ p => p.endingMove endsMove.cycle) = some (0, moving) ∧ isOk (endsMove.runKv (kvEndMove (endsMove.kvCtxOf 0) moving)) = true ∧
    (borrowing true).expiredLoan = some (0, loan true) ∧ isOk ((borrowing true).runKv (kvInFrame ((borrowing true).kvCtxOf 0) (loan true))) = true ∧
    (borrowing false).returnable = some (0, loan false) ∧
    farMoves.overdueRead.isSome = true ∧ isOk (farMoves.runKv (kvPage (farMoves.kvCtxOf 0) 1)) = true := by decide +kernel

/-- An operation of the command of queue 6. -/
def waitsFor (o : FabricOp) : FabricOp :=
  { o with die := 0, cluster := 0, core := 0, part := 0, seq := 0, started := 0, ranks := [], reduced := [], bad := [], fb := false, lost := false, lanes := []
           cut := false }

/-- A collective of both modules on sums of 32-bit integers, of a command in queue 6. -/
def collective (met innet : Bool) (received : List (Nat × List Byte)) : FabricOp :=
  { waitsFor default with
    limit := 4, id := 7, hash := List.replicate 64 1, ranks := [0, 1], rank := 1, desc := 0 :: recordOf 64 [(17, 0x30), (24, 1), (29, 3)]
    expected := 2, received := received, met := met, innet := innet, lost := innet, network := true }
def join (rank : Nat) (trusted : Bool) : Join := ⟨0, 0, 7, List.replicate 64 1, rank, [3], trusted, 1⟩
def collState (o : FabricOp) (js : List Join) : State :=
  let s := { networked with core := { networked.core with queue := networked.core.queue.set 6 { Queue.empty with started := [simple (image 6 0 0 [])] } } }
  { s with mod := { s.mod with ops := [o], joins := js } }

theorem witness_Collectives :
    (collState (collective true false [(0, [1, 2, 3, 4]), (1, [1, 0, 0, 0])]) []).meeting = some (collective true false [(0, [1, 2, 3, 4]), (1, [1, 0, 0, 0])]) ∧
    (collState (collective false false []) [join 1 true, join 1 true]).meeting = some (collective false false []) ∧
    joinsClash [join 1 true, join 1 true] = true ∧
    (collState (collective false false []) [join 0 false, join 1 true]).meeting = some (collective false false []) ∧
    joinsClash [join 0 false, join 1 true] = false ∧ runsInNetwork (collective false false []).coll [join 0 false, join 1 true] = false ∧
    (collState (collective false false []) [join 0 true, join 1 true]).meeting = some (collective false false []) ∧
    runsInNetwork (collective false false []).coll [join 0 true, join 1 true] = true ∧
    isOk ((collState (collective false false []) []).collSource (collective false false [])) = true ∧
    (collState (collective true true []) []).fallingBack = some (collective true true []) := by decide +kernel

/-- An attestation, and a walker's read of a page. -/
def attesting : FabricOp := { waitsFor default with limit := 4, id := 9, rank := 1, desc := [1], expected := 2, network := true }
def farPage : FabricOp := { waitsFor default with limit := 4, id := 1, rank := 1, expected := 2 }
def late (o : FabricOp) : State := { collState o [] with cycle := 4 }

theorem witness_FabricLimits :
    (late (collective true true [])).overdueOp = some (collective true true []) ∧ (collective true true []).isAttest = false ∧
    (late attesting).overdueOp = some attesting ∧ attesting.isAttest = true ∧
    (match (late farPage).overdueRead with
      | some (.page o) => decide (o = farPage)
      | _ => false) = true := by decide +kernel

/-! ### Packets -/

/-- A packet from module 0, for module 1, of a kind, with operation bytes and data. -/
def packet (dst kind : Nat) (op payload : List Byte) : Packet := ⟨dst, 0, kind, 0, 0, 0, op, payload⟩
def byLane (l : LaneRef) (s : State) (kind : Nat) (p : Packet) : Bool :=
  decide (p.kind = kind) && (s.mod.lanes[LaneRef.index l]).up && decide (laneOwner s.mod (LaneRef.index l) = some 0) && decide ((s.mod.parts[(0 : Fin 16)]).jobId ≠ 0)

theorem arrives_of {s : State} {kind : Nat} {l : LaneRef} {p : Packet} (h : byLane l s kind p = true) : Arrives s kind l p 0 := by
  simpa [byLane, Arrives, and_assoc] using h

/-- A put of 8 bytes to 0x1000, and a get of as many. -/
def putOp : List Byte := opBytes 0x1000 8 0 4 0 0 0 0 0
/-- A get that awaits 8 bytes, or 16. -/
def getting (n : Nat) : FabricOp := { waitsFor default with limit := 2 ^ 20, ranks := [0x2000, 0], expected := n, network := true }

theorem witness_Packets :
    Arrives networked 1 default (packet 0 1 putOp [1]) 0 ∧ Arrives networked 2 default (packet 0 2 putOp []) 0 ∧ Arrives networked 3 default (packet 0 3 putOp [1]) 0 ∧
    Arrives networked 4 default (packet 0 4 putOp []) 0 ∧ Arrives networked 5 default (packet 0 5 putOp []) 0 ∧ Arrives networked 6 default (packet 0 6 putOp []) 0 ∧
    Arrives networked 7 default (packet 0 7 putOp [1]) 0 ∧ Arrives networked 8 default (packet 0 8 putOp []) 0 ∧ Arrives networked 9 default (packet 0 9 putOp [1]) 0 ∧
    networked.mod.held = [] ∧ networked.mod.ops = [] ∧ networked.mod.eth = [] ∧ (packet 0 7 putOp [1]).flag 3 = false ∧ (networked.mod.parts[(0 : Fin 16)]).jobSelf = 1 :=
  ⟨arrives_of (by decide +kernel), arrives_of (by decide +kernel), arrives_of (by decide +kernel), arrives_of (by decide +kernel), arrives_of (by decide +kernel),
    arrives_of (by decide +kernel), arrives_of (by decide +kernel), arrives_of (by decide +kernel), arrives_of (by decide +kernel), by decide, by decide, by decide,
    by decide +kernel, by decide +kernel⟩

/-- A packet of the switches, of entry 0, with data of the collective. -/
def reduction : Packet := packet 1 7 (opBytes 0 8 0 8 0 0 0 7 0) (List.replicate 8 1)

theorem witness_PacketsTaken :
    (match networked.performPut 0 (packet 1 1 putOp [1]) false with
      | .done _ => true
      | _ => false) = true ∧
    (match networked.performPut 0 (packet 1 1 (opBytes (2 ^ 40) 8 0 4 0 0 0 0 0) [1]) false with
      | .fails _ _ => true
      | _ => false) = true ∧
    (match State.reset.performPut 0 (packet 1 1 (opBytes 0 8 0 1 0 0 0 0 0) [1]) false with
      | .waits _ _ => true
      | _ => false) = true ∧
    (counted (collState (getting 8) []) default).opOfKey 0 (packet 1 3 putOp (List.replicate 8 1)).key = some (getting 8) ∧
    isOk ((counted (collState (getting 8) []) default).fabricWrite false 0x2000 (List.replicate 8 1)) = true ∧
    (counted (collState (getting 16) []) default).opOfKey 0 (packet 1 3 putOp (List.replicate 8 1)).key = some (getting 16) ∧
    (collState { attesting with id := 0 } []).opOfKey (packet 1 5 putOp []).entry.1 (packet 1 5 putOp []).key = some { attesting with id := 0 } ∧
    (collState (collective true true []) []).mod.ops.find? (fun o => o.isColl && o.innet && o.part = reduction.entry.1 &&
      (Fin.ofNat 64 o.coll.route : Fin 64) = reduction.entry.2 && o.die.val = reduction.die && o.id = reduction.key && o.hash.take 8 = reduction.payload.take 8 &&
      (collState (collective true true []) []).opAlive o) = some (collective true true []) ∧
    reduction.flag 3 = true ∧ reduction.key = 7 := by decide +kernel

/-- A collective in network over an entry that is TRUSTED, and a packet of its switch; a put that waits. -/
def reducing : State := (collState (collective true true []) []).onRoute 0 0 fun r => { r with state := .trusted }
def waitingPut : HeldPut := ⟨0, default, packet 1 1 putOp [1], false, 4⟩

theorem witness_ReductionTag :
    reducing.reductionOf reduction = some (collective true true []) ∧
    ((reducing.mod.parts[(collective true true []).part]).routes[(Fin.ofNat 64 (collective true true []).coll.route : Fin 64)]).state = .trusted ∧
    networked.reductionOf reduction = none := by decide +kernel

theorem witness_HeldPut :
    (State.heldPuts { networked with mod := { networked.mod with held := [waitingPut] } }).find?
      (fun h => h.lane = default && h.packet = packet 1 1 putOp [1]) = some waitingPut := by decide +kernel

/-- A frame lent to module 0, whose data arrive. -/
def lending : State :=
  { networked with mod := { networked.mod with parts := networked.mod.parts.set 0 { networked.mod.parts[(0 : Fin 16)] with
      pool := some { pool with lent := [⟨0, [], [], 0, 0, true, none, 0⟩] } } } }
def lentData : Packet := packet 1 9 (padTo 48 [0, 0, 0, 0, 0, 1]) (List.replicate 64 1)

theorem witness_LendingData :
    Arrives lending 9 default lentData 0 ∧ lentData.dst = (lending.mod.parts[(0 : Fin 16)]).jobSelf ∧ lendFrame lentData = 0 ∧ lendWhat lentData = 1 ∧
    isOk ((counted lending default).runKv (kvWriteLines ((counted lending default).kvCtxOf 0) (pool.frameAt (lendFrame lentData) + 4608 * lendSlot lentData +
      lendOffset lentData) lentData.payload ((List.range 64).filter (bitOf (lentData.field 16 8))))) = true :=
  ⟨arrives_of (by decide +kernel), by decide +kernel, by decide +kernel, by decide +kernel, by decide +kernel⟩

/-- An Ethernet packet sent at 0 and again n times, 2^16 cycles ago. -/
def sentOut (n : Nat) : EthPacket := ⟨0, 0, packet 0 7 [] [], default, [], 0, n⟩
def unanswered (n : Nat) : State := { State.reset with cycle := 2 ^ 16, mod := { State.reset.mod with eth := [sentOut n] } }

theorem witness_LaneGroups :
    State.reset.mod.ops = [] ∧ (∀ n : Fin 16, (State.reset.mod.parts[n]).pool = none) ∧ (State.reset.mod.lanes[(0 : Fin 24)]).up = true ∧
    (State.reset.mod.lanes[(0 : Fin 24)]).retries < 15 ∧ (State.reset.mod.lanes[(0 : Fin 24)]).tagFailed = false ∧
    ((State.reset.laneDown default true 0x41).mod.lanes[(0 : Fin 24)]).up = false ∧ ((State.reset.laneDown default true 0x41).mod.lanes[(0 : Fin 24)]).tagFailed = true ∧
    ((State.reset.laneDown default true 0x41).mod.lanes[(0 : Fin 24)]).key = [] ∧ (unanswered 0).unacknowledged 0 = some (sentOut 0) ∧
    (unanswered 8).unacknowledged 0 = some (sentOut 8) ∧ acknowledges { packet 0 5 [] [] with src := switches } (sentOut 0) ∧
    ({ State.reset.mod.lanes[(0 : Fin 24)] with sent := 2 ^ 32 } : Lane).sent = 2 ^ 32 ∧ ¬((packet 0 1 [] []).kind = 7 ∧ (packet 0 1 [] []).flag 3 = true) ∧
    ((reducing.mod.parts[reduction.entry.1]).routes[reduction.entry.2]).state = .trusted := by
  unfold acknowledges
  decide +kernel

end Sys2Proof.Tests
namespace Sys2Proof.Tests

open Sys2Proof Sys2Proof.Machine Sys2Proof.Claims

/-! ## Witnesses: the controller's commands and its scoreboard -/

/-- A command of engine 7 at the head of the controller's queue. -/
def order (op flags : Nat) (hs : List (Nat × Nat)) : Command := { cmd (image 7 op flags hs) .c 0 with image := image 7 op flags hs }
def ctlState (m : Memory) (g : Cluster → Cluster) : State := { live with mod := { live.mod with mem := m }, ctl := g live.ctl }
def ordered (m : Memory) (c : Command) : State := ctlState m fun k => { k with queue := { Queue.empty with waiting := [c] } }

def acts (s : State) (op : Nat) (c : Command) : Bool :=
  decide (s.asController.ctlHead = some c) && decide (opOf c.image = op) && s.asController.ctlReady c && clusterOk c.image

theorem headActs_of {s : State} {op : Nat} {c : Command} (h : acts s op c = true) : HeadActs s op c := by
  simpa [acts, HeadActs, and_assoc] using h

/-- The bytes of a launch header without code at 0x1000, and of a launch record of one task at 0x2000. -/
def headerMem : Memory :=
  [(0x1000, 0x48), (0x1001, 0x4C), (0x1002, 0x4B), (0x1003, 0x48), (0x1004, 1)] ++ ((List.range 12).map fun i => (0x101C + i, 0xFF)) ++
    [(0x1028, 0x40), (0x103B, 1)]
def launchMem : Memory := headerMem ++ [(0x2010, 1)]

def isLaunch (x : Launch) : Bool :=
  match x with
  | .ok _ _ _ _ => true
  | .rejected _ _ _ => false

theorem witness_Klaunch :
    HeadActs (ordered launchMem (order 0 0 [(4, 0x1000), (8, 0x2000)])) 0 (order 0 0 [(4, 0x1000), (8, 0x2000)]) ∧
    isLaunch ((dropped (ordered launchMem (order 0 0 [(4, 0x1000), (8, 0x2000)])) (order 0 0 [(4, 0x1000), (8, 0x2000)])).readLaunch 0x1000 0x2000 false).1 = true ∧
    HeadActs (ordered [] (order 0 0 [(4, 0x1000), (8, 0x2000)])) 0 (order 0 0 [(4, 0x1000), (8, 0x2000)]) ∧
    isLaunch ((dropped (ordered [] (order 0 0 [(4, 0x1000), (8, 0x2000)])) (order 0 0 [(4, 0x1000), (8, 0x2000)])).readLaunch 0x1000 0x2000 false).1 = false :=
  ⟨headActs_of (by decide +kernel), by decide +kernel, headActs_of (by decide +kernel), by decide +kernel⟩

def acceptMem : Memory := [(0x1018, 1), (0x101A, 1), (0x101C, 8), (0x1029, 0)].filter fun c => c.2 != 0
/-- A set of one list at 0x3000; its list record at 0x3040; a launch record for its takes at 0x2000, or none. -/
def setMem (taken : Bool) : Memory :=
  headerMem ++ [(0x3000, 0x40), (0x3001, 0x30), (0x3008, 1), (0x3011, 0x50)] ++ (if taken then [(0x3029, 0x20)] else []) ++ [(0x3041, 0x60), (0x3048, 4)]
def graphMem : Memory := headerMem ++ [(0x3001, 0x40), (0x3008, 1), (0x4001, 0x10), (0x4009, 0x20)]

def takes (taken : Bool) : State := ordered (setMem taken) (order 4 0 [(4, 0x1000), (8, 0x3000)])

theorem witness_ClusterCommands :
    HeadActs (ordered [] (order 5 0 [])) 5 (order 5 0 []) ∧ HeadActs (ordered [] (order 1 0 [(12, 128)])) 1 (order 1 0 [(12, 128)]) ∧
    noneActs (ordered [] (order 1 0 [(12, 128)])) .stream ∧ HeadActs (ordered acceptMem (order 7 0 [(4, 0x1000)])) 7 (order 7 0 [(4, 0x1000)]) ∧
    noneActs (ordered acceptMem (order 7 0 [(4, 0x1000)])) .accept ∧
    (match (ordered acceptMem (order 7 0 [(4, 0x1000)])).asController.ctlKv fun ctx => kvRead ctx 0x1000 64 with
      | .ok (bs, _) => (parseAccept bs).isSome
      | .error _ => false) = true ∧
    HeadActs (ordered (setMem false) (order 3 0 [(4, 0x5000), (8, 0x3000), (12, 1)])) 3 (order 3 0 [(4, 0x5000), (8, 0x3000), (12, 1)]) ∧
    (ordered (setMem false) (order 3 0 [(4, 0x5000), (8, 0x3000), (12, 1)])).asController.appending.isNone = true ∧
    isOk ((ordered (setMem false) (order 3 0 [(4, 0x5000), (8, 0x3000), (12, 1)])).asController.openSet 0x3000) = true ∧
    HeadActs (ordered graphMem (order 2 0 [(4, 0x3000)])) 2 (order 2 0 [(4, 0x3000)]) ∧
    (ordered graphMem (order 2 0 [(4, 0x3000)])).asController.replayOver = none ∧ (ordered graphMem (order 2 0 [(4, 0x3000)])).ctl.replaying = [] ∧
    isOk ((ordered graphMem (order 2 0 [(4, 0x3000)])).asController.ctlKv fun ctx => latchGraph ctx (order 2 0 [(4, 0x3000)]) 0x3000) = true := by
  unfold noneActs
  exact ⟨headActs_of (by decide +kernel), headActs_of (by decide +kernel), by decide +kernel, headActs_of (by decide +kernel), by decide +kernel,
    by decide +kernel, headActs_of (by decide +kernel), by decide +kernel, by decide +kernel, headActs_of (by decide +kernel), by decide +kernel,
    by decide +kernel, by decide +kernel⟩

/-- What a take of the set reads. -/
def taking (taken : Bool) : Option (Nat × Bool) :=
  match (takes taken).asController.openSet 0x3000 with
  | .error _ => none
  | .ok u => match u.setOf (some 0x3000) with
    | none => none
    | some w => some (w.record, isLaunch ((u.ctlDrop (order 4 0 [(4, 0x1000), (8, 0x3000)])).readLaunch 0x1000 w.record true).1)

theorem witness_WlTake :
    HeadActs (takes true) 4 (order 4 0 [(4, 0x1000), (8, 0x3000)]) ∧ taking true = some (0x2000, true) ∧
    HeadActs (takes false) 4 (order 4 0 [(4, 0x1000), (8, 0x3000)]) ∧ (taking false).map (·.1) = some 0 :=
  ⟨headActs_of (by decide +kernel), by decide +kernel, headActs_of (by decide +kernel), by decide +kernel⟩

/-- An entry of a command that has issued. -/
def issuedEntry (op : EntryOp) (c : Command) : Entry := { live.ctl.newEntry op 3 c [] with serial := 144, issued := true }
def board (m : Memory) (e : Entry) (ws : List WorkSet) : State := ctlState m fun k => { k with entries := [e], sets := ws, serial := 1 }

def streaming : Entry := issuedEntry .stream (order 1 0 [(12, 128), (9, 1)])
def accepting : Entry := issuedEntry .accept { order 7 0 [(4, 0x1000)] with records := [recordOf 64 [(24, 1), (26, 1), (28, 8), (17, 0x20)]] }
def wset (empty fired : Bool) : WorkSet := ⟨0x3000, [⟨0x6000, 4, 0, if empty then 0 else 1⟩], 0x3040, 0x5000, 2, 0, 0, 0x2000, 0, fired⟩
def appendingEntry : Entry := { issuedEntry .append (order 3 0 [(4, 0x5000), (8, 0x3000), (12, 1)]) with set := some 0x3000 }
/-- What the next item of an append does: 0 put, 1 skip, 2 bad. -/
def itemKind (x : ItemStep) : Nat :=
  match x with
  | .put _ _ => 0
  | .skip => 1
  | .bad _ => 2
  | .wait => 3
def skipMem : Memory := (List.range 8).map fun i => (0x5000 + i, 0xFF)
def appendState (m : Memory) : State := board m appendingEntry [wset true false]
def replay : Replaying := ⟨0x3000, order 2 0 [(4, 0x3000)], [], 0, 0⟩

theorem witness_AcceptedEntriesAct :
    (board [] streaming []).asController.actingEntry .stream = some streaming ∧ (board [] streaming []).partOfCluster 0 = some 0 ∧
    (board [] accepting []).asController.actingEntry .accept = some accepting ∧ (parseAccept (accepting.cmd.records.headD [])).isSome = true ∧
    (match parseAccept (accepting.cmd.records.headD []) with
      | some r => isOk ((board [] accepting []).asController.ctlKv fun ctx => acceptAll ctx r)
      | none => false) = true ∧
    (appendState []).asController.appending = some (appendingEntry, wset true false) ∧
    itemKind ((appendState []).asController.readItem (wset true false) (appendAt appendingEntry)).1 = 0 ∧
    isOk ((appendState []).asController.putItem (wset true false) 0 0) = true ∧
    itemKind ((appendState skipMem).asController.readItem (wset true false) (appendAt appendingEntry)).1 = 1 ∧
    itemKind ((appendState [(0x5000, 9)]).asController.readItem (wset true false) (appendAt appendingEntry)).1 = 2 ∧
    (ctlState [] fun k => { k with replaying := [replay] }).asController.replayOver = some replay := by decide +kernel

/-- A controller that waits for its jump, its table of targets 0x40. -/
def jumping (c : Command) (table : BitVec 32) : State :=
  ctlState [] fun k => { k with queue := { Queue.empty with waiting := [c] }, c := { k.c with run := .fragmentWait }, jump := Vector.replicate 16 table }

theorem witness_ClusterCommandsAtOnce :
    HeadActs (jumping (order 6 0 []) 0x40) 6 (order 6 0 []) ∧ flagOf (order 6 0 []).image 0 = false ∧
    isOk ((jumping (order 6 0 []) 0x40).asController.jumpIndex (order 6 0 []).image) = true ∧
    HeadActs (jumping (order 6 1 []) 0x40) 6 (order 6 1 []) ∧ flagOf (order 6 1 []).image 0 = true ∧
    isOk ((jumping (order 6 1 []) 0x40).asController.ctlKv fun ctx => kvRead ctx 0 64) = true ∧
    HeadActs (ordered [] (order 8 0 [])) 8 (order 8 0 []) ∧ HeadActs (ordered [] (order 9 0 [])) 9 (order 9 0 []) ∧
    HeadActs (ordered [] (order 9 1 [])) 9 (order 9 1 []) ∧ flagOf (order 9 1 []).image 0 = true ∧ sigEn (order 9 1 []).image = false :=
  ⟨headActs_of (by decide +kernel), by decide +kernel, by decide +kernel, headActs_of (by decide +kernel), by decide +kernel, by decide +kernel,
    headActs_of (by decide +kernel), headActs_of (by decide +kernel), headActs_of (by decide +kernel), by decide +kernel, by decide +kernel⟩

def waitingEntry : Entry := { streaming with issued := false }
def overEntry (op : EntryOp) (complete cx : Bool) : Entry := { issuedEntry op (order 5 0 []) with complete := complete, cx := cx }
def emitState (m : Memory) (p : EmitPending) : State :=
  ctlState m fun k => { k with sets := [wset true false], emits := [p] }
def slot0 (todo : Option (Nat × Nat)) : EmitPending := ⟨0, 0x3000, true, todo⟩

theorem witness_ScoreboardEvents :
    (board [] waitingEntry []).issuable = some waitingEntry ∧
    (board [] (overEntry .launch true false) []).asController.entryToRetire = some (overEntry .launch true false) ∧
    (board [] (overEntry .take true false) []).asController.entryToRetire = some (overEntry .take true false) ∧
    (board [] (overEntry .accept true false) []).asController.entryToRetire = some (overEntry .accept true false) ∧
    (board [] (overEntry .accept false true) []).asController.entryToRetire = some (overEntry .accept false true) ∧
    (board [] (overEntry .quiesce true false) []).asController.entryToRetire = some (overEntry .quiesce true false) ∧
    (board [] (overEntry .launch true false) []).asController.actionCancelled (overEntry .launch true false) = false ∧
    (ctlState [] fun k => { k with sets := [wset true false] }).asController.terminating = some (wset true false) ∧
    (emitState [] (slot0 none)).asController.emitting = some (slot0 none, wset true false) ∧
    isOk ((emitState [] (slot0 none)).asController.ctlKv fun ctx => kvNat ctx 0x5000 8) = true ∧
    (emitState [] (slot0 (some (0, 1)))).asController.emitting = some (slot0 (some (0, 1)), wset true false) ∧
    itemKind ((emitState [] (slot0 (some (0, 1)))).asController.readItem (wset true false) 0x5010).1 = 0 ∧
    (emitState [] (slot0 (some (1, 1)))).asController.emitting = some (slot0 (some (1, 1)), wset true false) := by decide +kernel

end Sys2Proof.Tests
namespace Sys2Proof.Tests

open Sys2Proof Sys2Proof.Machine Sys2Proof.Claims

/-! ## Witnesses: tasks and pre-emption -/

/-- A launch entry of one task, issued, of a priority. -/
def readyEntry (p : Nat) : Entry := { issuedEntry .launch (order 0 0 []) with total := 1, prio := p, header := header }
def takeEntry : Entry := { issuedEntry .take (order 4 0 []) with set := some 0x3000, header := header }
/-- What is placed: 0 a task of a launch, 1 of a take, 2 a continuation, 3 saved nodes, 4 an image. -/
def placedKind (s : State) : Option Nat :=
  match s.asController.placement with
  | some (_, .fresh e, _) => some (if e.op = .take then 1 else 0)
  | some (_, .resumed _ (.continuation _), _ :: _) => some 2
  | some (_, .resumed _ (.node _ _), _) => some 3
  | some (_, .resumed _ (.image _ _), _) => some 4
  | _ => none

def waits : Continuation := ⟨.at 0, .idle, .idle, 0, 0, 0, [], [], 0, 0, 144, header, 1, 0, none, true, true, 0⟩
def image0 : SavedImage := ⟨0, 0x4B534156, 1, 144, 0, 0, 0, [], [Core.reset 0 0 0], []⟩
def resuming (r : Resumed) : State := ctlState [] fun k => { k with resumed := [(144, r)] }

theorem witness_TaskDispatch :
    placedKind (board [] (readyEntry 0) []) = some 0 ∧ placedKind (board [] takeEntry [wset false false]) = some 1 ∧
    (board [] takeEntry [wset false false]).asController.setOf takeEntry.set = some (wset false false) ∧
    isOk ((board [] takeEntry [wset false false]).asController.takeItem (wset false false)).1 = true ∧
    placedKind (resuming (.continuation waits)) = some 2 ∧ placedKind (resuming (.node [⟨0x1000, []⟩] task)) = some 3 ∧
    placedKind (resuming (.image image0 task)) = some 4 ∧ image0.magic = 0x4B534156 ∧ image0.version = 1 ∧ (resuming (.image image0 task)).partOfCluster 0 = some image0.part := by
  decide +kernel

/-- A core of the cluster whose task has ended, goes on in an overlay, or is asked for pre-emption. -/
def tasked (g : Task → Task) : State := coreWith fun k => { k with task := some (g task) }
def swapping (t : Task) : Task := { t with swap := some 0x1000 }
def pressed (forced : Bool) (t : Task) : Task := { t with request := some 0, forced := forced }

theorem witness_TaskEvents :
    (tasked id).asController.endedGroup false = some (task, [0]) ∧ task.swap = none ∧
    (tasked fun t => pressed false (swapping t)).asController.endedGroup false = some (pressed false (swapping task), [0]) ∧
    (tasked swapping).asController.endedGroup true = some (swapping task, [0]) ∧
    ((tasked swapping).asController.nodeHeaders (swapping task) [⟨0x1000, []⟩]).1.isNone = true ∧
    (let s : State := { tasked fun t => swapping { t with header := { t.header with templates := 0, rotate := 0, tvregs := 0, coop := 1 } } with
        mod := { live.mod with mem := headerMem } }
     (s.asController.nodeHeaders (swapping { task with header := { header with templates := 0, rotate := 0, tvregs := 0, coop := 1 } }) [⟨0x1000, []⟩]).1.isSome) = true ∧
    (let s : State := tasked fun t => { t with ending := some { waits with written := false } }
     ((List.range 8).find? fun n => (s.asController.clusterCore n).cwaitOver)) = some 0 := by decide +kernel

/-- Every core of the cluster runs a task, and one of priority 3 is ready. -/
def busy : State :=
  { board [] (readyEntry 3) [] with
    parked := ((live.parked.take 7).map fun k => { k with task := some { task with launch := 144 * k.number.val } }) ++ live.parked.drop 7 }

theorem witness_PreemptionEvents :
    busy.asController.requesting.isSome = true ∧ ({ tasked (pressed false) with cycle := 35000 } : State).asController.escalating = some (pressed false task, [0]) ∧
    (tasked (pressed true)).asController.stopping = some (pressed true task, [0]) := by decide +kernel

end Sys2Proof.Tests
namespace Sys2Proof.Tests

open Sys2Proof Sys2Proof.Machine Sys2Proof.Claims

/-! ## Witnesses: debugger, host, partitions, power, checkpoints -/

def halted : State := coreWith fun k => { k with halt := some ⟨false, none, .a, none, [], []⟩ }

theorem witness_DebuggerAndErrors :
    InFocus live 0 ∧ live.debuggable live.core = true ∧ live.core.halt = none ∧ InFocus halted 0 ∧ halted.core.halt.isSome = true ∧ (∃ h, halted.core.halt = some h ∧ h.writes = []) ∧
    0 < 2048 * live.core.ways ∧ 2048 * live.core.ways ≤ 5000 ∧ (live.mod.ownerOf 0).isSome = true ∧ State.reset.mod.ownerOf 0 = none := by
  unfold InFocus
  decide +kernel

theorem witness_RdcLease :
    let s : State := { live with cycle := 2048, mod := { live.mod with rdc := [⟨0, 0, 0, 5, 5, 0⟩] } }
    (⟨0, 0, 0, 5, 5, 0⟩ : RdcLine) ∈ s.mod.rdc ∧ (0 : Nat) + 2048 ≤ s.cycle := by decide +kernel

/-- The partition's tables: page 0 of 2 MiB for reads and writes, page 1 of counters. Its function 0 has its counter window on page 1. -/
def hosted (m : Memory) : State :=
  { live with mod := { live.mod with
    parts := live.mod.parts.set 0 { part with proot := 0x200000 }
    vfs := live.mod.vfs.set 0 { VirtualFunction.reset with cbase := 0x200000, cboot := 0x1000 }
    hdm := live.mod.hdm.set 0 ⟨0, 1, 0, 0x100⟩
    mem := m ++ [(0x200000, 1), (0x200002, 0x40), (0x400000, 1), (0x400001, 0x10), (0x400002, 0x40), (0x401000, 0x33), (0x401008, 0xB3),
      (0x40100A, 0x60)] } }

/-- Whether an access has the place of an address, or fails with a cause. -/
def placedAt (x : Except Nat Place) (a : Nat) : Bool :=
  match x with
  | .ok pl => decide (pl.pa = a)
  | .error _ => false
def failsWith (x : Except Nat Place) (c : Nat) : Bool :=
  match x with
  | .ok _ => false
  | .error k => decide (k = c)

theorem witness_HostWindows :
    (hosted []).mod.vfOwner 0 = some 0 ∧ placedAt (checkHost (hosted []).mod 0 accCounterAdd (counterVa (hosted []).mod.vfs[(0 : Fin 128)] 8) 8) 0x600008 = true ∧
    isOk ((hosted []).addMem 0 0x600008 5) = true ∧ failsWith (checkHost (hosted []).mod 0 accCounterAdd (counterVa live.mod.vfs[(0 : Fin 128)] 8) 8) 0x11 = true ∧
    placedAt (checkHost (hosted []).mod 0 accCounterRead (counterVa (hosted []).mod.vfs[(0 : Fin 128)] 8) 8) 0x600008 = true ∧
    placedAt (hostPlace (hosted []).mod 0 accWrite (recordVa (hosted []).mod.vfs[(0 : Fin 128)] 64) 8) 64 = true ∧
    failsWith (hostPlace (hosted []).mod 0 accRead (recordVa (hosted []).mod.vfs[(0 : Fin 128)] 64) 3) 0x12 = true ∧
    (hosted []).load ⟨64, 0, 0⟩ 8 = (List.replicate 8 0, false) ∧ State.reset.mod.vfOwner 0 = none ∧ (hosted []).mod.ready = true ∧ (hosted []).mod.modes[(0 : Fin 8)] = .cxlHost ∧
    ((hosted []).mod.hdm.toList.find? fun h => h.covers 0 64) = some ⟨0, 1, 0, 0x100⟩ ∧ (⟨0, 1, 0, 0x100⟩ : Hdm).part = 0 ∧
    placedAt (hostPlace (hosted []).mod 0 accRead ((⟨0, 1, 0, 0x100⟩ : Hdm).va 64) 8) 64 = true := by decide +kernel

/-- A boot image's header at 0x1000 whose code is one instruction. -/
def bootMem : Memory :=
  [(0x1000, 0x48), (0x1001, 0x4C), (0x1002, 0x4B), (0x1003, 0x48), (0x1004, 1), (0x1009, 0x20), (0x1010, 4)] ++
    ((List.range 8).map fun i => (0x1020 + i, 0xFF)) ++ [(0x1028, 0x40), (0x103B, 1)]

theorem witness_HostRegisters :
    (hosted bootMem).mod.vfOwner 0 = some 0 ∧ ((hosted bootMem).mod.parts[(0 : Fin 16)]).hasCluster (7 / 8) = true ∧
    ((hosted bootMem).mod.parts[(0 : Fin 16)]).hasCluster 1 = false ∧
    (((hosted bootMem).onVf 0 fun f => { f with cbootgo := BitVec.ofNat 64 (2 ^ 63 + 0) }).bootHeader
      ((hosted bootMem).mod.vfs[(0 : Fin 128)]).cboot.toNat).isSome = true := by decide +kernel

/-- A FREE partition with a descriptor that may be taken. -/
def free0 : State := { live with mod := { live.mod with parts := live.mod.parts.set 0 { part with state := .free } } }
def scrubbing (j : Nat) : State := { live with mod := { live.mod with parts := live.mod.parts.set 0 { part with state := .scrubbing, scrub := [(0, j)] } } }

theorem witness_Partitions :
    free0.mod.ready = true ∧ free0.mod.creatable 0 = true ∧ State.reset.mod.creatable 0 = false ∧ (live.mod.parts[(0 : Fin 16)]).state = .live ∧
    ({ State.reset.mod with powered := false } : Module).ready = false ∧ ((scrubbing 0).mod.parts[(0 : Fin 16)]).state = .scrubbing ∧
    (2 * (0 : Fin 24).val + (0 : Fin 2).val, 0) ∈ ((scrubbing 0).mod.parts[(0 : Fin 16)]).scrub ∧
    0 < ((scrubbing 0).mod.parts[(0 : Fin 16)]).channels (2 * (0 : Fin 24).val + (0 : Fin 2).val) := by decide +kernel

theorem witness_ResetAndPower :
    State.reset.mod.powered = true ∧ ({ State.reset.mod with powered := false } : Module).powered = false ∧ State.reset.mod.hot[(0 : Fin 24)] = false ∧
    ({ State.reset.mod with overCap := true } : Module).overCap = true := by decide

/-- A checkpoint of partition 0 at address 0 of the pool: a save, or a restore. -/
def checkpointing (op phase : Nat) (st : PartState) : State :=
  { live with mod := { live.mod with
    parts := live.mod.parts.set 0 { part with state := st }
    ckpt := { live.mod.ckpt with ctl := BitVec.ofNat 64 op, phase := phase } } }

theorem witness_Checkpoints :
    (checkpointing 1 0 .live).mod.ready = true ∧ (checkpointing 1 0 .live).mod.ckpt.phase ≠ 1 ∧ (checkpointing 1 0 .live).quiesced part = false ∧
    { live with core := Core.reset 0 0 0 }.quiesced part = true ∧ part.fits 0 = true ∧ part.groups = [0] ∧
    (checkpointing 1 1 .live).mod.ckpt.phase = 1 ∧ (checkpointing 1 1 .live).mod.ckpt.op = 1 ∧ (checkpointing 2 1 .free).mod.ckpt.op = 2 ∧
    ((checkpointing 2 1 .free).mod.parts[(checkpointing 2 1 .free).mod.ckpt.part]).state = .free ∧ (checkpointing 2 1 .free).mod.creatable 0 = true ∧
    Memory.wf live.mod.mem = true := by decide +kernel

/-! ## Witnesses: steps, encodings, invariants -/

/-- A state whose A strand has an `ADDI` at its pc. -/
def ready : State := live.withFetchWord 32 0x0428BFC0

theorem witness_StepRunsDecoded :
    Ready ready .a ∧ Fetches (acting ready .a) (.addi 5 5 (-64)) 1 ∧ Allowed (acting ready .a) (.addi 5 5 (-64)) ∧
    Machine.inFlight (acting ready .a).cycle (acting ready .a).strand + newResults (alone (acting ready .a) (.addi 5 5 (-64)) 1) (.addi 5 5 (-64)) ≤ 24 ∧
    (∃ p, exec (.addi 5 5 (-64)) (alone (acting ready .a) (.addi 5 5 (-64)) 1) = .next p ∧ p.grp.verdict = .issued) ∧
    (∃ t, exec (.addi 5 5 (-64)) (issuing (acting ready .a) (.addi 5 5 (-64)) 1) = .next t ∧ t.grp.verdict ≠ .blocked) := by
  unfold Ready Fetches Allowed
  exact ⟨⟨by decide, by decide, by decide +kernel, ⟨[], (turnOrder ready).tail, by decide +kernel, by simp⟩, by decide +kernel, by decide +kernel,
    by decide +kernel, by decide +kernel, by decide +kernel, by decide +kernel⟩, by decide +kernel, by decide +kernel, by decide +kernel,
    ⟨_, rfl, by decide +kernel⟩, ⟨_, rfl, by decide +kernel⟩⟩

theorem witness_DecodeEncode : (Instr.addi 5 5 (-64)).WellFormed ∧ encode true (.addi 5 5 (-64)) ≠ [] ∧ (Instr.movl 9 0x80001234).WellFormed ∧
    encode true (.movl 9 0x80001234) ≠ [] := by decide

theorem witness_MemoryStaysCanonical : MemoriesWf State.reset ∧ ∃ t, step State.reset = .next t := by
  refine ⟨rfl, ?_⟩
  have h : (next? (step State.reset)).isSome = true := by decide +kernel
  cases e : step State.reset with
  | next t => exact ⟨t, rfl⟩
  | fault f => rw [e] at h; cases h
  | refused r => rw [e] at h; cases h

end Sys2Proof.Tests
namespace Sys2Proof.Tests

open Sys2Proof Sys2Proof.Machine Sys2Proof.Claims

/-! ## Witnesses: where the engines' commands complete -/

/-- Some head starts, and meets what a claim that it completes asks. -/
def Shown (q : Fin 8) (e op : Nat) (pre : Image → Prop) (ok : State → Command → Prop) : Prop :=
  ∃ s c t c1, HeadStarts s q e op c ∧ pre c.image ∧ Taken s q c t c1 ∧ ok t c1

/-- The head of a queue, and the state and the command in which its engine takes it up. -/
def headOf (s : State) (q : Fin 8) : Command := ((s.core.queue[q]).waiting.head?).getD (simple 0)
def takenOf (s : State) (q : Fin 8) : State × Command := (takenUp s q (headOf s q)).getD (s, simple 0)

def starts (s : State) (q : Fin 8) (e op : Nat) : Bool :=
  decide (s.headState q = .starts (headOf s q)) && decide (engineOfImage (headOf s q).image = e) && decide (opOf (headOf s q).image = op) &&
  (takenUp s q (headOf s q)).isSome

theorem shown {q : Fin 8} {e op : Nat} {pre : Image → Prop} {ok : State → Command → Prop} (s : State) (h : starts s q e op = true)
    (hp : pre (headOf s q).image) (hk : ok (takenOf s q).1 (takenOf s q).2) : Shown q e op pre ok := by
  unfold starts at h
  simp only [Bool.and_eq_true, decide_eq_true_eq] at h
  obtain ⟨⟨⟨hh, he⟩, ho⟩, hs⟩ := h
  refine ⟨s, _, _, _, ⟨hh, he, ho⟩, hp, ?_, hk⟩
  cases ht : takenUp s q (headOf s q) with
  | none => rw [ht] at hs; cases hs
  | some r =>
    simp only [takenOf, ht, Option.getD_some]
    unfold takenUp at ht
    split at ht <;> try contradiction
    rename_i u0 c0 hq
    simp only [Option.some.injEq] at ht
    subst ht
    exact ⟨u0, c0, hq, rfl, rfl⟩

/-! ### Matrix -/

/-- A product of one block and one k group on zeros. -/
def madding : State := engineState planes 0 (simple (image 0 0 0 []))
def madds : State := (takenOf madding 0).1
def madded : Command := (takenOf madding 0).2

theorem complete_mma : Shown 0 0 0 anyImage mmaReads :=
  shown madding (by decide +kernel) trivial (by
    have hb : tileBlocks madded.image = 1 := by decide +kernel
    have hg : hw madded.image 8 + 1 = 1 := by decide +kernel
    show mmaReads madds madded
    refine ⟨by unfold wholeTile; decide +kernel, by decide +kernel, by decide +kernel, fun u g hu hk => ?_⟩
    rw [hb] at hu
    rw [hg] at hk
    obtain rfl : u = 0 := by omega
    obtain rfl : g = 0 := by omega
    exact ⟨⟨_, eq_okVal (α := List Stream) (by decide +kernel)⟩, ⟨_, eq_okVal (α := List Stream) (by decide +kernel)⟩⟩)

/-- A drain and a load of one block. -/
def draining : State := engineState planes 0 (simple (image 0 1 0 [(5, 0x100), (8, 256)]))
def filling : State := engineState planes 0 (simple (image 0 3 0 [(5, 0x100), (8, 256)]))

theorem rangeBlock_one {c : Command} (h : rangeUb c.image = 0 ∧ rangeNb c.image = 1) {u : Nat} (hu : rangeBlock c u) : u = 0 := by
  unfold rangeBlock at hu
  omega

theorem complete_mdrain : Shown 0 0 1 anyImage drainWrites :=
  shown draining (by decide +kernel) trivial (by
    refine ⟨by unfold wholeTile; decide +kernel, by decide +kernel, by decide +kernel, by decide +kernel, .bf16, by decide +kernel, fun u r hu hr => ?_⟩
    obtain rfl := rangeBlock_one (by decide +kernel) hu
    revert r
    unfold inPad
    decide +kernel)

theorem complete_mload : Shown 0 0 3 anyImage loadReads :=
  shown filling (by decide +kernel) trivial (by
    refine ⟨by unfold wholeTile; decide +kernel, by decide +kernel, by decide +kernel, fun u r hu hr => ?_⟩
    obtain rfl := rangeBlock_one (by decide +kernel) hu
    refine ⟨_, eq_okVal (α := List Byte) ?_⟩
    revert r
    decide +kernel)

/-! ### Copies -/

theorem placeWrite_length {s : State} {pl : Nat × Nat} {a : Int} {bs cs : List Byte} (hl : bs.length = cs.length)
    (h : isOk (s.placeWrite pl a cs) = true) : ∃ u, s.placeWrite pl a bs = .ok u := by
  unfold State.placeWrite State.engWrite at *
  simp only [List.isEmpty_iff_length_eq_zero, hl] at *
  split at h
  · cases h
  · split at h
    · exact ⟨s, by simp only [*, if_true]⟩
    · split at h
      · cases h
      · exact ⟨_, by simp only [*, if_false]; rfl⟩

theorem mergeNibble_length (w : Nat) (hw : w ≠ 4) (high : Bool) (old v : Nat) : (mergeNibble w high old v).length = w / 8 := by
  simp [mergeNibble, hw]

/-- The element moves, as a test: its read, and the write of a zero. -/
def movesTest (t : State) (c : Command) (n entry : Nat) : Bool :=
  (match (jobOf c).sourceIndex (indexOf c n) entry with
    | (some x, false) => isOk ((jobOf c).read t x)
    | _ => true) &&
  decide (copyDmode c.image ≠ 0) && decide (copyDmode c.image ≠ 1) && decide ((copyDfmt c.image).width ≠ 4) &&
  isOk (t.placeWrite ((jobOf c).place true) ((jobOf c).destAddr ((jobOf c).place true).1 (copyDfmt c.image).width (indexOf c n)).1
    (List.replicate ((copyDfmt c.image).width / 8) 0))

theorem moves_of {t : State} {c : Command} {n entry : Nat} (h : movesTest t c n entry = true) : moves t c n entry := by
  unfold movesTest at h
  simp only [Bool.and_eq_true, decide_eq_true_eq] at h
  obtain ⟨⟨⟨⟨hr, h0⟩, h1⟩, hw⟩, hd⟩ := h
  refine ⟨fun x hx => ?_, fun v => ?_⟩
  · rw [hx] at hr
    exact ⟨_, eq_okVal hr⟩
  · unfold CopyJob.write
    split
    · exact absurd ‹copyDmode _ = 1› h1
    · exact absurd ‹copyDmode _ = 0› h0
    · exact placeWrite_length ((mergeNibble_length _ hw _ _ _).trans (List.length_replicate ..).symm) hd

/-- Four bytes from 0 of the scratchpad to 64. -/
def copying4 : State := engineState live 1 (copying (image 1 0 0 [(8, 64), (12, 0x2200), (13, 0x1100)]) [4])
def transposing : State := engineState live 1 (copying (image 1 1 0 [(8, 64), (12, 0x2200), (13, 0x1100)]) [2, 2])
def padding : State := engineState live 1 (copying (image 1 3 0 [(8, 64), (12, 0x2200), (13, 0x1100), (20, 2)]) [4])
def gathering : State := engineState live 1 (copying (image 1 2 0 [(8, 64), (12, 0x0200), (13, 0x1100), (16, 128)]) [2])
def generating : State := engineState live 1 (copying (image 1 4 0 [(8, 64), (12, 0x0200), (13, 0x1000), (16, 128)]) [4])

def copyTest (s : State) (n : Nat) : Bool :=
  decide (elements (takenOf s 1).2 = n) && (List.range n).all fun j => movesTest (takenOf s 1).1 (takenOf s 1).2 j 0

theorem copyMoves_of {s : State} (n : Nat) (h : copyTest s n = true) (hp : padSides (takenOf s 1).1 (takenOf s 1).2) :
    copyMoves (takenOf s 1).1 (takenOf s 1).2 := by
  simp only [copyTest, Bool.and_eq_true, decide_eq_true_eq, List.all_eq_true, List.mem_range] at h
  exact ⟨hp, fun j hj => moves_of (h.2 j (h.1 ▸ hj))⟩

theorem complete_cpy : Shown 1 1 0 anyImage copyMoves :=
  shown copying4 (by decide +kernel) trivial (copyMoves_of 4 (by decide +kernel) (by unfold padSides; decide +kernel))
theorem complete_cpyT : Shown 1 1 1 anyImage copyMoves :=
  shown transposing (by decide +kernel) trivial (copyMoves_of 4 (by decide +kernel) (by unfold padSides; decide +kernel))
theorem complete_cpyPad : Shown 1 1 3 anyImage copyMoves :=
  shown padding (by decide +kernel) trivial (copyMoves_of 4 (by decide +kernel) (by unfold padSides; decide +kernel))

/-- The gather and the address generation as they are taken up; their tables are zeros. -/
def gathered : State × Command := takenOf gathering 1
def generated : State × Command := takenOf generating 1

def readsZero (r : State × Command) (n : Nat) : Bool :=
  (List.range n).all fun j => match r.1.engRead (copyTable r.2.image + 4 * (indexOf r.2 j).getD (copyIdim r.2.image) 0) 4 with
    | .ok bs => decide (bs = zeros 4)
    | .error _ => false

theorem readsZero_spec {r : State × Command} {n : Nat} (h : readsZero r n = true) {j : Nat} (hj : j < n) :
    r.1.engRead (copyTable r.2.image + 4 * (indexOf r.2 j).getD (copyIdim r.2.image) 0) 4 = .ok (zeros 4) := by
  simp only [readsZero, List.all_eq_true, List.mem_range] at h
  have := h j hj
  split at this
  · rename_i bs hb
    rw [hb, of_decide_eq_true this]
  · cases this

/-- The states of the gather, element by element, where every entry is 0. -/
def gatherState : Nat → State
  | 0 => gathered.1
  | n + 1 => (okVal ((jobOf gathered.2).element (gatherState n) (indexOf gathered.2 n) n 0)).1

theorem complete_cpyG : Shown 1 1 2 anyImage gatherMoves :=
  shown gathering (by decide +kernel) trivial (by
    have hn : elements gathered.2 = 2 := by decide +kernel
    have hm : ((List.range 2).all fun n => isOk ((jobOf gathered.2).element (gatherState n) (indexOf gathered.2 n) n 0) &&
      decide (product ((nestBounds gathered.2.nest).take (copyIdim gathered.2.image)) = 1) && readsZero (gatherState n, gathered.2) 2) = true := by decide +kernel
    simp only [List.all_eq_true, List.mem_range, Bool.and_eq_true, decide_eq_true_eq] at hm
    refine ⟨by decide +kernel, by decide +kernel, by decide +kernel, gatherState, fun _ => 0, rfl, fun n h => ?_⟩
    replace h : n < elements gathered.2 := h
    rw [hn] at h
    obtain ⟨⟨hk, hp⟩, hz⟩ := hm n h
    refine ⟨?_, _, eq_okVal (α := State × Flags) hk⟩
    show if n % product ((nestBounds gathered.2.nest).take (copyIdim gathered.2.image)) = 0 then tableEntry (gatherState n) gathered.2 n 0 else _
    rw [hp, if_pos (Nat.mod_one n)]
    exact ⟨_, readsZero_spec hz h, by decide⟩)

theorem complete_agen : Shown 1 1 4 anyImage agenWrites :=
  shown generating (by decide +kernel) trivial (by
    have hn : elements generated.2 = 4 := by decide +kernel
    have hz : readsZero generated 4 = true := by decide +kernel
    show agenWrites generated.1 generated.2
    refine ⟨by decide +kernel, by decide +kernel, by decide +kernel, by decide +kernel, fun n h => ?_⟩
    rw [hn] at h
    refine ⟨⟨0, _, readsZero_spec hz h, by decide⟩, ?_⟩
    revert n
    unfold clearOfTable inPad
    decide +kernel)

end Sys2Proof.Tests
namespace Sys2Proof.Tests

open Sys2Proof Sys2Proof.Machine Sys2Proof.Claims

/-! ## Witnesses: attention, the tile cache and the fabric where they complete -/

theorem gets_of {α : Type} [Inhabited α] {t : State} {x : KvM α} (h : isOk (t.runKv x) = true) :
    Gets t x (okVal (α := α × State) (t.runKv x)).1 (okVal (α := α × State) (t.runKv x)).2 := eq_okVal (α := α × State) h

theorem gets_eq {α : Type} [Inhabited α] {t : State} {x : KvM α} {v : α} (h : isOk (t.runKv x) = true) (hv : (okVal (α := α × State) (t.runKv x)).1 = v) :
    Gets t x v (okVal (α := α × State) (t.runKv x)).2 := hv ▸ gets_of h

/-- The descriptor of a handle, and the state once it is read. -/
def readHandle (t : State) (handle : Nat) : Option (Seq × State) :=
  match (t.mod.parts[t.partNo]).pool with
  | none => none
  | some p =>
    if handle / 2 ^ 28 = t.partNo.val ∧ (t.mod.parts[t.partNo]).state = .live ∧ handle % 2 ^ 28 < p.nseq then
      match t.runKv (kvRead t.kvCtx (p.seqbase + 256 * (handle % 2 ^ 28)) 256) with
      | .error _ => none
      | .ok (bs, u) => if (parseSeq bs).live then some (parseSeq bs, u) else none
    else none

theorem handleRead_of {t : State} {handle : Nat} {q : Seq} {u : State} (h : readHandle t handle = some (q, u)) : HandleRead t handle q u := by
  unfold readHandle at h
  split at h <;> try contradiction
  rename_i p hp
  split at h <;> try contradiction
  rename_i hc
  split at h <;> try contradiction
  rename_i bs v hb
  split at h <;> try contradiction
  rename_i hl
  cases h
  exact ⟨hc.1, hc.2.1, p, bs, hp, hc.2.2, hb, rfl, hl⟩

theorem some_getD {α : Type} {x : Option α} {d : α} (h : x.isSome = true) : x = some (x.getD d) := by
  cases x with
  | none => cases h
  | some v => rfl

def handled (s : State) (q : Fin 8) : Seq × State := (readHandle (takenOf s q).1 0).getD (default, s)

theorem handled_read {s : State} {q : Fin 8} (h : (readHandle (takenOf s q).1 0).isSome = true) :
    HandleRead (takenOf s q).1 0 (handled s q).1 (handled s q).2 := handleRead_of (some_getD h)

/-! ### Attention -/

def attendingOpa : State := engineState onPlanes 2 (attending (image 2 0 1 [(15, 0x3F80)]))
def attendingDle : State := engineState withPool 7 (attending (image 2 1 1 [(15, 0x3F80)]))
def gatheringOpa : State := engineState onPlanes 2 (attending (image 2 3 9 [(15, 0x3F80), (22, 64)]))
def gatheringDle : State := engineState withPool 7 (attending (image 2 3 1 [(15, 0x3F80), (22, 64)]))
def selecting : State := engineState withPool 7 (attending (image 2 2 0 [(15, 0x3F80), (28, 1)]))

theorem complete_attp : Shown 2 2 0 anyImage attStarts :=
  shown attendingOpa (by decide +kernel) trivial
    ⟨by decide +kernel, by decide +kernel, 0, _, _, by decide +kernel, handled_read (by decide +kernel), by decide +kernel, by decide +kernel, by decide +kernel,
      by decide +kernel, by unfold rowsFit inPad; decide +kernel⟩
theorem complete_attd : Shown 7 2 1 anyImage attStarts :=
  shown attendingDle (by decide +kernel) trivial
    ⟨by decide +kernel, by decide +kernel, 0, _, _, by decide +kernel, handled_read (by decide +kernel), by decide +kernel, by decide +kernel, by decide +kernel,
      by decide +kernel, by unfold rowsFit inPad; decide +kernel⟩
theorem complete_attgOpa : Shown 2 2 3 anyImage gatherStarts :=
  shown gatheringOpa (by decide +kernel) trivial
    ⟨by decide +kernel, by decide +kernel, 0, _, _, _, by decide +kernel, handled_read (by decide +kernel), eq_okVal (α := List Byte) (by decide +kernel),
      by decide +kernel, by decide +kernel, by decide +kernel, by decide +kernel, by unfold rowsFit inPad; decide +kernel⟩
theorem complete_attgDle : Shown 7 2 3 anyImage gatherStarts :=
  shown gatheringDle (by decide +kernel) trivial
    ⟨by decide +kernel, by decide +kernel, 0, _, _, _, by decide +kernel, handled_read (by decide +kernel), eq_okVal (α := List Byte) (by decide +kernel),
      by decide +kernel, by decide +kernel, by decide +kernel, by decide +kernel, by unfold rowsFit inPad; decide +kernel⟩
theorem complete_ssel : Shown 7 2 2 anyImage selects :=
  shown selecting (by decide +kernel) trivial
    ⟨by decide +kernel, 0, _, _, by decide +kernel, handled_read (by decide +kernel), by decide +kernel, by decide +kernel, by unfold inPad; decide +kernel⟩

/-! ### The tile cache -/

/-- The bytes of a tensor's record at 0, and a command that names it. -/
def bytesAtZero (bs : List Byte) : Memory := bs.zipIdx.filterMap fun b => if b.1 = 0 then none else some (b.2, b.1)
def tensors (op flags : Nat) (hs : List (Nat × Nat)) (bs : List Byte) : State :=
  engineState { live with mod := { live.mod with mem := bytesAtZero bs } } 4 (simple (image 4 op flags hs))

/-- The record that the head of a tile-cache queue reads, and the state then. -/
def recorded (s : State) : List Byte × State := okVal ((takenOf s 4).1.readRecord (quarter (takenOf s 4).2.image 1))
def rec4 (s : State) : TensorRec := parseRec (recorded s).1

theorem recordRead_of {s : State} {tile : Bool} {more : State → TensorRec → Prop} (h0 : (takenOf s 4).2.records = [])
    (h : isOk ((takenOf s 4).1.readRecord (quarter (takenOf s 4).2.image 1)) = true) (hr : (rec4 s).ok = true)
    (ht : (!tile || (rec4 s).tileIndexOk (tcTileIndex (takenOf s 4).2.image)) = true) (hm : more (recorded s).2 (rec4 s)) :
    recordRead (takenOf s 4).1 (takenOf s 4).2 tile more :=
  ⟨h0, _, _, eq_okVal (α := List Byte × State) h, hr, fun e => by rw [e] at ht; exact ht, hm⟩

theorem reaches_of {u : State} {r : TensorRec} {xs : List (List Nat)} (h : (xs.all fun x => isOk (u.lineOfElem r x)) = true) : reaches u r xs :=
  fun x hx => ⟨_, eq_okVal (List.all_eq_true.1 h x hx)⟩

theorem complete_tcLook : Shown 4 4 0 anyImage fun t c => recordRead t c true fun u r =>
    reaches u r (tileOf c r) ∧ inPad u (bitsOf (tcArg c.image) 0 22) 8 :=
  shown (tensors 0 0 [] tensorBytes) (by decide +kernel) trivial
    (recordRead_of (by decide +kernel) (by decide +kernel) (by decide +kernel) (by decide +kernel) ⟨reaches_of (by decide +kernel), by unfold inPad; decide +kernel⟩)
theorem complete_tcPf : Shown 4 4 1 anyImage fun t c => recordRead t c true fun u r => reaches u r (tilesAround c r) :=
  shown (tensors 1 0 [] tensorBytes) (by decide +kernel) trivial
    (recordRead_of (by decide +kernel) (by decide +kernel) (by decide +kernel) (by decide +kernel) (reaches_of (by decide +kernel)))
theorem complete_tcInv : Shown 4 4 3 anyImage fun t c => recordRead t c false fun u r => reaches u r r.allElems :=
  shown (tensors 3 0 [] tensorBytes) (by decide +kernel) trivial
    (recordRead_of (by decide +kernel) (by decide +kernel) (by decide +kernel) (by decide +kernel) (reaches_of (by decide +kernel)))
theorem complete_tcWb : Shown 4 4 4 anyImage fun t c => recordRead t c false fun u r => reaches u r r.allElems :=
  shown (tensors 4 0 [] tensorBytes) (by decide +kernel) trivial
    (recordRead_of (by decide +kernel) (by decide +kernel) (by decide +kernel) (by decide +kernel) (reaches_of (by decide +kernel)))
theorem complete_tcUnpin : Shown 4 4 5 (flag0 true) fun t c => recordRead t c false fun u r => reaches u r r.allElems :=
  shown (tensors 5 1 [] tensorBytes) (by decide +kernel) (by unfold flag0; decide +kernel)
    (recordRead_of (by decide +kernel) (by decide +kernel) (by decide +kernel) (by decide +kernel) (reaches_of (by decide +kernel)))

theorem pinsFit_of {u : State} {r : TensorRec} (h : (match u.linesOfElems r r.allElems with
    | .error _ => true
    | .ok ls => decide (∀ d : Nat, d < 24 → (u.mod.l2.filter fun x => x.part = u.partNo && x.pinned && x.home = d).length +
        ((ls.filter fun l => !l.mside && !u.mod.l2.any fun x => x.is u.partNo l && x.pinned).filter fun l => l.home = d).length ≤
          pinBudget u.mod.parts[u.partNo] d)) = true) : pinsFit u r := fun ls hl d hd => by
  rw [hl] at h
  exact of_decide_eq_true h d hd

theorem complete_tcPin : Shown 4 4 5 (flag0 false) fun t c => recordRead t c false fun u r => reaches u r r.allElems ∧ pinsFit u r :=
  shown (tensors 5 0 [] tensorBytes) (by decide +kernel) (by unfold flag0; decide +kernel)
    (recordRead_of (by decide +kernel) (by decide +kernel) (by decide +kernel) (by decide +kernel) ⟨reaches_of (by decide +kernel), pinsFit_of (by decide +kernel)⟩)

/-- The loads of a halo, one after another. -/
def haloRun (r : TensorRec) (sz : Nat) : List (List Int) → State → Bool
  | [], _ => true
  | x :: xs, s =>
    if r.inside x then match s.tensorLoad r x sz with
      | .error _ => false
      | .ok (bs, u) => decide (bs.length = sz) && haloRun r sz xs u
    else haloRun r sz xs s

theorem haloRun_spec {r : TensorRec} {sz : Nat} : ∀ {xs : List (List Int)} {u : State}, haloRun r sz xs u = true →
    ∃ st : Nat → State, st 0 = u ∧ ∀ k x, xs[k]? = some x →
      if r.inside x = true then ∃ bs, bs.length = sz ∧ (st k).tensorLoad r x sz = .ok (bs, st (k + 1)) else st (k + 1) = st k
  | [], u, _ => ⟨fun _ => u, rfl, fun k x h => by simp at h⟩
  | x :: xs, u, h => by
    have first : ∃ v, haloRun r sz xs v = true ∧
        if r.inside x = true then ∃ bs, bs.length = sz ∧ u.tensorLoad r x sz = .ok (bs, v) else v = u := by
      unfold haloRun at h
      split at h
      · split at h <;> try contradiction
        rename_i hi _ bs v hl
        simp only [Bool.and_eq_true, decide_eq_true_eq] at h
        exact ⟨v, h.2, by rw [if_pos hi]; exact ⟨bs, h.1, hl⟩⟩
      · rename_i hi
        exact ⟨u, h, by rw [if_neg hi]⟩
    obtain ⟨v, hv, hx⟩ := first
    obtain ⟨st, h0, hs⟩ := haloRun_spec hv
    refine ⟨fun k => if k = 0 then u else st (k - 1), rfl, fun k y hy => ?_⟩
    cases k with
    | zero =>
      simp only [List.getElem?_cons_zero, Option.some.injEq] at hy
      subst hy
      simpa [h0] using hx
    | succ k => simpa using hs k y (by simpa using hy)

theorem complete_tcHalo : Shown 4 4 2 anyImage fun t c => recordRead t c true (haloMoves c) :=
  shown (tensors 2 0 [(15, 0x40)] planeBytes) (by decide +kernel) trivial
    (recordRead_of (by decide +kernel) (by decide +kernel) (by decide +kernel) (by decide +kernel)
      ⟨by decide +kernel, by decide +kernel, by decide +kernel, by decide +kernel, by unfold inPad; decide +kernel, haloRun_spec (by decide +kernel)⟩)

end Sys2Proof.Tests
namespace Sys2Proof.Tests

open Sys2Proof Sys2Proof.Machine Sys2Proof.Claims

/-! ### The fabric -/

/-- A put of 8 bytes to the other module, a get from it, an add to a counter of it. -/
def putting : State := net 2 0 [(4, 0x1000), (8, 0x2000), (12, 0), (14, 8)]
def fetching : State := net 3 0 [(4, 0x1000), (8, 0x2000), (12, 0), (14, 8)]
def adding : State := net 4 0 [(5, 0x20), (8, 1), (12, 0)]

theorem complete_fput : Shown 6 6 2 anyImage fun t c => otherModule t c ∧ ∃ r, t.fabricRead (flagOf c.image 0) (quarter c.image 1) (fabLen c.image) = .ok r :=
  shown putting (by decide +kernel) trivial ⟨by unfold otherModule; decide +kernel, _, eq_okVal (α := List Byte × State) (by decide +kernel)⟩
theorem complete_fget : Shown 6 6 3 anyImage otherModule := shown fetching (by decide +kernel) trivial (by unfold otherModule; decide +kernel)
theorem complete_fcadd : Shown 6 6 4 anyImage otherModule := shown adding (by decide +kernel) trivial (by unfold otherModule; decide +kernel)

/-- What a collective's descriptor and group pass, as a test. -/
def collTest (argmax : Bool) (t : State) (c : Command) : Bool :=
  let part := t.mod.parts[t.partNo]
  decide (part.jobId ≠ 0) && (!fabWrites c.image || decide (fabRes c.image + 8 ≤ 262144 * t.core.ways)) &&
  match t.runKv (kvRead t.kvCtx (quarter c.image 1) 64) with
  | .error _ => false
  | .ok (desc, u1) =>
    let d := parseColl argmax desc
    decide (d.group < 2 ^ 57) && decide (d.group % 64 = 0) &&
    match u1.runKv (kvRead u1.kvCtx d.group 64) with
    | .error _ => false
    | .ok (head, u2) => match u2.runKv (kvRead u2.kvCtx d.group (64 + 4 * min (bytesAt head 0 2) 1024)) with
      | .error _ => false
      | .ok (grp, u3) => d.ok (bytesAt head 0 2) && match groupMembers grp (part.jobSelf + t.core.die.val * 2 ^ 12) part.isMember with
        | none => false
        | some ms => ms.all fun m => decide (u3.fabricFault (m % 2 ^ 12) = none)

theorem collReads_of {argmax : Bool} {t : State} {c : Command} (h : collTest argmax t c = true) : collReads argmax t c := by
  unfold collTest at h
  simp only [Bool.and_eq_true, decide_eq_true_eq, Bool.or_eq_true, Bool.not_eq_true'] at h
  obtain ⟨⟨hj, hr⟩, h⟩ := h
  split at h <;> try contradiction
  rename_i desc u1 h1
  simp only [Bool.and_eq_true, decide_eq_true_eq] at h
  obtain ⟨⟨hg, ha⟩, h⟩ := h
  split at h <;> try contradiction
  rename_i head u2 h2
  split at h <;> try contradiction
  rename_i grp u3 h3
  simp only [Bool.and_eq_true] at h
  obtain ⟨ho, h⟩ := h
  split at h <;> try contradiction
  rename_i ms hm
  simp only [List.all_eq_true, decide_eq_true_eq] at h
  exact ⟨hj, fun hw => hr.resolve_left (by simp [hw]), desc, head, grp, u1, u2, u3, h1, hg, ha, h2, h3, ho, ms, hm, h⟩

theorem complete_coll : Shown 6 6 0 anyImage (collReads false) :=
  shown (net 0 0 [(4, 0x1000)]) (by decide +kernel) trivial (collReads_of (by decide +kernel))
theorem complete_collArgmaxn : Shown 6 6 1 anyImage (collReads true) :=
  shown (net 1 0 [(4, 0x1040)]) (by decide +kernel) trivial (collReads_of (by decide +kernel))

theorem complete_frouteRead : Shown 6 6 5 (routeAction 0) fun t c => inJob t ∧ inPad t (fabRes c.image) 64 :=
  shown (net 5 0 [(15, 0x8000)]) (by decide +kernel) (by unfold routeAction; decide +kernel) (by unfold inJob inPad; decide +kernel)
theorem complete_frouteAttest :
    Shown 6 6 5 (routeAction 1) fun t c => inJob t ∧ ∃ bs u, Gets t (kvRead t.kvCtx (quarter c.image 1) 256) bs u ∧ pathOk bs = true ∧
      (t.mod.parts[t.partNo]).hasEthernet (bytesAt bs 0 1) = true :=
  shown (engineState onEthernet 6 (simple (image 6 5 1 [(4, 0x4000)]))) (by decide +kernel) (by unfold routeAction; decide +kernel)
    ⟨by unfold inJob; decide +kernel, _, _, gets_of (by decide +kernel), by decide +kernel, by decide +kernel⟩
theorem complete_frouteRevoke : Shown 6 6 5 (routeAction 2) fun t _ => inJob t :=
  shown (net 5 2 []) (by decide +kernel) (by unfold routeAction; decide +kernel) (by unfold inJob; decide +kernel)

end Sys2Proof.Tests
namespace Sys2Proof.Tests

open Sys2Proof Sys2Proof.Machine Sys2Proof.Claims

/-! ## Witnesses: where the commands of the key-value store complete -/

/-- The accesses of a chain, one after another. -/
def chainRun {α β : Type} [DecidableEq β] (f : α → KvM β) (v : β) : List α → State → Option State
  | [], t => some t
  | x :: xs, t =>
    match t.runKv (f x) with
    | .error _ => none
    | .ok (w, u) => if w = v then chainRun f v xs u else none

theorem chain_of {α β : Type} [DecidableEq β] {f : α → KvM β} {v : β} : ∀ {xs : List α} {t u : State}, chainRun f v xs t = some u → Chain t xs f v u
  | [], t, u, h => by cases h; exact ⟨fun _ => t, rfl, rfl, fun j x e => by simp at e⟩
  | x :: xs, t, u, h => by
    unfold chainRun at h
    split at h <;> try contradiction
    rename_i w m hm
    split at h <;> try contradiction
    rename_i hw
    subst hw
    obtain ⟨st, h0, hl, hs⟩ := chain_of h
    refine ⟨fun k => if k = 0 then t else st (k - 1), rfl, by simpa using hl, fun j y hy => ?_⟩
    cases j with
    | zero =>
      simp only [List.getElem?_cons_zero, Option.some.injEq] at hy
      subst hy
      simpa [h0] using hm
    | succ j => simpa using hs j y (by simpa using hy)

def chained {α β : Type} [DecidableEq β] (f : α → KvM β) (v : β) (xs : List α) (t : State) : State := (chainRun f v xs t).getD t

theorem chained_of {α β : Type} [DecidableEq β] {f : α → KvM β} {v : β} {xs : List α} {t : State} (h : (chainRun f v xs t).isSome = true) :
    Chain t xs f v (chained f v xs t) := chain_of (some_getD h)

theorem resultFits_of {t : State} {c : Command} (h : (!madWrites c.image || decide (madRes c.image + madResBytes c.image ≤ 262144 * t.core.ways)) = true) :
    resultFits t c := fun hw => by
  simp only [hw, Bool.not_true, Bool.false_or, decide_eq_true_eq] at h
  exact h

theorem complete_kvNew : Shown 5 5 0x00 (flag0 false) newSeq :=
  shown (store 0 0 [(8, 0x3000)]) (by decide +kernel) (by unfold flag0; decide +kernel)
    ⟨by decide +kernel, by decide +kernel, resultFits_of (by decide +kernel), _, _, _, _, _, _, some_getD (d := pool) (by decide +kernel), gets_of (by decide +kernel),
      by decide +kernel, chained_of (by decide +kernel), gets_of (by decide +kernel)⟩

theorem complete_kvNewPool : Shown 5 5 0x00 (flag0 true) newPool :=
  shown unregistered (by decide +kernel) (by unfold flag0; decide +kernel)
    ⟨by decide +kernel, by decide +kernel, resultFits_of (by decide +kernel), _, _, _, gets_of (by decide +kernel), by decide +kernel, by decide +kernel,
      by decide +kernel, chained_of (by decide +kernel)⟩

/-- The handle that the head of the store's queue names, read. -/
def named (s : State) : Seq × State := (readHandle (takenOf s 5).1 (madHandle (takenOf s 5).2.image)).getD (default, s)
theorem named_read {s : State} (h : (readHandle (takenOf s 5).1 (madHandle (takenOf s 5).2.image)).isSome = true) :
    HandleRead (takenOf s 5).1 (madHandle (takenOf s 5).2.image) (named s).1 (named s).2 := handleRead_of (some_getD h)

theorem complete_kvFork : Shown 5 5 0x01 anyImage forks :=
  shown (store 1 0 [(8, 0x5000)]) (by decide +kernel) trivial
    ⟨resultFits_of (by decide +kernel), by decide +kernel, _, _, _, _, _, named_read (by decide +kernel), gets_of (by decide +kernel), chained_of (by decide +kernel)⟩
theorem complete_kvFree : Shown 5 5 0x02 anyImage frees :=
  shown (store 2 0 []) (by decide +kernel) trivial
    ⟨resultFits_of (by decide +kernel), _, _, _, _, named_read (by decide +kernel), chained_of (by decide +kernel), gets_of (by decide +kernel)⟩
/-- A sequence of one position. -/
def settling (op : Nat) : State :=
  engineState (stateOf { part with pool := some pool } [(0x1001, 0x40), (0x1008, 1), (0x1014, 1), (0x1018, 1), (0x101E, 64), (0x1024, 1)]) 5 (stored op 0 [])

theorem complete_kvTrunc : Shown 5 5 0x03 anyImage truncates :=
  shown (settling 3) (by decide +kernel) trivial
    ⟨resultFits_of (by decide +kernel), _, _, _, named_read (by decide +kernel), by unfold settledAt; decide +kernel, gets_of (by decide +kernel)⟩
theorem complete_kvCommit : Shown 5 5 0x04 anyImage commits :=
  shown (settling 4) (by decide +kernel) trivial
    ⟨resultFits_of (by decide +kernel), _, _, _, named_read (by decide +kernel), by decide +kernel, by unfold settledAt; decide +kernel, gets_of (by decide +kernel)⟩
theorem complete_kvClass : Shown 5 5 0x05 anyImage classes :=
  shown (store 5 0 [(6, 2)]) (by decide +kernel) trivial
    ⟨resultFits_of (by decide +kernel), _, _, _, _, named_read (by decide +kernel), gets_of (by decide +kernel), chained_of (by decide +kernel)⟩

/-- SHA3-512 of no byte, as its standard gives it. -/
def digestOfNone : List Byte := (bytesOfNat 64 0x26CD1D2886857501E3D3B6959D1900F558C53A2C40E9E3114CF9F5F13A12B215A6805C47C1DCD1E05958E24F1682C9976E755A18DC67B5C8C59A3AA2CC739FA6)
/-- SHA3-512 of 2,592 zeros. -/
def digestOfSigner : List Byte := (bytesOfNat 64 0x5B52A57F91A3BE74B8DA86AFA0A3685749C3B1A0412480A6EC7E8C8F2CF8CFAF656EE6C1D90CFA48B7F6D8216E176649A725F1E393C8B1817CB9CB8F5BED88C8)

theorem complete_kvPromote : Shown 5 5 0x06 anyImage promotes :=
  shown (store 6 0 [(9, 0x20)]) (by decide +kernel) trivial
    ⟨by decide +kernel, resultFits_of (by decide +kernel), _, _, _, _, _, named_read (by decide +kernel), by decide +kernel, some_getD (d := pool) (by decide +kernel),
      eq_okVal (α := Place) (by decide +kernel), by decide +kernel, eq_okVal (α := State) (by decide +kernel)⟩
theorem complete_kvDemote : Shown 5 5 0x07 anyImage rangeIsEmpty :=
  shown (settling 7) (by decide +kernel) trivial
    ⟨by decide +kernel, resultFits_of (by decide +kernel), _, _, _, named_read (by decide +kernel), chained_of (by decide +kernel)⟩
theorem complete_kvSwref : Shown 5 5 0x0C anyImage rangeIsEmpty :=
  shown (settling 12) (by decide +kernel) trivial
    ⟨by decide +kernel, resultFits_of (by decide +kernel), _, _, _, named_read (by decide +kernel), chained_of (by decide +kernel)⟩

theorem complete_kvLend : Shown 5 5 0x0A (flag0 false) lends :=
  shown (store 10 0 []) (by decide +kernel) (by unfold flag0; decide +kernel)
    ⟨by decide +kernel, resultFits_of (by decide +kernel), by decide +kernel, by decide +kernel⟩
theorem complete_kvLendRecall : Shown 5 5 0x0A (flag0 true) recalls :=
  shown (store 10 1 []) (by decide +kernel) (by unfold flag0; decide +kernel)
    ⟨by decide +kernel, resultFits_of (by decide +kernel), by decide +kernel, _, some_getD (d := pool) (by decide +kernel), .inl (by decide +kernel)⟩
theorem complete_kvStat : Shown 5 5 0x0B anyImage fun t c => resultFits t c ∧ madHandle c.image = 0 ∧ ∃ p, poolIs t p :=
  shown (store 11 0 [(13, 0x8000)]) (by decide +kernel) trivial
    ⟨resultFits_of (by decide +kernel), by decide +kernel, _, some_getD (d := pool) (by decide +kernel)⟩

end Sys2Proof.Tests
namespace Sys2Proof.Tests

open Sys2Proof Sys2Proof.Machine Sys2Proof.Claims

/-! ### Export and import -/

/-- An empty sequence is exported to 0x8000 by a partition that has a binding. -/
def exporting : State :=
  engineState (stateOf { part with pool := some pool, binding := [1] }
      [(0x1001, 0x40), (0x1014, 1), (0x1018, 1), (0x101E, 64), (0x1024, 1)]) 5 (stored 8 0 [(8, 0x8000), (14, 8)])

/-- The translations and partitions of m0, no poison, and no tagged line in an L2. -/
def Calm (m0 m : Module) : Prop := m.tlb = m0.tlb ∧ m.parts = m0.parts ∧ m.poison = [] ∧ ∀ x ∈ m.l2, x.id = 0

theorem calm_evict {m0 m : Module} (h : Calm m0 m) {l : L2Line} (hl : l.id = 0) : Calm m0 (m.evict l) := by
  obtain ⟨ht, hp, hq, hx⟩ := h
  have e : m.evict l = Module.noteGone { m with l2 := m.l2.filter fun x => !x.tagged l.part l.id l.coord } (l.part, l.id, l.coord) := by
    simp [Module.evict, hl]
  rw [e]
  unfold Module.noteGone
  split <;> exact ⟨ht, hp, hq, fun x h => hx x (List.mem_filter.1 h).1⟩

theorem calm_line {m0 m : Module} (h : Calm m0 m) {v : L2Line} (hv : v.id = 0) (g) :
    Calm m0 { m with l2 := v :: m.l2.filter fun l => !l.tagged v.part v.id v.coord, gone := g } :=
  ⟨h.1, h.2.1, h.2.2.1, fun x hx => by
    rcases List.mem_cons.1 hx with rfl | hx
    · exact hv
    · exact h.2.2.2 x (List.mem_filter.1 hx).1⟩

theorem calm_setLine {m0 m : Module} (h : Calm m0 m) {v : L2Line} (hv : v.id = 0) : Calm m0 (setLine m v) := by
  unfold setLine
  refine calm_line ?_ hv _
  split
  · exact h
  · split
    · rename_i l hl
      refine calm_evict h (h.2.2.2 l ?_)
      exact (List.mem_filter.1 (List.mem_filter.1 (List.mem_of_getLast? hl)).1).1
    · exact h

theorem calm_dirtyFlat {m0 m : Module} (h : Calm m0 m) (n : Fin 16) (pa len : Nat) : Calm m0 (dirtyFlat m n pa len) := by
  unfold dirtyFlat
  generalize linesOf pa len = ls
  induction ls generalizing m with
  | nil => exact h
  | cons l ls ih =>
    refine ih ?_
    dsimp only
    split
    · exact calm_setLine h rfl
    · split
      · exact h
      · exact calm_setLine h rfl

theorem calm_l2Write {m0 m : Module} (h : Calm m0 m) (n : Fin 16) {pa : Nat} (hpa : pa < statusBase) (bs : List Byte) : Calm m0 (l2Write m n pa bs) := by
  have hs : ¬((decide (statusBase ≤ pa) && decide (pa < cxlBase)) = true) := by simp [Nat.not_le.2 hpa]
  have hd := calm_dirtyFlat h n pa bs.length
  unfold l2Write physWrite
  rw [if_neg hs, if_neg hs, hd.2.2.1, if_neg (by simp [clearPoison, poisonedIn])]
  exact ⟨hd.1, hd.2.1, rfl, hd.2.2.2⟩

theorem calm_note {m0 m : Module} (h : Calm m0 m) {die : Fin 24} {n : Fin 16} {va : Word} (pl : Place) (now : Nat)
    (hc : m0.tlb.any (·.covers die none n (vaBits va)) = true) : Calm m0 (noteAccess m die none n va pl false now) := by
  unfold noteAccess noteTagged noteLeaf
  rw [h.1, if_pos hc]
  split
  · exact h
  · dsimp only
    split
    · exact h
    · exact h

theorem calm_check {m0 m : Module} (h : Calm m0 m) {die : Fin 24} {n : Fin 16} {a : Access} {va : Word} {size : Nat}
    (hc : (cachedEntry m0 die none n (vaBits va)).isSome = true) : checkAccess m die none n a va size = checkAccess m0 die none n a va size := by
  have hl : leafOf m die none n (vaBits va) = leafOf m0 die none n (vaBits va) := by
    have he : cachedEntry m die none n (vaBits va) = cachedEntry m0 die none n (vaBits va) := by unfold cachedEntry; rw [h.1]
    unfold leafOf
    rw [he]
    cases hx : cachedEntry m0 die none n (vaBits va) with
    | none => rw [hx] at hc; cases hc
    | some e => rfl
  unfold checkAccess checkLeaf
  rw [hl, h.2.1]

/-- A line that may be written, whose translation the die holds. -/
def lineReady (m : Module) (c : KvCtx) (va : Nat) : Bool :=
  (cachedEntry m c.die none c.part (vaBits (BitVec.ofNat 64 va))).isSome && m.tlb.any (·.covers c.die none c.part (vaBits (BitVec.ofNat 64 va))) &&
  match checkAccess m c.die none c.part accWrite (BitVec.ofNat 64 va) 1 with
  | .error _ => false
  | .ok pl => decide (pl.pa < statusBase)

/-- What `kvWrite` does with one line. -/
def writeLine (c : KvCtx) (va : Nat) (bs : List Byte) (p : Nat × Nat × Nat) : KvM Unit := do
  let m ← get
  match checkAccess m c.die none c.part accWrite (BitVec.ofNat 64 p.2.1) 1 with
  | .error k => kvFail (mkFault k p.2.1)
  | .ok pl =>
    if poisonedIn (clearPoison m.poison pl.pa p.2.2) pl.pa p.2.2 then kvFail (mkFault 0x30 p.2.1)
    else set (l2Write (noteAccess m c.die none c.part (BitVec.ofNat 64 p.2.1) pl false c.now) c.part pl.pa
      ((bs.drop (p.2.1 - va)).take p.2.2))

theorem calm_writeLine {m0 m : Module} (h : Calm m0 m) {c : KvCtx} {va : Nat} {bs : List Byte} {p : Nat × Nat × Nat}
    (hp : lineReady m0 c p.2.1 = true) : ∃ u, Calm m0 u ∧ (writeLine c va bs p).run m = .ok ((), u) := by
  simp only [lineReady, Bool.and_eq_true] at hp
  obtain ⟨⟨h1, h2⟩, h3⟩ := hp
  split at h3
  · cases h3
  · rename_i pl hpl
    refine ⟨_, calm_l2Write (calm_note h pl c.now h2) c.part (of_decide_eq_true h3) ((bs.drop (p.2.1 - va)).take p.2.2), ?_⟩
    have hk : poisonedIn (clearPoison m.poison pl.pa p.2.2) pl.pa p.2.2 = false := by rw [h.2.2.1]; rfl
    rw [← calm_check h h1] at hpl
    show (match checkAccess m c.die none c.part accWrite (BitVec.ofNat 64 p.2.1) 1 with
      | .error k => kvFail (mkFault k p.2.1)
      | .ok pl =>
        if poisonedIn (clearPoison m.poison pl.pa p.2.2) pl.pa p.2.2 then kvFail (mkFault 0x30 p.2.1)
        else set (l2Write (noteAccess m c.die none c.part (BitVec.ofNat 64 p.2.1) pl false c.now) c.part pl.pa
          ((bs.drop (p.2.1 - va)).take p.2.2)) : KvM Unit) m = _
    rw [hpl]
    simp only [hk]
    rfl

theorem calm_writes {m0 : Module} {c : KvCtx} {va : Nat} {bs : List Byte} : ∀ {ps : List (Nat × Nat × Nat)} {m : Module}, Calm m0 m →
    (∀ p ∈ ps, lineReady m0 c p.2.1 = true) → ∃ r, (ps.forM (writeLine c va bs)).run m = .ok r
  | [], m, _, _ => ⟨_, rfl⟩
  | p :: ps, m, h, hp => by
    obtain ⟨u, hu, hw⟩ := calm_writeLine (va := va) (bs := bs) h (hp p (List.mem_cons_self ..))
    obtain ⟨r, hr⟩ := calm_writes (va := va) (bs := bs) hu fun q hq => hp q (List.mem_cons_of_mem _ hq)
    refine ⟨r, ?_⟩
    show (writeLine c va bs p m >>= fun x => (ps.forM (writeLine c va bs)) x.2) = _
    rw [show writeLine c va bs p m = .ok ((), u) from hw]
    exact hr

theorem kvWrite_ready {u : State} {c : KvCtx} {va n : Nat} (h : (decide (u.mod.poison = []) && (u.mod.l2.all fun x => decide (x.id = 0)) &&
    (lineParts va n).all fun p => lineReady u.mod c p.2.1) = true) {bs : List Byte} (hn : bs.length = n) : ∃ v, Gets u (kvWrite c va bs) () v := by
  simp only [Bool.and_eq_true, decide_eq_true_eq, List.all_eq_true] at h
  obtain ⟨⟨h1, h2⟩, h3⟩ := h
  subst hn
  obtain ⟨r, hr⟩ := calm_writes (m0 := u.mod) (m := { u.mod with fetched := [] }) (va := va) (bs := bs) ⟨rfl, rfl, h1, h2⟩ h3
  refine ⟨u.withModule r.2, ?_⟩
  have hw : (kvWrite c va bs).run { u.mod with fetched := [] } = .ok r := hr
  unfold Gets State.runKv
  rw [hw]

theorem complete_kvExport : Shown 5 5 0x08 anyImage exports :=
  shown exporting (by decide +kernel) trivial
    ⟨by decide +kernel, resultFits_of (by decide +kernel), by decide +kernel, by decide +kernel, by decide +kernel, _, _, named_read (by decide +kernel),
      fun bs hn => kvWrite_ready (n := 8192) (by decide +kernel) hn⟩

/-- The mordant record of no position at 0x10000, signed with a key of zeros, to be imported as the sequence whose image stands at 0x3000. -/
def mordant : List Byte :=
  padTo 208 (bytesOfNat 8 (0x4B564D52 + 2 ^ 32) ++ zeros 8 ++ bytesOfNat 8 (1 + 64 * 2 ^ 32) ++ zeros 120 ++ digestOfNone)
def importing : State :=
  engineState (stateOf { part with pool := some { pool with record := poolRecord.set 8 2 }, binding := zeros 112 ++ digestOfSigner }
    ([(0x1001, 0x40), (0x1014, 1), (0x1018, 1), (0x101E, 64), (0x1024, 1), (0x3009, 0x50), (0x3014, 1), (0x3018, 1), (0x301E, 64)] ++
      mordant.zipIdx.filterMap fun b => if b.1 = 0 then none else some (0x10000 + b.2, b.1))) 5 (stored 9 0 [(7, 1), (8, 0x3000)])

def imported : State × Command := takenOf importing 5
/-- What is read of the record: its bytes, and the state. -/
def mordantRead : List Byte × State :=
  okVal ((okVal (α := List Byte × State) (imported.1.runKv (kvRead imported.1.kvCtx (madAddr imported.2.image) 256))).2.runKv
    (kvRead imported.1.kvCtx (madArg0 imported.2.image + madArg1 imported.2.image * 2 ^ 32) 8192))
/-- The key that it is signed with: 2,592 zeros. -/
def mordantKey : List Byte := (mordantRead.1.drop 256).take 2592

/-- The signature is a condition on an opaque function (log entry 4). The digest of the key is the standard's; its 37 permutations
are not evaluated here. -/
theorem mordant_signed (hk : sha3 mordantKey = digestOfSigner)
    (h : Config.verify mordantKey (mordantRead.1.take 2848) ((mordantRead.1.drop 2848).take 4627) = true) :
    mordantSigned (zeros 112 ++ digestOfSigner) mordantRead.1 = true := by
  have hm : bytesAt mordantRead.1 0 8 = 0x4B564D52 + 2 ^ 32 := by decide +kernel
  have hd : ((((List.range 8).map fun j => padTo 64 ((zeros 112 ++ digestOfSigner).drop (112 + 64 * j))).filter fun d => d.any (· != 0)).contains
      digestOfSigner) = true := by decide +kernel
  have hb : (mordantRead.1.drop 32).take 112 = padTo 112 (zeros 112 ++ digestOfSigner) := by decide +kernel
  unfold mordantKey at hk h
  unfold mordantSigned
  dsimp only
  rw [hm, hk, hd, hb, h]
  simp only [decide_true, Bool.and_self]

theorem complete_kvImport (hk : sha3 mordantKey = digestOfSigner)
    (h : Config.verify mordantKey (mordantRead.1.take 2848) ((mordantRead.1.drop 2848).take 4627) = true) :
    Shown 5 5 0x09 anyImage imports :=
  shown importing (by decide +kernel) trivial (by
    have hb : (imported.1.mod.parts[imported.1.partNo]).binding = zeros 112 ++ digestOfSigner := by decide +kernel
    have hs := mordant_signed hk h
    show imports imported.1 imported.2
    unfold imports
    rw [hb]
    exact ⟨resultFits_of (by decide +kernel), by decide +kernel, _, _, mordantRead.1, _, _, _, _, _, _, _, some_getD (d := pool) (by decide +kernel),
      gets_of (by decide +kernel), by decide +kernel, gets_of (by decide +kernel), hs, by decide +kernel, by decide +kernel,
      by decide +kernel, gets_eq (v := some 1) (by decide +kernel) (by decide +kernel), chained_of (by decide +kernel), gets_of (by decide +kernel)⟩)

end Sys2Proof.Tests
namespace Sys2Proof.Tests

open Sys2Proof Sys2Proof.Machine Sys2Proof.Claims

/-! ## Witnesses: the store instructions of the A strand, and the controller's commands, where they complete -/

/-- The sequence of `oneToken`, and the state once its descriptor is read. -/
def tokenSeq : Seq × State := (readHandle (oneToken 0 0) 0).getD (default, live)

theorem tokenSeq_read : HandleRead (oneToken 0 0) 0 tokenSeq.1 tokenSeq.2 := handleRead_of (some_getD (d := (default, live)) (by decide +kernel))

/-- The steps of `rowsWritten`, as a test. -/
def rowsTest (k : KvCtx) (q : Seq) (a : Word) (p0 : Nat) (src : List Byte) (t : State) : Bool :=
  match t.runKv (kvStates k q (ctlLayer a) (ctlHead a) [p0 / 64]) with
  | .error _ => false
  | .ok (_, t1) => match t1.runKv (kvNamed k q (ctlLayer a) (ctlHead a) [p0 / 64]) with
    | .error _ => false
    | .ok (keep, t2) => match t2.runKv (kvPlan k q keep Taken.none (ctlLayer a) (ctlHead a) (p0 / 64)) with
      | .error _ => false
      | .ok ((plan, _), t3) => match t3.runKv (kvApply k q plan) with
        | .error _ => false
        | .ok (_, t4) => isOk (t4.runKv (kvWriteAll k q [(p0 / 64, plan)] p0 (ctlN a) src))

theorem rowsWritten_of {k : KvCtx} {q : Seq} {a : Word} {p0 : Nat} {src : List Byte} {t : State} (h : rowsTest k q a p0 src t = true) :
    ∃ fl u, rowsWritten k q a p0 src t fl u := by
  unfold rowsTest at h
  split at h <;> try contradiction
  rename_i v1 t1 h1
  split at h <;> try contradiction
  rename_i keep t2 h2
  split at h <;> try contradiction
  rename_i plan tk t3 h3
  split at h <;> try contradiction
  rename_i v4 t4 h4
  exact ⟨_, _, t1, t2, t3, t4, keep, plan, tk, h1, h2, h3, h4, gets_of h⟩

theorem complete_kvappend :
    ∃ (q : Seq) (t u : State) (fl : Flags), let s := oneToken 0 0
      Claims.storeReady s (s.xr 1) ((s.xr 2).toNat % 2 ^ 22) q t ∧ (s.xr 1).getLsbD 63 = false ∧ (s.xr 2).toNat < 2 ^ 22 ∧
      q.end_ + ctlN (s.xr 1) ≤ 64 * q.pages ∧ q.end_ + ctlN (s.xr 1) ≤ q.w ∧ q.end_ % 64 + ctlN (s.xr 1) ≤ 64 ∧
      rowsWritten s.kvCtx q (s.xr 1) q.end_ (s.spRead ((s.xr 2).toNat % 2 ^ 22) (2 * ctlN (s.xr 1) * q.d * 2)) t fl u := by
  obtain ⟨fl, u, h⟩ := rowsWritten_of (k := (oneToken 0 0).kvCtx) (q := tokenSeq.1) (a := (oneToken 0 0).xr 1) (p0 := tokenSeq.1.end_)
    (src := (oneToken 0 0).spRead (((oneToken 0 0).xr 2).toNat % 2 ^ 22) (2 * ctlN ((oneToken 0 0).xr 1) * tokenSeq.1.d * 2)) (t := tokenSeq.2) (by decide +kernel)
  exact ⟨tokenSeq.1, tokenSeq.2, u, fl, ⟨tokenSeq_read, by decide +kernel, by decide +kernel, by decide +kernel, by decide +kernel, by decide +kernel⟩,
    by decide +kernel, by decide +kernel, by decide +kernel, by decide +kernel, by decide +kernel, h⟩

theorem complete_kvput :
    ∃ (q : Seq) (t u : State) (fl : Flags), let s := oneToken 0 0
      Claims.storeReady s (s.xr 1) ((s.xr 2).toNat % 2 ^ 22) q t ∧ (s.xr 1).getLsbD 63 = false ∧ (s.xr 2).toNat / 2 ^ 22 % 2 ^ 10 = 0 ∧
      (s.xr 1).getLsbD 62 = false ∧ (s.xr 2).toNat / 2 ^ 32 + ctlN (s.xr 1) ≤ q.end_ ∧ (s.xr 2).toNat / 2 ^ 32 % 64 + ctlN (s.xr 1) ≤ 64 ∧
      rowsWritten s.kvCtx q (s.xr 1) ((s.xr 2).toNat / 2 ^ 32) (s.spRead ((s.xr 2).toNat % 2 ^ 22) (2 * ctlN (s.xr 1) * q.d * 2)) t fl u := by
  obtain ⟨fl, u, h⟩ := rowsWritten_of (k := (oneToken 0 0).kvCtx) (q := tokenSeq.1) (a := (oneToken 0 0).xr 1) (p0 := ((oneToken 0 0).xr 2).toNat / 2 ^ 32)
    (src := (oneToken 0 0).spRead (((oneToken 0 0).xr 2).toNat % 2 ^ 22) (2 * ctlN ((oneToken 0 0).xr 1) * tokenSeq.1.d * 2)) (t := tokenSeq.2) (by decide +kernel)
  exact ⟨tokenSeq.1, tokenSeq.2, u, fl, ⟨tokenSeq_read, by decide +kernel, by decide +kernel, by decide +kernel, by decide +kernel, by decide +kernel⟩,
    by decide +kernel, by decide +kernel, by decide +kernel, by decide +kernel, by decide +kernel, h⟩

/-- A sequence without pages. -/
theorem complete_kvinv :
    ∃ (q : Seq) (t u : State), let s := appending 0 0
      HandleRead s (ctlHandle (s.xr 1)) q t ∧ (s.xr 1).toNat / 2 ^ 32 % 64 = 0 ∧
      Chain s (entriesOf q [(s.xr 1).toNat / 2 ^ 32 / 64]) (fun at_ => kvNat s.kvCtx at_ 8) 0 u :=
  ⟨_, _, _, handleRead_of (some_getD (d := (default, live)) (by decide +kernel)), by decide +kernel, chained_of (by decide +kernel)⟩

theorem complete_seqbind : ∃ (q : Seq) (t : State), let s := appending 0 0
    HandleRead s (s.xr 1).toNat q t ∧ (s.xr 1).toNat < 2 ^ 32 :=
  ⟨_, _, handleRead_of (some_getD (d := (default, live)) (by decide +kernel)), by decide +kernel⟩

/-! ### The controller -/

def ctlRead (s : State) (va n : Nat) : Except EngineFault (List Byte × State) := s.ctlKv fun k => kvRead k va n

theorem ctlReads_of {s : State} {va n : Nat} (h : isOk (ctlRead s va n) = true) :
    CtlReads s va n (okVal (α := List Byte × State) (ctlRead s va n)).1 (okVal (α := List Byte × State) (ctlRead s va n)).2 :=
  eq_okVal (α := List Byte × State) h

def rangesOf (lb : List Byte) (n : Nat) : Option (List Range) := (List.range n).mapM fun j => parseRange ((lb.drop (32 * j)).take 32)

/-- What a launch reads, as a test. -/
def launchTest (s : State) (header record : Nat) (take : Bool) : Bool :=
  match ctlRead s record 128 with
  | .error _ => false
  | .ok (rb, s1) => match ctlRead s1 header 128 with
    | .error _ => false
    | .ok (hb, s2) => match parseHeader header hb with
      | none => false
      | some h => recordOk rb h.widths &&
        (!take || (decide ((parseRecord rb).wbase = 0) && ((parseRecord rb).ext.all fun e => decide (e = 0)) && decide (h.widths = [64]))) &&
        h.overdemand.isNone && match ctlRead s2 (bytesAt rb 96 8) (32 * bytesAt rb 104 8) with
          | .error _ => false
          | .ok (lb, _) => (rangesOf lb (bytesAt rb 104 8)).isSome

theorem launchRead_of {s : State} {header record : Nat} {take : Bool} (h : launchTest s header record take = true) :
    ∃ hd r ranges v, launchRead s header record take hd r ranges v := by
  unfold launchTest at h
  split at h <;> try contradiction
  rename_i rb s1 h1
  split at h <;> try contradiction
  rename_i hb s2 h2
  split at h <;> try contradiction
  rename_i hd h3
  simp only [Bool.and_eq_true, Bool.or_eq_true, Bool.not_eq_true', List.all_eq_true, decide_eq_true_eq, Option.isNone_iff_eq_none] at h
  obtain ⟨⟨⟨hr, ht⟩, ho⟩, h⟩ := h
  split at h <;> try contradiction
  rename_i lb v h4
  exact ⟨hd, _, _, _, rb, hb, lb, s1, s2, h1, h2, h3, hr, rfl,
    fun e => by have := ht.resolve_left (by simp [e]); exact ⟨this.1.1, this.1.2, this.2⟩, h4, some_getD (d := []) h, ho⟩

def launching : Command := order 0 0 [(4, 0x1000), (8, 0x2000)]
theorem complete_klaunch : ∃ s h r ranges v, HeadActs s 0 launching ∧
    launchRead (dropped s launching) (quarter launching.image 1) (quarter launching.image 2) false h r ranges v := by
  obtain ⟨h, r, ranges, v, hl⟩ := launchRead_of (s := dropped (ordered launchMem launching) launching) (header := quarter launching.image 1)
    (record := quarter launching.image 2) (take := false) (by decide +kernel)
  exact ⟨_, h, r, ranges, v, headActs_of (s := ordered launchMem launching) (by decide +kernel), hl⟩

def takingCommand : Command := order 4 0 [(4, 0x1000), (8, 0x3000)]
/-- The set is open. -/
def opened3 : State := { takes true with ctl := { (takes true).ctl with sets := [wset true false] } }
theorem complete_wlTake : ∃ s w h r ranges v, HeadActs s 4 takingCommand ∧ s.asController.setOf (some (quarter takingCommand.image 2)) = some w ∧ w.record ≠ 0 ∧
    w.record % 128 = 0 ∧ launchRead ((setAgain s (quarter takingCommand.image 2)).ctlDrop takingCommand) (quarter takingCommand.image 1) w.record true h r ranges v := by
  obtain ⟨h, r, ranges, v, hl⟩ := launchRead_of (s := (setAgain opened3 (quarter takingCommand.image 2)).ctlDrop takingCommand)
    (header := quarter takingCommand.image 1) (record := (wset true false).record) (take := true) (by decide +kernel)
  exact ⟨opened3, wset true false, h, r, ranges, v, headActs_of (by decide +kernel), by decide +kernel, by decide +kernel, by decide +kernel, hl⟩

theorem complete_clusterCommands :
    HeadActs (ordered [] (order 1 0 [(12, 128)])) 1 (order 1 0 [(12, 128)]) ∧ noneActs (ordered [] (order 1 0 [(12, 128)])) .stream ∧
    (∃ s w, HeadActs s 3 (order 3 0 [(4, 0x5000), (8, 0x3000), (12, 1)]) ∧ s.asController.appending = none ∧
      s.asController.setOf (some (quarter (order 3 0 [(4, 0x5000), (8, 0x3000), (12, 1)]).image 2)) = some w) ∧
    (∃ s bs u r, HeadActs s 7 (order 7 0 [(4, 0x1000)]) ∧ noneActs s .accept ∧
      CtlReads s.asController (quarter (order 7 0 [(4, 0x1000)]).image 1) 64 bs u ∧ parseAccept bs = some r) := by
  have hr : ∃ r, parseAccept (okVal (α := List Byte × State) (ctlRead (ordered acceptMem (order 7 0 [(4, 0x1000)])).asController
      (quarter (order 7 0 [(4, 0x1000)]).image 1) 64)).1 = some r := Option.isSome_iff_exists.1 (by decide +kernel)
  obtain ⟨r, hr⟩ := hr
  unfold noneActs
  exact ⟨headActs_of (by decide +kernel), by decide +kernel,
    ⟨{ ordered (setMem false) (order 3 0 [(4, 0x5000), (8, 0x3000), (12, 1)]) with
        ctl := { (ordered (setMem false) (order 3 0 [(4, 0x5000), (8, 0x3000), (12, 1)])).ctl with sets := [wset true false] } },
      wset true false, headActs_of (by decide +kernel), by decide +kernel, by decide +kernel⟩,
    ⟨ordered acceptMem (order 7 0 [(4, 0x1000)]), _, _, r, headActs_of (by decide +kernel), by decide +kernel, ctlReads_of (by decide +kernel), hr⟩⟩

/-- The reads of a graph's nodes, one after another. -/
def nodesRun (k : KvCtx) (base : Nat) : Nat → Module → Module
  | 0, m => m
  | n + 1, m => (okVal (α := List Byte × Module) ((kvRead k (base + 32 * n) 32).run (nodesRun k base n m))).2

def nodeTest (k : KvCtx) (base : Nat) (m : Module) (n : Nat) : Bool :=
  match (kvRead k (base + 32 * n) 32).run (nodesRun k base n m) with
  | .error _ => false
  | .ok (bs, _) => decide (bytesAt bs 24 8 = 0) && decide (bytesAt bs 16 8 = 0)

def graphTest (k : KvCtx) (va : Nat) (m : Module) : Bool :=
  match (kvRead k va 64).run m with
  | .error _ => false
  | .ok (g, m1) => decide (bytesAt g 12 4 = 0) && decide (bytesAt g 32 32 = 0) && decide (1 ≤ bytesAt g 8 4) && decide (bytesAt g 8 4 ≤ 4096) &&
    ctlAddrOk (bytesAt g 0 8) 32 && (List.range (bytesAt g 8 4)).all (nodeTest k (bytesAt g 0 8) m1)

theorem plainGraph_of {k : KvCtx} {va : Nat} {m : Module} (h : graphTest k va m = true) : plainGraph k va m := by
  unfold graphTest at h
  split at h
  · cases h
  · rename_i g m1 h1
    simp only [Bool.and_eq_true, decide_eq_true_eq, List.all_eq_true, List.mem_range] at h
    obtain ⟨⟨⟨⟨⟨ha, hb⟩, hc⟩, hd⟩, he⟩, hn⟩ := h
    refine ⟨g, m1, _, h1, ha, hb, hc, hd, he, fun n => nodesRun k (bytesAt g 0 8) n m1, rfl, rfl, fun i hi => ?_⟩
    have := hn i hi
    unfold nodeTest at this
    split at this
    · cases this
    · rename_i bs u hr
      simp only [Bool.and_eq_true, decide_eq_true_eq] at this
      refine ⟨bs, ?_, this.1, this.2⟩
      show _ = Except.ok (bs, (okVal (α := List Byte × Module) ((kvRead k (bytesAt g 0 8 + 32 * i) 32).run (nodesRun k (bytesAt g 0 8) i m1))).2)
      rw [hr]
      rfl

def replaying : Command := order 2 0 [(4, 0x3000)]
theorem complete_graphReplay : ∃ s n, HeadActs s 2 replaying ∧ s.asController.replayOver = none ∧ s.ctl.replaying = [] ∧
    s.partOfCluster (6 * s.ctl.die.val + s.ctl.number.val) = some n ∧ plainGraph ⟨s.ctl.die, n, s.cycle, none, [], false⟩ (quarter replaying.image 1) s.mod :=
  ⟨ordered graphMem replaying, 0, headActs_of (by decide +kernel), by decide +kernel, by decide +kernel, by decide +kernel, plainGraph_of (by decide +kernel)⟩

/-- Jumps by the immediate index, by the acceptance's and by one that is read; a table that is read. -/
def jumpCmd (mode : Nat) : Command := order 6 0 [(8, mode)]
theorem complete_fragJump :
    (HeadActs (jumping (jumpCmd 0) 0x40) 6 (jumpCmd 0) ∧ hw (jumpCmd 0).image 8 = 0 ∧ leads (jumping (jumpCmd 0) 0x40) (hw (jumpCmd 0).image 9)) ∧
    (HeadActs (jumping (jumpCmd 1) 0x40) 6 (jumpCmd 1) ∧ hw (jumpCmd 1).image 8 = 1 ∧
      leads (jumping (jumpCmd 1) 0x40) (jumping (jumpCmd 1) 0x40).ctl.acceptance.toNat) ∧
    (HeadActs (jumping (jumpCmd 2) 0x40) 6 (jumpCmd 2) ∧ 2 ≤ hw (jumpCmd 2).image 8 ∧
      ∃ bs u, CtlReads (jumping (jumpCmd 2) 0x40).asController (quarter (jumpCmd 2).image 1) 4 bs u ∧ leads (jumping (jumpCmd 2) 0x40) (natOfBytes bs)) ∧
    (HeadActs (jumping (order 6 1 []) 0x40) 6 (order 6 1 []) ∧ flagOf (order 6 1 []).image 0 = true ∧ sigEn (order 6 1 []).image = false ∧
      ∃ bs u, CtlReads (jumping (order 6 1 []) 0x40).asController (quarter (order 6 1 []).image 1) 64 bs u) := by
  unfold leads
  exact ⟨⟨headActs_of (by decide +kernel), by decide +kernel, by decide +kernel⟩, ⟨headActs_of (by decide +kernel), by decide +kernel, by decide +kernel⟩,
    ⟨headActs_of (by decide +kernel), by decide +kernel, _, _, ctlReads_of (by decide +kernel), by decide +kernel⟩,
    ⟨headActs_of (by decide +kernel), by decide +kernel, by decide +kernel, _, _, ctlReads_of (by decide +kernel)⟩⟩

end Sys2Proof.Tests
namespace Sys2Proof.Tests

open Sys2Proof Sys2Proof.Machine Sys2Proof.Claims

/-! ## Witnesses: further clauses of the statements about strands -/

/-- One result falls due, over two masks. -/
def bringing (e : Effect) : State :=
  strandWith fun f => { f with masks := [3, 1], results := [⟨e, 2, live.cycle, false, none, 0, false, false⟩] }

theorem witness_OtherResults :
    (∀ e, e ∈ [Effect.flagsOnly, .pred 3 true, .vec [(4, 7), (5, 8)] 1, .maskPush 9, .maskTop 9, .maskPop, .template 2 5 3, .lut 6, .sysreg 0x011 5] →
      (bringing e).strand.results = [⟨e, 2, (bringing e).cycle, false, none, 0, false, false⟩]) ∧
    (([(4, 7), (5, 8)] : List (Fin 64 × VReg)).map Prod.fst).Nodup ∧ (bringing .maskPop).strand.masks = 3 :: [1] ∧
    0x011 ∈ writableSys := by decide

/-- A region whose start is past the pinned ways, and one behind a copy-back. -/
theorem witness_SpeculationRefused :
    (let s := withX [(1, 0x80000), (2, 256)]
     canTrap s ∧ (s.xr 1).toNat % 128 = 0 ∧ (s.xr 2).toNat % 128 = 0 ∧ (s.xr 2).toNat ≠ 0 ∧ s.spSize < (s.xr 1).toNat + (s.xr 2).toNat) ∧
    (let s := (withX [(2, 256)]).onStrand fun f => { f with copyBack := some 9 }
     (s.xr 2).toNat = 256 ∧ s.strand.spec = false ∧ s.strand.copyBack.isSome = true) :=
  ⟨⟨canTrap_of _ (by decide), by decide, by decide, by decide, by decide⟩, by decide, by decide, by decide⟩

/-- A body that is a `TRAP` with a bit set in an unused field. -/
def badBody : State :=
  { nesting 3 with core := { (nesting 3).core with istore := [(5, 0x40), (7, 0x80)] } }

theorem witness_LoopNestTraps :
    nestDescOk ((nesting 0).nestDesc 2) 1 1 = true ∧ (nesting 0).fetchBody 1 4 = .ok [[0x80000000]] ∧ nestTrips ((nesting 0).nestDesc 2) = 0 ∧
    nestDescOk ((nesting (2 ^ 134)).nestDesc 2) 1 1 = false ∧ canTrap (nesting (2 ^ 134)) ∧
    nestDescOk (badBody.nestDesc 2) 1 0 = true ∧ (∃ c tval orig, c < 256 ∧ badBody.fetchBody 1 4 = .error (c, tval, orig)) ∧ canTrap badBody :=
  ⟨by decide, rfl, by decide, by decide, canTrap_of _ (by decide), by decide, ⟨_, _, _, by decide, rfl⟩, canTrap_of _ (by decide)⟩

/-- A ring whose definition of two cycles ahead stands behind the one in use. -/
theorem witness_RingDefinitions :
    inOrder live.core.ring[(0 : Fin 8)] live.cycle ∧ inOrder ⟨0x80000100, [(2, some 0x80000300)]⟩ 0 := by
  unfold inOrder
  decide

/-- The data of an `LDQ` that come poisoned; a report to an A strand that has ended its part. -/
theorem witness_StrandEventsRestarted :
    (∃ es e, (queued [⟨7, 0, true, true, 0, 0⟩]).filling = some (4, es, e) ∧ e.poison = true) ∧
    (let s := strandWith fun f => { f with reports := [(1, 5)], run := .ended, endGroup := 8 }
     s.strand.reports = [(1, 5)] ∧ canTrap s ∧ s.strand.run = .ended ∧ s.who = .a ∧ s.core.task = some task) ∧
    (let s := strandWith fun f => { f with held := [(64, 8)] }
     canTrapOn s ∧ s.coreHalted = false ∧ s.strand.poisons = [] ∧ s.strand.held = [(64, 8)]) :=
  ⟨⟨_, _, rfl, by decide⟩, ⟨by decide, canTrap_of _ (by decide), by decide, by decide, by decide⟩,
    canTrap_of _ (by decide), by decide, by decide, by decide⟩

/-! ## Witnesses: commands that go on, and collectives that are complete -/

/-- An attention command that waited at its cursor. -/
def goingOn : State :=
  { withPool with core := { withPool.core with queue := withPool.core.queue.set 7 { Queue.empty with
      started := [{ attending (image 2 1 1 [(15, 0x3F80)]) with paused := true }] } } }

theorem witness_GoesOn :
    (match goingOn.headState 7 with
      | .resumes c => decide (engineOfImage c.image = 2) && decide (opOf c.image = 1) &&
        isOk (attEffect (goingOn.putQueue false 7 ((goingOn.core.queue[(7 : Fin 8)]).remove c.seq)) c)
      | _ => false) = true := by decide +kernel

/-- The operation of a collective whose ranks have both sent an element, and its command. -/
def finishing : State := collState (collective true false [(0, [1, 2, 3, 4]), (1, [1, 0, 0, 0])]) []

theorem witness_CollectiveDone :
    (match finishing.meeting with
      | some o => o.met && decide (o.die = finishing.core.die) && decide (o.cluster = finishing.core.cluster) && decide (o.core = finishing.core.number) &&
        (match (finishing.core.queue[(6 : Fin 8)]).started.find? (fun c => c.seq = o.seq) with
          | some c => isOk (collectiveDone finishing o c)
          | none => false)
      | none => false) = true := by decide +kernel

/-! ## Witnesses: the controller, the debugger, the host, power and checkpoints -/

/-- The core's task, of the tag of a command that cancels it or changes its priority. -/
def taggedTask (c : Command) : State :=
  let s := ordered [] c
  { s with
    core := { s.core with task := some { task with launch := 144, request := some 0 } }
    ctl := { s.ctl with entries := [{ overEntry .launch false false with tag := 7 }] } }

theorem witness_Tagged :
    HeadActs (taggedTask (order 8 0 [(4, 7), (5, 3)])) 8 (order 8 0 [(4, 7), (5, 3)]) ∧ (taggedTask default).ctl.tagged 7 = [144] ∧
    HeadActs (taggedTask (order 9 1 [(4, 7)])) 9 (order 9 1 [(4, 7)]) ∧ flagOf (order 9 1 [(4, 7)]).image 0 = true :=
  ⟨headActs_of (by decide +kernel), by decide +kernel, headActs_of (by decide +kernel), by decide +kernel⟩

theorem witness_CancelledTasks :
    (tasked fun t => { swapping t with cancelled := true }).asController.endedGroup false = some ({ swapping task with cancelled := true }, [0]) ∧
    (tasked fun t => { t with cancelled := true, forced := true }).asController.stopping = some ({ task with cancelled := true, forced := true }, [0]) ∧
    (tasked fun t => { t with cancelled := true }).asController.escalating = some ({ task with cancelled := true }, [0]) := by decide +kernel

theorem witness_PowerScrub :
    let s (j : Nat) : State := { State.reset with mod := { Module.reset with scrubbed := false, powerScrub := [(0, j)] } }
    (s 31).mod.powered = true ∧ (∀ m : Fin 16, ((s 31).mod.parts[m]).state ≠ .scrubbing) ∧
    (2 * (0 : Fin 24).val + (0 : Fin 2).val, 31) ∈ (s 31).mod.powerScrub ∧ (s 31).mod.ready = false ∧
    (2 * (0 : Fin 24).val + (0 : Fin 2).val, 0) ∈ (s 0).mod.powerScrub := by decide +kernel

/-- A strand without replay entries has none that begin to count. -/
theorem leaving_of_replays (s : State) (w : Who) (h : (s.strandOf w).replays.isEmpty = true) : s.leaving w = s := by
  simp [State.leaving, h]

theorem witness_Passed : turnOrder { live with turn := .t } ≠ [] ∧ ∀ v, v ∈ turnOrder { live with turn := .t } → passedBy { live with turn := .t } v := by
  have h : ∀ v, v ∈ turnOrder { live with turn := .t } → mayIssue { live with turn := .t } v = false ∧ mayPoison { live with turn := .t } v = false ∧
      mayReport { live with turn := .t } v = false ∧ mustCapture exec (acting { live with turn := .t } v) v = false ∧
      ((acting { live with turn := .t } v).strandOf v).replays.isEmpty = true := by decide +kernel
  exact ⟨by decide +kernel, fun v hv => ⟨(h v hv).1, (h v hv).2.1, (h v hv).2.2.1, (h v hv).2.2.2.1, leaving_of_replays _ v (h v hv).2.2.2.2⟩⟩

theorem witness_CheckpointStopped :
    ({ checkpointing 1 1 .live with core := Core.reset 0 0 0 } : State).quiesced part = true ∧ (checkpointing 1 1 .live).quiesced part = false := by decide +kernel

/-! ## Tests: whole rules in one step -/

/-- Record 1, a page on its way in; its move ends. -/
def inTransit : Page :=
  { (default : Page) with valid := 1, format := 3, state := 2, refcount := 1, scales := List.replicate 256 0, swatch := List.replicate 512 0 }
def bringsIn : State :=
  { withPool with mod := { withPool.mod with
    mem := Memory.write withPool.mod.mem (pool.recAt 1) (pageBytes inTransit)
    parts := live.mod.parts.set 0 { part with pool := some { pool with moves := [moving], narrow := [1] } } } }

/-- R404, R406, R423: format 3, and of state IN_TRANSIT and tier 0 the page becomes RESIDENT when its move has ended. -/
theorem test_move_ends_resident :
    bringsIn.mod.mem.nat (pool.recAt 1 + 40) 2 = 0x23 ∧ (after .moveInwardComplete bringsIn).mod.mem.nat (pool.recAt 1 + 40) 2 = 0x13 := by decide +kernel

/-- R388, R430: packet 2^32 of an epoch is packet 0 of the next. -/
theorem test_packet_numbers :
    let m : Module := { Module.reset with lanes := Module.reset.lanes.set 0 { Module.reset.lanes[(0 : Fin 24)] with sent := 2 ^ 32 } }
    ((m.onWire 0 0 default).sent.map (·.number)) = [0] ∧ ((m.onWire 0 0 default).lanes[(0 : Fin 24)]).epoch = m.lanes[(0 : Fin 24)].epoch + 1 := by
  decide +kernel

/-- R54, R57: a flag that the op code does not define. THRESH is SSEL's, FIN is not. -/
theorem test_flags_of_operation :
    imageCheck .x ⟨64, 64, true⟩ 4 (image 2 1 0x10 []) 0 = some 0x07 ∧ imageCheck .x ⟨64, 64, true⟩ 4 (image 2 1 0x04 []) 0 = none := by decide +kernel

/-- R77, R111: `DBNZ.G` adds a result only where it writes. -/
theorem test_dbnzG_results : newResults live (.dbnzG 1 0) = 0 ∧ newResults (withX [(1, 5)]) (.dbnzG 1 0) = 1 := by decide

/-- R352: a flag raised in the cycle of a store to its status word is ORed in after the store. -/
theorem test_status_store : ((l2Write (orStatus Module.reset 0 0 4) 0 statusBase (zeros 8)).status[(0 : Fin 384)]) = 4 := by decide +kernel

/-- R222: after a definition in cycle 0 and another in cycle 1, a claim in cycle 2 uses the first and one in cycle 3 the second. -/
theorem test_two_definitions :
    let r := (Ring.redefine (Ring.redefine ⟨0, []⟩ 0 (some 0x80000100)) 1 (some 0x80000300))
    r.at 1 = 0 ∧ ringCount (r.at 2) = 2 ∧ ringCount (r.at 3) = 4 := by decide

end Sys2Proof.Tests
end

section
/-! PROOFS. The two privilege levels of a strand (03_strand.md, R70, R73, R86): task start, trap entry of a strand that can take a trap,
return, and the check that refuses a privileged form. -/

namespace Sys2Proof.Machine

open Sys2Proof.Claims

/-! ## Trap entry (R84) -/

/-- Where no result in flight is poisoned, the strand waits for no poison arrival. -/
theorem Strand.poisoned_of_none {f : Strand} (h : ∀ r, r ∈ f.results → r.poison = none) : f.poisoned = [] := by
  have hnone : (f.results.filter fun r => !r.written && r.poison.isSome) = [] :=
    List.filter_eq_nil_iff.mpr fun r hr => by simp [h r hr]
  rw [Strand.poisoned, hnone, List.foldl_nil]

/-- A strand that can take a trap finds no poison arrival at its entry. -/
theorem State.arriving_of_canTrap {s : State} (h : canTrap s) : s.arriving = [] := by
  obtain ⟨-, -, -, hnoted, hresults, hloads, -⟩ := h
  have hqueues : (if s.who = .a then s.core.poisonedLoads else []) = [] := by
    split
    · next ha => exact hloads ha
    · rfl
  simp [State.arriving, hnoted, hqueues, Strand.poisoned_of_none hresults]

/-- The strand after trap entry, from the strand before it, where no poison has arrived or is in flight (R84). -/
def Strand.trapped (f : Strand) (now addr : Nat) (c : Cause) : Strand :=
  { f with
    epc := BitVec.ofNat 64 addr, cause := c.code.zeroExtend 64, tval := c.tval
    ppl := f.pl, pl := true, th := true, rq := true
    pc := f.handler.toNat, nest := none, results := f.results.filter (·.written), replays := []
    replayStore := wideSlots (captured now f), run := .running, stall := 0 }

/-- A strand that can take a trap enters its handler, with the cause it was given: there is no double trap (R85), and no poison arrival
replaces the cause (R264). -/
theorem State.trapAt_strand_of_canTrap {s : State} (h : canTrap s) (now addr : Nat) (c : Cause) :
    (s.trapAt now addr c).strand = s.strand.trapped now addr c := by
  have harr := State.arriving_of_canTrap h
  obtain ⟨hth, hstore, harea, hnoted, hresults, -, -⟩ := h
  have hrq : (s.strand.rq && !s.strand.replayStore.isEmpty) = false := by
    obtain hrq | hempty := hstore
    · simp [hrq]
    · simp [hempty]
  have hroom : ¬ s.spSize < s.strand.traparea.toNat + 4096 := by omega
  have hkept : (s.strand.results.filter fun r => r.written || r.poison.isNone) = s.strand.results :=
    List.filter_eq_self.mpr fun r hr => by simp [hresults r hr]
  simp only [State.trapAt, harr, hkept, List.head?_nil, ite_self, Option.isSome_none, Bool.false_eq_true, if_false, Option.map_none,
    Option.getD_none, List.append_nil, hth, hrq, Bool.or_self, State.spSize_setStrand, State.filled_spSize, hroom, State.strand_setStrand,
    Strand.trapped, hnoted]
  -- the captured queue is the same: it is made of the results in flight and the replay entries alone
  rfl

/-- A raised cause, on a strand that can take a trap, leaves the strand in its handler. -/
theorem State.raise_strand_of_canTrap {s : State} (h : canTrap s) (code : Nat) (tval orig : Word) :
    ∃ t, s.raise code tval orig = .next t ∧
      t.strand = s.strand.trapped s.cycle s.grp.addr ⟨BitVec.ofNat 8 code, tval, orig, 0, false⟩ :=
  ⟨_, s.raise_next code tval orig, by rw [State.strand_verdict, State.trapAt_strand_of_canTrap h]⟩

/-! ## The check of one instruction (R38) -/

/-- An instruction of the right form on a strand that has it can be refused for its privilege alone. -/
theorem checkItem_of_strandOk {w : Who} {lim : Limits} {i : Instr} (hform : strandFormOk w lim i = true) (hstrand : strandOk w i = true)
    (pl : Bool) (addr syl : Nat) :
    checkItem w lim pl ⟨addr, syl, .ok i⟩ =
      if needsPrivilege i && !pl then some (0x05, BitVec.ofNat 64 addr, BitVec.ofNat 64 syl) else none := by
  simp [checkItem, findingAt, hform, hstrand]

/-- No privileged form has an operand that a strand or a task restricts (R40, R72). -/
theorem strandFormOk_of_needsPrivilege (w : Who) (lim : Limits) {i : Instr} (h : needsPrivilege i = true) :
    strandFormOk w lim i = true := by
  unfold needsPrivilege at h
  split at h
  case h_9 => exact absurd h Bool.false_ne_true
  all_goals cases w <;> rfl

/-- A privileged form, on a strand that has it, is refused at user level and passes at privileged level (R70). -/
theorem checkItem_of_needsPrivilege {w : Who} {i : Instr} (hstrand : strandOk w i = true) (hpriv : needsPrivilege i = true) (lim : Limits)
    (addr syl : Nat) :
    checkItem w lim false ⟨addr, syl, .ok i⟩ = some (0x05, BitVec.ofNat 64 addr, BitVec.ofNat 64 syl) ∧
    checkItem w lim true ⟨addr, syl, .ok i⟩ = none := by
  simp [checkItem_of_strandOk (strandFormOk_of_needsPrivilege w lim hpriv) hstrand, hpriv]

/-- Major 0x34 is legal on the A strand and the controller (R45, R289). -/
theorem strandOk_of_privileged {w : Who} {i : Instr} (hw : w = .a ∨ w = .c) (h : groupOf i = .privileged) : strandOk w i = true := by
  obtain rfl | rfl := hw <;> simp only [strandOk, h]

/-- Control transfers, `ERET` among them, are legal on every strand. -/
theorem strandOk_of_control (w : Who) {i : Instr} (h : groupOf i = .control) : strandOk w i = true := by
  simp only [strandOk, h]

/-- The scalar forms, `RDSR` and `WRSR` among them, are legal on every strand. -/
theorem strandOk_of_scalar (w : Who) {i : Instr} (h : groupOf i = .scalar) : strandOk w i = true := by
  simp only [strandOk, h]

/-- Reading a register of R73 needs privilege from number 8 on. -/
theorem needsPrivilege_rdsr {n : Fin 4096} (h : 8 ≤ n.val) (d : Fin 64) : needsPrivilege (.rdsr d n) = true :=
  decide_eq_true h

/-- Writing a register of R73 needs privilege from number 8 on, and for `sr.status`. -/
theorem needsPrivilege_wrsr {n : Fin 4096} (h : 8 ≤ n.val ∨ n.val = 0) (a : Fin 64) : needsPrivilege (.wrsr n a) = true := by
  simpa [needsPrivilege, sysRegPrivileged] using h

/-- Settles O10: task start and `ERET` set the level as they are defined, trap entry by the strand it leaves, and each privileged form is
one that its strands have and that the check stops for its privilege alone. -/
theorem privilegeLevels : Obligations.PrivilegeLevels := by
  refine ⟨fun _ _ _ => rfl, fun s code v o h => ?_, fun s es n => ?_, fun w lim addr syl i hi => ?_⟩
  · obtain ⟨t, ht, hstrand⟩ := State.raise_strand_of_canTrap h code v o
    exact ⟨t, ht, by rw [hstrand, Strand.trapped], by rw [hstrand, Strand.trapped]⟩
  · rw [State.eret, State.strand_onStrand]
  · obtain ⟨hw, hmajor⟩ | rfl | ⟨d, n, hn, rfl⟩ | ⟨n, a, hn, rfl⟩ := hi
    · obtain ⟨hgroup, hpriv⟩ : groupOf i = .privileged ∧ needsPrivilege i = true := by
        obtain ⟨a, rfl⟩ | ⟨a, b, rfl⟩ | rfl | ⟨a, rfl⟩ | ⟨a, rfl⟩ := hmajor <;> exact ⟨rfl, rfl⟩
      exact checkItem_of_needsPrivilege (strandOk_of_privileged hw hgroup) hpriv lim addr syl
    · exact checkItem_of_needsPrivilege (strandOk_of_control w rfl) rfl lim addr syl
    · exact checkItem_of_needsPrivilege (strandOk_of_scalar w rfl) (needsPrivilege_rdsr hn d) lim addr syl
    · exact checkItem_of_needsPrivilege (strandOk_of_scalar w rfl) (needsPrivilege_wrsr hn a) lim addr syl

end Sys2Proof.Machine
end

section
/-! PROOFS. The decoder on a word whose major and func are known (02_encoding.md, R45 to R52): one equation per instruction, for every
word, and the words of the spec's example with a few more read through them. -/

namespace Sys2Proof

/-! ## The length of an instruction and the check of its operands -/

/-- A syllable of any major but that of the long-immediate forms is an instruction of its own, whatever follows it (R39). -/
theorem decode_of_nMajor_ne {w : Nat} (h : nMajor w ≠ 0x37) (rest : List Nat) : decode w rest = (decodeOne w, 1) := by
  simp [decode, isLong, h]

/-- A syllable of the long-immediate major is read together with the next one (R39). -/
theorem decode_of_nMajor_long {w : Nat} (h : nMajor w = 0x37) (v : Nat) (rest : List Nat) :
    decode w (v :: rest) = (decodeLong w v, 2) := by
  simp [decode, isLong, h]

/-- A word with its unused fields zero stands for the instruction that its fields name, where that one is well-formed (R40). -/
theorem decode_eq_ok {w n : Nat} {rest : List Nat} {clean : Bool} {i j : Instr} (hrow : decode w rest = (form clean i, n))
    (hclean : clean = true) (hfields : i = j) (hwf : j.WellFormed) : decode w rest = (.ok j, n) := by
  rw [Instr.WellFormed] at hwf
  simp [hrow, form, hclean, hfields, hwf]

/-- A bit set in an unused field is refused, whatever the instruction (R40). -/
theorem decode_eq_encoding {w n : Nat} {rest : List Nat} {clean : Bool} {i : Instr} (hrow : decode w rest = (form clean i, n))
    (hclean : clean = false) : decode w rest = (.encoding, n) := by
  simp [hrow, form, hclean]

/-! ## The opcode map (R45 to R51): rows of the majors that hold one instruction -/

theorem decode_addi {w : Nat} (hmajor : nMajor w = 0x02) (rest : List Nat) :
    decode w rest = (form true (.addi (fD w) (fA w) (fImm13 w)), 1) := by
  simp [decode_of_nMajor_ne, decodeOne, hmajor]

theorem decode_ld64 {w : Nat} (hmajor : nMajor w = 0x08) (rest : List Nat) :
    decode w rest = (form true (.ld64 (fD w) (fA w) (fImm13 w)), 1) := by
  simp [decode_of_nMajor_ne, decodeOne, hmajor]

/-! ## Rows of the majors whose func, marker, cond or fsel tells the instruction -/

theorem decode_nop {w : Nat} (hmajor : nMajor w = 0x00) (hfunc : nF w = 0x00) (rest : List Nat) :
    decode w rest = (form (nD w == 0 && nA w == 0 && nB w == 0) .nop, 1) := by
  simp [decode_of_nMajor_ne, decodeOne, decodeMisc, hmajor, hfunc]

theorem decode_trap {w : Nat} (hmajor : nMajor w = 0x00) (hfunc : nF w = 0x01) (rest : List Nat) :
    decode w rest = (form (nD w == 0 && nA w == 0) (.trap (fB w)), 1) := by
  simp [decode_of_nMajor_ne, decodeOne, decodeMisc, hmajor, hfunc]

/-- `SEL` has a func for each of its sixteen predicates (R46). -/
theorem decode_sel {w : Nat} (p : Fin 16) (hmajor : nMajor w = 0x01) (hfunc : nF w = 0x20 + p.val) (rest : List Nat) :
    decode w rest = (form true (.sel (fD w) (fA w) (fB w) p), 1) := by
  rw [decode_of_nMajor_ne (by omega), decodeOne, hmajor]
  simp only [decodeAlu, hfunc]
  fin_cases p <;> rfl

theorem decode_cwait {w : Nat} (hmajor : nMajor w = 0x0F) (hfunc : nF w = 0x22) (rest : List Nat) :
    decode w rest = (form true (.cwait (fD w) (fA w) (fB w)), 1) := by
  simp [decode_of_nMajor_ne, decodeOne, decodeMemory, hmajor, hfunc]

/-- `BP` is cond 1 of the branches; pred names its predicate (R42). -/
theorem decode_bp {w : Nat} (hmajor : nMajor w = 0x10) (hcond : w / 4194304 % 8 = 1) (rest : List Nat) :
    decode w rest = (form true (.bp (Fin.ofNat 16 (w / 262144)) (fDisp w)), 1) := by
  simp [decode_of_nMajor_ne, decodeOne, decodeBranch, hmajor, hcond]

theorem decode_vadd {w : Nat} (hmajor : nMajor w = 0x21) (hfunc : nV w = 0) (rest : List Nat) :
    decode w rest = (form true (.vadd (fD w) (fA w) (fB w) (fT w)), 1) := by
  simp [decode_of_nMajor_ne, decodeOne, decodeVArith, hmajor, hfunc]

/-- `MOVL` is marker 0 of the long-immediate forms; the value's top bit stands in the first syllable, which must not carry the stop bit
(R41, R51, R52). -/
theorem decode_movl {w : Nat} (hmajor : nMajor w = 0x37) (hmarker : w % 4096 = 0) (v : Nat) (rest : List Nat) :
    decode w (v :: rest) =
      (form (!nStop w && nA w == 0) (.movl (fD w) (BitVec.ofNat 32 (w / 4096 % 2 * 2147483648 + v % 2147483648))), 2) := by
  simp [decode_of_nMajor_long, decodeLong, hmajor, hmarker]

/-- The P format takes the eight majors from 0x38 on; with bit 5 of fsel clear it is `PW` (R39, R45). -/
theorem decode_pw {w : Nat} (hmajor : 0x38 ≤ nMajor w) (hfsel : w / 2097152 % 2 = 0) (rest : List Nat) :
    decode w rest = (form true (.pw (Fin.ofNat 64 (w / 4194304)) (Fin.ofNat 32 (w / 65536)) (BitVec.ofNat 16 w)), 1) := by
  rw [decode_of_nMajor_ne (by omega), decodeOne]
  split
  case h_38 => simp [hmajor, hfsel]
  all_goals omega

/-- The majors that R45 leaves unassigned. -/
def unassignedMajors : List Nat :=
  [0x16, 0x17, 0x1A, 0x1B, 0x1C, 0x1D, 0x1E, 0x1F, 0x2A, 0x2B, 0x2C, 0x2D, 0x2E, 0x2F, 0x32, 0x33, 0x35, 0x36]

/-- An unassigned major is refused as an opcode, whatever its other bits (R45, R52). -/
theorem decode_of_mem_unassignedMajors {w m : Nat} (hm : m ∈ unassignedMajors) (hmajor : nMajor w = m) (rest : List Nat) :
    decode w rest = (.opcode, 1) := by
  fin_cases hm <;> simp [decode_of_nMajor_ne, decodeOne, hmajor]

/-- Settles O57: each word's major, and its func, marker, cond or fsel, choose the row of the opcode map; what is left is to read that
row's operand fields. -/
theorem decodeWords : Obligations.DecodeWords := by
  refine ⟨?addi, ?ld64, ?movl, ?pw, ?vadd, ?trap, ?sel, ?bp, ?cwait, ?unassigned, ?unusedField⟩
  case addi => exact decode_eq_ok (decode_addi rfl []) rfl rfl rfl
  case ld64 => exact decode_eq_ok (decode_ld64 rfl []) rfl rfl rfl
  case movl => exact decode_eq_ok (decode_movl rfl rfl 0x80001234 []) rfl rfl rfl
  case pw => exact decode_eq_ok (decode_pw (by decide) rfl []) rfl rfl rfl
  case vadd => exact decode_eq_ok (decode_vadd rfl rfl []) rfl rfl rfl
  case trap => exact decode_eq_ok (decode_trap rfl rfl []) rfl rfl rfl
  case sel => exact decode_eq_ok (decode_sel 7 rfl rfl []) rfl rfl rfl
  case bp => exact decode_eq_ok (decode_bp rfl rfl []) rfl rfl rfl
  case cwait => exact decode_eq_ok (decode_cwait rfl rfl []) rfl rfl rfl
  case unassigned => exact decode_of_mem_unassignedMajors (m := 0x2C) (by decide) rfl []
  case unusedField => exact decode_eq_encoding (decode_nop rfl rfl []) rfl

end Sys2Proof
end

section
/-! PROOFS. Vector results under the mask (05_vector.md, R121 to R124): the bits of packed lanes, of the nibbles that a mask names and of
a register written under it; the results that an elementwise form puts in flight; `VSEL` and `VSLIDE` through them. -/

namespace Sys2Proof

/-! ## Element types (R43, R122) -/

theorem ElemType.four_dvd_width (t : ElemType) : 4 ∣ t.width := by cases t <;> decide

theorem ElemType.width_dvd_register (t : ElemType) : t.width ∣ 4096 := by cases t <;> decide

theorem ElemType.width_pos (t : ElemType) : 0 < t.width := by cases t <;> decide

theorem ElemType.bits_le_width (t : ElemType) : t.bits ≤ t.width := by cases t <;> decide

namespace Machine

open Sys2Proof.Claims

/-! ## Lanes and elements, bit by bit -/

/-- The lanes of a width that divides the register fill it: bit i of lane j is a bit of the register. -/
theorem bit_of_lane_lt {w i j : Nat} (hw : w ∣ 4096) (hj : j < 4096 / w) (hi : i < w) : w * j + i < 4096 := by
  obtain ⟨c, hc⟩ := hw
  rw [hc, Nat.mul_div_cancel_left c (by omega)] at hj
  calc w * j + i < w * (j + 1) := by rw [Nat.mul_succ]; omega
    _ ≤ w * c := Nat.mul_le_mul_left w hj
    _ = 4096 := hc.symm

theorem testBit_lane (w : Nat) (v : VReg) (j i : Nat) : (lane w v j).testBit i = (decide (i < w) && v.getLsbD (w * j + i)) := by
  simp [lane, Nat.testBit_mod_two_pow, Nat.testBit_div_two_pow, BitVec.getLsbD, Nat.add_comm]

theorem testBit_elem (t : ElemType) (v : VReg) (j i : Nat) :
    (elem t v j).testBit i = (decide (i < t.bits) && v.getLsbD (t.width * j + i)) := by
  have hle := t.bits_le_width
  by_cases hi : i < t.bits
  · simp [elem, testBit_lane, hi, lt_of_lt_of_le hi hle]
  · simp [elem, hi]

theorem elem_lt (t : ElemType) (v : VReg) (j : Nat) : elem t v j < 2 ^ t.width :=
  calc elem t v j < 2 ^ t.bits := Nat.mod_lt _ (Nat.two_pow_pos _)
    _ ≤ 2 ^ t.width := Nat.pow_le_pow_right (by decide) t.bits_le_width

/-- The model reads an element of a register as the statements do. -/
theorem elemAtLane_eq_elem (t : ElemType) (v : VReg) (j : Nat) : elemAtLane t v j = elem t v j := by
  rw [elemAtLane, elem, lane, Nat.mod_mod_of_dvd _ (Nat.pow_dvd_pow 2 t.bits_le_width)]

theorem getElem!_elemsOf {t : ElemType} {j : Nat} (hj : j < t.count) (v : VReg) : (elemsOf t v)[j]! = elem t v j := by
  simp [elemsOf, hj, elemAtLane_eq_elem]

/-- Bit n of packed lanes is a bit of lane n / w. -/
theorem testBit_packLanes {w : Nat} (hw : 0 < w) (es : List Nat) (n : Nat) :
    (packLanes w es).testBit n = (es.getD (n / w) 0).testBit (n % w) := by
  induction es generalizing n with
  | nil => simp [packLanes]
  | cons e es ih =>
    rw [packLanes, Nat.add_comm, Nat.testBit_two_pow_mul_add _ (Nat.mod_lt _ (Nat.two_pow_pos w))]
    split
    · next h => simp [Nat.div_eq_of_lt h, Nat.mod_eq_of_lt h, Nat.testBit_mod_two_pow, h]
    · next h =>
      have hn : w ≤ n := Nat.le_of_not_lt h
      rw [ih, Nat.div_eq_sub_div hw hn, Nat.mod_eq_sub_mod hn, List.getD_cons_succ]

/-- Bit n of the lanes of a whole register is a bit of the value of lane n / w. -/
theorem getLsbD_packed {w : Nat} (hw : 0 < w) (hreg : w ∣ 4096) (f : Nat → Nat) {n : Nat} (hn : n < 4096) :
    (BitVec.ofNat 4096 (packLanes w ((List.range (4096 / w)).map f))).getLsbD n = (f (n / w)).testBit (n % w) := by
  have hlane : n / w < 4096 / w := Nat.div_lt_div_of_lt_of_dvd hreg hn
  rw [BitVec.getLsbD_ofNat, testBit_packLanes hw]
  simp [hn, hlane]

/-! ## Masks (R123) -/

/-- The bits of the first k nibbles that a mask names. -/
def namedNibbles (mask : Mask) (k : Nat) : Nat :=
  (List.range k).foldl (fun acc n => if mask.getLsbD n then acc + 15 * 2 ^ (4 * n) else acc) 0

theorem namedNibbles_succ (mask : Mask) (k : Nat) :
    namedNibbles mask (k + 1) = 2 ^ (4 * k) * (if mask.getLsbD k then 15 else 0) + namedNibbles mask k := by
  rw [namedNibbles, List.range_succ, List.foldl_append, ← namedNibbles, List.foldl_cons, List.foldl_nil]
  split <;> omega

theorem namedNibbles_lt (mask : Mask) (k : Nat) : namedNibbles mask k < 2 ^ (4 * k) := by
  induction k with
  | zero => exact Nat.one_pos
  | succ k ih =>
    rw [namedNibbles_succ, Nat.mul_succ, Nat.pow_add]
    split <;> omega

theorem testBit_nibble (on : Bool) (i : Nat) : (if on then 15 else 0 : Nat).testBit i = (on && decide (i < 4)) := by
  cases on
  · exact Nat.zero_testBit i
  · exact Nat.testBit_two_pow_sub_one 4 i

theorem testBit_namedNibbles (mask : Mask) (k n : Nat) :
    (namedNibbles mask k).testBit n = (decide (n / 4 < k) && mask.getLsbD (n / 4)) := by
  induction k with
  | zero => simp [namedNibbles]
  | succ k ih =>
    rw [namedNibbles_succ, Nat.testBit_two_pow_mul_add _ (namedNibbles_lt mask k), ih, testBit_nibble]
    obtain hbelow | rfl | habove := Nat.lt_trichotomy (n / 4) k
    · simp [hbelow, show n < 4 * k by omega, show n / 4 < k + 1 by omega]
    · simp [show ¬ n < 4 * (n / 4) by omega, show n - 4 * (n / 4) < 4 by omega]
    · simp [show ¬ n < 4 * k by omega, show ¬ n - 4 * k < 4 by omega, show ¬ n / 4 < k + 1 by omega]

/-- A register written under a mask: each bit comes from the new value where the mask names its nibble, and stays elsewhere. -/
theorem getLsbD_mergeNibbles (old new : VReg) (mask : Mask) {n : Nat} (hn : n < 4096) :
    (mergeNibbles old new mask).getLsbD n = if mask.getLsbD (n / 4) then new.getLsbD n else old.getLsbD n := by
  have hnibble : n / 4 < 1024 := by omega
  rw [mergeNibbles]
  split
  · next hall => rw [hall, BitVec.getLsbD_allOnes, decide_eq_true hnibble, if_pos rfl]
  · dsimp only
    rw [← namedNibbles, BitVec.getLsbD_or, BitVec.getLsbD_and, BitVec.getLsbD_and, BitVec.getLsbD_not, BitVec.getLsbD_ofNat,
      testBit_namedNibbles, decide_eq_true hn, decide_eq_true hnibble]
    cases mask.getLsbD (n / 4) <;> simp

/-- Nibble q of the mask of a width is on where the lane that holds it is active. -/
theorem getLsbD_laneMask {w : Nat} (h4 : 4 ∣ w) (hw : 0 < w) (hreg : w ∣ 4096) (top : Mask) {q : Nat} (hq : q < 1024) :
    (laneMask top w).getLsbD q = laneOn top w (q / (w / 4)) := by
  obtain ⟨u, rfl⟩ := h4
  have hu : 0 < u := by omega
  have hcount : 4096 / (4 * u) = 1024 / u := by rw [← Nat.div_div_eq_div_mul]
  have hlane : q / u < 1024 / u := Nat.div_lt_div_of_lt_of_dvd (Nat.dvd_of_mul_dvd_mul_left (by decide : 0 < 4) hreg) hq
  have hfirst : q / u * u < 1024 := lt_of_le_of_lt (Nat.div_mul_le_self q u) hq
  rw [laneMask, Nat.mul_div_cancel_left u (by decide : 0 < 4), hcount]
  split
  · next hall =>
    rw [hall, laneOn, Nat.mul_div_cancel_left u (by decide : 0 < 4), BitVec.getLsbD_allOnes, BitVec.getLsbD_allOnes,
      decide_eq_true hq, decide_eq_true hfirst]
  · rw [BitVec.getLsbD_ofNat, testBit_packLanes hu, decide_eq_true hq]
    cases hon : laneOn top (4 * u) (q / u) <;> simp [hlane, hon, Nat.testBit_two_pow_sub_one, Nat.mod_lt _ hu]

/-! ## Results of elementwise forms (R121, R123) -/

/-- The effect that an elementwise form of type t puts in flight for vd. -/
def State.eachEffect (s : State) (d : Fin 64) (t : ElemType) (f : Nat → Nat × Flags) : Effect :=
  .vec [(physV s.who s.strand d, BitVec.ofNat 4096 (packLanes t.width
    ((List.range t.count).map fun j => if active s t.width j then (f j).1 else 0)))] (laneMask s.top t.width)

/-- The flags that an elementwise form of type t raises: those of the active elements. -/
def State.eachFlags (s : State) (t : ElemType) (f : Nat → Nat × Flags) : Flags :=
  orAll ((List.range t.count).map fun j => if active s t.width j then (f j).2 else 0)

/-- An elementwise form puts one result in flight, and nothing else of the state changes. -/
theorem State.each_eq (s : State) (d : Fin 64) (t : ElemType) (l : Nat) (f : Nat → Nat × Flags) :
    s.each d t l f = .next (Claims.inFlight s (s.eachEffect d t f) (s.eachFlags t f) (vecLat s l)) := by
  have hlanes : ∀ j, (if laneOn s.top t.width j then f j else (0, 0)) =
      (if active s t.width j then (f j).1 else 0, if active s t.width j then (f j).2 else 0) := fun j => by
    rw [active, laneOn]
    split <;> rfl
  have hd : d + Fin.ofNat 64 0 = d := Fin.add_zero d
  simp only [State.each, issue, State.emitLanes, hlanes, List.range_one, List.map_cons, List.map_nil, List.zipIdx_cons, List.zipIdx_nil,
    List.flatMap_cons, List.flatMap_nil, List.append_nil, List.map_map, Function.comp_def, hd]
  rfl

/-- An elementwise form depends on the values of the register's own elements only. -/
theorem State.each_congr (s : State) (d : Fin 64) (t : ElemType) (l : Nat) {f g : Nat → Nat × Flags} (h : ∀ j, j < t.count → f j = g j) :
    s.each d t l f = s.each d t l g := by
  have hvalues : s.eachEffect d t f = s.eachEffect d t g := by
    rw [State.eachEffect, List.map_congr_left fun j hj => by rw [h j (List.mem_range.mp hj)], ← State.eachEffect]
  have hflags : s.eachFlags t f = s.eachFlags t g := by
    rw [State.eachFlags, List.map_congr_left fun j hj => by rw [h j (List.mem_range.mp hj)], ← State.eachFlags]
  rw [State.each_eq, State.each_eq, hvalues, hflags]

/-- A form that raises no flag in any element raises none. -/
theorem State.eachFlags_zero (s : State) (t : ElemType) (f : Nat → Nat) : (s.eachFlags t fun j => (f j, 0)) = 0 := by
  simp only [State.eachFlags, ite_self]
  induction t.count with
  | zero => rfl
  | succ n ih => simpa [orAll, List.range_succ] using ih

/-- The strand after an elementwise form's result is written: vd is merged under the mask, and the rest stays. -/
theorem State.strand_applyEffect_eachEffect (s : State) (d : Fin 64) (t : ElemType) (f : Nat → Nat × Flags) :
    (s.applyEffect s.who (s.eachEffect d t f)).strand = { s.strand with
      v := s.strand.v.set (physV s.who s.strand d) (mergeNibbles (s.vr d) (BitVec.ofNat 4096 (packLanes t.width
        ((List.range t.count).map fun j => if active s t.width j then (f j).1 else 0))) (laneMask s.top t.width)) } := by
  simp [State.applyEffect, State.eachEffect, State.strand, State.vr]

theorem State.vr_applyEffect_eachEffect (s : State) (d : Fin 64) (t : ElemType) (f : Nat → Nat × Flags) :
    (s.applyEffect s.who (s.eachEffect d t f)).vr d = mergeNibbles (s.vr d) (BitVec.ofNat 4096 (packLanes t.width
      ((List.range t.count).map fun j => if active s t.width j then (f j).1 else 0))) (laneMask s.top t.width) := by
  simp only [State.vr, State.strand_applyEffect_eachEffect, State.applyEffect_who]
  exact Vector.getElem_set_self _

/-- Bit n of vd after an elementwise form: a bit of the value of its element where that is active, and the old bit elsewhere. -/
theorem State.getLsbD_vr_applyEffect_eachEffect (s : State) (d : Fin 64) (t : ElemType) (f : Nat → Nat × Flags) {n : Nat} (hn : n < 4096) :
    ((s.applyEffect s.who (s.eachEffect d t f)).vr d).getLsbD n =
      if active s t.width (n / t.width) then (f (n / t.width)).1.testBit (n % t.width) else (s.vr d).getLsbD n := by
  have h4 := t.four_dvd_width
  have hw := t.width_pos
  have hreg := t.width_dvd_register
  have hlane : n / 4 / (t.width / 4) = n / t.width := by rw [Nat.div_div_eq_div_mul, Nat.mul_div_cancel' h4]
  rw [State.vr_applyEffect_eachEffect, getLsbD_mergeNibbles _ _ _ hn, getLsbD_laneMask h4 hw hreg _ (by omega), hlane, ElemType.count,
    getLsbD_packed hw hreg _ hn, active, laneOn]
  split <;> rfl

/-- Lane j of vd after an elementwise form. -/
theorem State.lane_vr_applyEffect_eachEffect (s : State) (d : Fin 64) (t : ElemType) (f : Nat → Nat × Flags) {j : Nat} (hj : j < t.count) :
    lane t.width ((s.applyEffect s.who (s.eachEffect d t f)).vr d) j =
      if active s t.width j then (f j).1 % 2 ^ t.width else lane t.width (s.vr d) j := by
  refine Nat.eq_of_testBit_eq fun i => ?_
  rw [testBit_lane]
  by_cases hi : i < t.width
  · rw [State.getLsbD_vr_applyEffect_eachEffect s d t f (bit_of_lane_lt t.width_dvd_register hj hi),
      Nat.mul_add_div t.width_pos, Nat.div_eq_of_lt hi, Nat.mul_add_mod, Nat.mod_eq_of_lt hi]
    split <;> simp_all [testBit_lane]
  · split <;> simp [hi, testBit_lane]

/-- An instruction that runs as an elementwise form writes one register of elements under the mask. -/
theorem each_of_exec {i : Instr} {s : State} {d : Fin 64} {t : ElemType} {l : Nat} {f : Nat → Nat × Flags}
    (h : exec i s = s.each d t l f) : Each i s d t l f := by
  refine ⟨s.eachEffect d t f, ?_, fun k j hk hj => ?_, fun r hr => ?_, ?_, State.applyEffect_mod ..⟩
  · rw [h, State.each_eq]
    simp [State.eachFlags, orAll, ElemType.count]
  · obtain rfl : k = 0 := by omega
    simpa using State.lane_vr_applyEffect_eachEffect s d t f hj
  · have hne : (physV s.who s.strand d).val ≠ r.val := fun he => hr 0 Nat.one_pos (by simpa using Fin.ext he.symm)
    rw [State.strand_applyEffect_eachEffect]
    exact Vector.getElem_set_ne (Fin.isLt _) r.isLt hne
  · rw [State.strand_applyEffect_eachEffect]

/-! ## `VSEL` (R137) and `VSLIDE` (R145) -/

/-- The choice of the bits of x where z has ones, and of y elsewhere, within t's storage width. -/
def selectedBits (t : ElemType) (x y z : Nat) : Nat := (x &&& z) ||| (y &&& (2 ^ t.width - 1 - z))

theorem testBit_selectedBits (t : ElemType) (x y z : VReg) (j i : Nat) :
    (selectedBits t (elem t x j) (elem t y j) (elem t z j)).testBit i = (decide (i < t.bits) &&
      ((x.getLsbD (t.width * j + i) && z.getLsbD (t.width * j + i)) || (y.getLsbD (t.width * j + i) && !z.getLsbD (t.width * j + i)))) := by
  have hrest : (2 ^ t.width - 1 - elem t z j).testBit i = (decide (i < t.width) && !(elem t z j).testBit i) := by
    rw [Nat.sub_sub, Nat.add_comm 1, Nat.testBit_two_pow_sub_succ (elem_lt t z j)]
  rw [selectedBits, Nat.testBit_or, Nat.testBit_and, Nat.testBit_and, hrest, testBit_elem, testBit_elem, testBit_elem]
  by_cases hi : i < t.bits
  · simp [hi, lt_of_lt_of_le hi t.bits_le_width]
  · simp [hi]

theorem exec_vsel (d a b : Fin 64) (t : ElemType) (s : State) :
    exec (.vsel d a b t) s = s.each d t 2 fun j => (selectedBits t (elem t (s.vr a) j) (elem t (s.vr b) j) (elem t (s.vr d) j), 0) :=
  State.each_congr s d t 2 fun j hj => by simp only [getElem!_elemsOf hj, selectedBits]

theorem exec_vslide (d a b : Fin 64) (t : ElemType) (s : State) :
    exec (.vslide d a b t) s = s.each d t 3 fun j =>
      (if j < t.count - 1 then elem t (s.vr a) (j + 1) else elem t (s.vr b) 0, 0) :=
  State.each_congr s d t 3 fun j _ => by
    by_cases hj : j + 1 < t.count
    · simp only [hj, Nat.lt_sub_of_add_lt hj, if_true, getElem!_elemsOf hj]
    · simp only [hj, show ¬ j < t.count - 1 by omega, if_false, elemAtLane_eq_elem]

/-- Settles O30: `VSEL` is an elementwise form without flags, so that each bit of vd is one of its element's value or an old one. -/
theorem vectorSelect : Obligations.VectorSelect := by
  intro s d a b t
  refine ⟨s.eachEffect d t fun j => (selectedBits t (elem t (s.vr a) j) (elem t (s.vr b) j) (elem t (s.vr d) j), 0), ?_, fun n hn => ?_⟩
  · rw [exec_vsel, State.each_eq, State.eachFlags_zero]
  · rw [State.getLsbD_vr_applyEffect_eachEffect s d t _ hn, testBit_selectedBits, Nat.div_add_mod]

/-- Settles O31: `VSLIDE` is an elementwise form of its shifted sources. -/
theorem vectorSlide : Obligations.VectorSlide := fun s d a b t => each_of_exec (exec_vslide d a b t s)

end Machine

end Sys2Proof
end

section
/-! PROOFS. The branch on an empty mask (05_vector.md, R155): its encoding, its group of instructions and its condition. -/

namespace Sys2Proof

/-- `UBZ` has a major of its own; the bits between major and displacement are unused (R42, R45). -/
theorem decode_ubz {w : Nat} (hmajor : nMajor w = 0x14) (rest : List Nat) :
    decode w rest = (form (w / 262144 % 128 == 0) (.ubz (fDisp w)), 1) := by
  simp [decode_of_nMajor_ne, decodeOne, hmajor]

/-- The word of `UBZ` with a displacement, with either stop bit, stands for it (R39, R42). -/
theorem decode_encoded_ubz (i : BitVec 18) (stop : Fin 2) : decode (0x14 * 2 ^ 25 + i.toNat + stop.val * 2 ^ 31) [] = (.ok (.ubz i), 1) := by
  have hi : i.toNat < 262144 := i.isLt
  have hstop : stop.val < 2 := stop.isLt
  generalize hw : 0x14 * 2 ^ 25 + i.toNat + stop.val * 2 ^ 31 = w
  have hmajor : nMajor w = 0x14 := by rw [nMajor]; omega
  have hunused : w / 262144 % 128 = 0 := by omega
  have hdisp : fDisp w = i := BitVec.eq_of_toNat_eq (by rw [fDisp, BitVec.toNat_ofNat]; omega)
  exact decode_eq_ok (decode_ubz hmajor []) (beq_of_eq hunused) (congrArg Instr.ubz hdisp) rfl

namespace Machine

theorem State.target_eq (s : State) (i : BitVec 18) : s.target i = Claims.target s i := rfl

theorem exec_ubz (s : State) (i : BitVec 18) :
    exec (.ubz i) s = issue (s.jumpIf (!s.strand.masks.isEmpty && s.top == 0) (s.target i)) := rfl

/-- At depth 0 there is no top to be empty, and the branch is not taken. -/
theorem exec_ubz_of_masks_nil {s : State} (h : s.strand.masks = []) (i : BitVec 18) : exec (.ubz i) s = .next s := by
  simp only [exec_ubz, h, List.isEmpty_nil, Bool.not_true, Bool.false_and]
  rfl

theorem exec_ubz_of_masks_cons {s : State} {top : Mask} {rest : List Mask} (h : s.strand.masks = top :: rest) (i : BitVec 18) :
    exec (.ubz i) s = .next (if top = 0 then Claims.goesTo s (Claims.target s i) else s) := by
  have htop : s.top = top := by rw [State.top, h, List.headD_cons]
  simp only [exec_ubz, htop, h, State.jumpIf, State.target_eq, List.isEmpty_cons, Bool.not_false, Bool.true_and, beq_iff_eq]
  rfl

theorem strandOk_ubz (w : Who) (i : BitVec 18) : strandOk w (.ubz i) = true ↔ w = .x := by
  have hgroup : groupOf (.ubz i) = .ubz := rfl
  cases w <;> simp [strandOk, hgroup]

/-- Settles O20: the two depths of the mask stack, the group of instructions that `UBZ` makes up, and its encoding. -/
theorem branchOnEmptyMask : Obligations.BranchOnEmptyMask := fun _ i w =>
  ⟨fun h => exec_ubz_of_masks_nil h i, fun _ _ h => exec_ubz_of_masks_cons h i, rfl, strandOk_ubz w i, decode_encoded_ubz i⟩

end Machine

end Sys2Proof
end

section
/-! PROOFS. The rings of a core (07_core_storage.md, R179; 08_core_engines.md, R222): settling a ring, redefining it, and the words that claims use. -/

namespace Sys2Proof.Machine

open Sys2Proof.Claims

/-! ## Lists in the order of their keys -/

/-- In a list in the order of its keys, those up to a bound come first. -/
theorem filter_le_append_filter_lt {α : Type} {l : List (Nat × α)} (h : (l.map (·.1)).Pairwise (· ≤ ·)) (c : Nat) :
    (l.filter fun d => d.1 ≤ c) ++ (l.filter fun d => c < d.1) = l := by
  induction l with
  | nil => rfl
  | cons d l ih =>
    obtain ⟨hd, hl⟩ := List.pairwise_cons.mp h
    by_cases hc : d.1 ≤ c
    · simpa [hc, Nat.not_lt.mpr hc] using ih hl
    · have hlate : ∀ x ∈ l, c < x.1 := fun x hx => Nat.lt_of_lt_of_le (Nat.lt_of_not_le hc) (hd x.1 (List.mem_map_of_mem hx))
      have hnone : (l.filter fun d => d.1 ≤ c) = [] := List.filter_eq_nil_iff.mpr fun x hx => by simpa using hlate x hx
      have hall : (l.filter fun d => c < d.1) = l := List.filter_eq_self.mpr fun x hx => by simpa using hlate x hx
      simp [hc, Nat.lt_of_not_le hc, hnone, hall]

/-! ## Settling a ring -/

theorem inOrder_mono {r : Ring} {c now : Nat} (h : inOrder r c) (hc : c ≤ now) : inOrder r now :=
  ⟨h.1, fun d hd => Nat.le_trans (h.2 d hd) (by omega)⟩

/-- Settling drops definitions from the front, so that the order stays. -/
theorem inOrder_settled {r : Ring} {c : Nat} (h : inOrder r c) (w : Word) : inOrder ⟨w, (r.settled c).changes⟩ c :=
  ⟨h.1.sublist (List.filter_sublist.map _), fun d hd => h.2 d (List.mem_of_mem_filter hd)⟩

theorem Ring.at_eq (r : Ring) (now : Nat) : r.at now = ((r.changes.filter fun d => d.1 ≤ now).map (·.2)).foldl redefined r.word := rfl

theorem Ring.latest_settled {r : Ring} {c : Nat} (h : inOrder r c) : (r.settled c).latest = r.latest := by
  unfold Ring.latest
  conv_rhs => rw [← filter_le_append_filter_lt h.1 c]
  simp [Ring.settled]

/-- From a cycle on, the ring settled in that cycle gives what the ring gives. -/
theorem Ring.at_settled {r : Ring} {c now : Nat} (h : inOrder r c) (hc : c ≤ now) : (r.settled c).at now = r.at now := by
  have hsplit : (r.changes.filter fun d => d.1 ≤ now) =
      (r.changes.filter fun d => d.1 ≤ c) ++ ((r.changes.filter fun d => c < d.1).filter fun d => d.1 ≤ now) := by
    conv_lhs => rw [← filter_le_append_filter_lt h.1 c]
    rw [List.filter_append, List.filter_filter]
    congr 1
    exact List.filter_congr fun d _ => by simp; omega
  rw [Ring.at_eq, Ring.at_eq, hsplit]
  simp [Ring.settled]

/-- What stands settled in a cycle has nothing of that cycle to come. -/
theorem Ring.at_changes_settled (r : Ring) (c : Nat) (w : Word) : (⟨w, (r.settled c).changes⟩ : Ring).at c = w := by
  have hnone : ((r.changes.filter fun d => c < d.1).filter fun d => d.1 ≤ c) = [] :=
    List.filter_eq_nil_iff.mpr fun d hd => by simpa using (List.mem_filter.mp hd).2
  simp [Ring.at_eq, Ring.settled, hnone]

/-- Claims move the pointers of the definition that they use, and no definition to come (R180, R222). -/
theorem Ring.at_claimed (r : Ring) (c : Nat) (dest : Bool) : (r.claimed c dest).at c = ringNext (r.at c) dest := r.at_changes_settled c _

/-! ## A new definition -/

theorem Ring.redefine_changes (r : Ring) (c : Nat) (d : Option Word) :
    (r.redefine c d).changes = (r.settled c).changes ++ [(c + 2, d)] := rfl

theorem Ring.redefine_word (r : Ring) (c : Nat) (d : Option Word) : (r.redefine c d).word = (r.settled c).word := rfl

theorem inOrder_redefine {r : Ring} {c : Nat} (h : inOrder r c) (d : Option Word) : inOrder (r.redefine c d) c := by
  obtain ⟨hsorted, hnear⟩ := inOrder_settled h (r.settled c).word
  constructor
  · rw [Ring.redefine_changes, List.map_append, List.pairwise_append]
    refine ⟨hsorted, List.pairwise_singleton .., fun a ha b hb => ?_⟩
    obtain ⟨x, hx, rfl⟩ := List.mem_map.mp ha
    simpa using (List.mem_singleton.mp hb) ▸ hnear x hx
  · intro x hx
    rw [Ring.redefine_changes, List.mem_append, List.mem_singleton] at hx
    obtain hx | rfl := hx
    · exact hnear x hx
    · exact Nat.le_refl _

/-- The newest definition of a ring is the one that it was given last. -/
theorem Ring.latest_redefine {r : Ring} {c : Nat} (h : inOrder r c) (d : Option Word) : (r.redefine c d).latest = redefined r.latest d := by
  rw [← Ring.latest_settled h]
  simp [Ring.latest, Ring.redefine_changes, Ring.redefine_word]

/-- From the second cycle on, claims use the newest definition: none is later. -/
theorem Ring.at_redefine_of_late {r : Ring} {c now : Nat} (h : inOrder r c) (d : Option Word) (hnow : c + 2 ≤ now) :
    (r.redefine c d).at now = (r.redefine c d).latest := by
  have hall : ((r.redefine c d).changes.filter fun d => d.1 ≤ now) = (r.redefine c d).changes :=
    List.filter_eq_self.mpr fun x hx => by simpa using Nat.le_trans ((inOrder_redefine h d).2 x hx) hnow
  rw [Ring.at_eq, hall, Ring.latest]

/-- Before that, they use what they would have used without it. -/
theorem Ring.at_redefine_of_early {r : Ring} {c now : Nat} (h : inOrder r c) (d : Option Word) (hc : c ≤ now) (hnow : now < c + 2) :
    (r.redefine c d).at now = r.at now := by
  rw [← Ring.at_settled h hc]
  simp [Ring.at_eq, Ring.redefine_changes, Ring.redefine_word, Nat.not_le.mpr hnow]

/-! ## The two instructions -/

theorem exec_ringdef (s : State) (r : Fin 8) (f : Fin 64) (n : Fin 16) :
    exec (.ringdef r f n) s = .next (s.setRing r ((s.core.ring[r]).redefine s.cycle (some (BitVec.ofNat 64 (2 ^ 31 + n.val * 2 ^ 8 + f.val))))) :=
  rfl

theorem exec_ringdefU (s : State) (r : Fin 8) : exec (.ringdefU r) s = .next (s.setRing r ((s.core.ring[r]).redefine s.cycle none)) := rfl

theorem State.setRing_ring (s : State) (r : Fin 8) (g : Ring) : (s.setRing r g).core.ring[r] = g := by simp [State.setRing]

theorem State.setRing_ring_of_ne (s : State) {r j : Fin 8} (h : j ≠ r) (g : Ring) : (s.setRing r g).core.ring[j] = s.core.ring[j] := by
  simp [State.setRing, Ne.symm (Fin.val_ne_of_ne h)]

/-- The fields of a new definition's word (R179, R222). -/
theorem ringFields_defined (f : Fin 64) (n : Fin 16) :
    let w : Word := BitVec.ofNat 64 (2 ^ 31 + n.val * 2 ^ 8 + f.val)
    ringD w = true ∧ ringFirst w = f.val ∧ ringCount w = n.val + 1 ∧ ringHead w = 0 ∧ ringTail w = 0 := by
  have hw : (BitVec.ofNat 64 (2 ^ 31 + n.val * 2 ^ 8 + f.val)).toNat = 2 ^ 31 + n.val * 2 ^ 8 + f.val := by
    rw [BitVec.toNat_ofNat]; omega
  simp only [ringD, ringFirst, ringCount, ringHead, ringTail, bitsOf, BitVec.getLsbD, Nat.testBit_eq_decide_div_mod_eq, hw, decide_eq_true_eq]
  omega

theorem ringD_undefinedRing (w : Word) : ringD (undefinedRing w) = false := by
  have hbit : (BitVec.ofNat 64 (2 ^ 31)).getLsbD 31 = true := by decide
  simp only [ringD, undefinedRing, BitVec.getLsbD_and, BitVec.getLsbD_not, hbit, Bool.not_true, Bool.and_false]

/-- Settles O27: both forms give the ring a definition of the second cycle from the issue, after which a ring in order has none. -/
theorem ringDefinitions : Obligations.RingDefinitions := by
  intro s r f n h
  refine ⟨fun now hnow => inOrder_mono h hnow, fun dest => ⟨inOrder_settled h _, Ring.at_claimed _ _ dest⟩,
    ⟨_, exec_ringdef s r f n, rfl, rfl, rfl, rfl, fun j hj => s.setRing_ring_of_ne hj _, ?_⟩,
    ⟨_, exec_ringdefU s r, rfl, rfl, rfl, rfl, fun j hj => s.setRing_ring_of_ne hj _, ?_⟩⟩
  · rw [State.setRing_ring]
    refine ⟨inOrder_redefine h _, fun now => Ring.at_redefine_of_late h _, fun now => Ring.at_redefine_of_early h _, ?_⟩
    rw [Ring.latest_redefine h]
    exact ringFields_defined f n
  · rw [State.setRing_ring]
    refine ⟨inOrder_redefine h _, ?_, Ring.latest_redefine h _, fun now => Ring.at_redefine_of_late h _,
      fun now => Ring.at_redefine_of_early h _⟩
    rw [Ring.latest_redefine h]
    exact ringD_undefinedRing _

end Sys2Proof.Machine
end

section
/-! PROOFS. A promotion whose result has no place (17_madder.md, R413, R419, R423): `KV_PROMOTE` checks the place of its result before it acts
(log entry 58), but its effect as stated meets a place that is not there only in writing the result, and a promotion that waits for its moves
has not written it yet. -/

namespace Sys2Proof.Machine

open Sys2Proof.Claims

/-! ## Heads that start -/

/-- A head that names no operand makes no claim, where none before it waits for a ring. -/
theorem State.headClaims_of_operandsOf_nil {s : State} {q : Fin 8} {c : Command} (hclaimed : c.claimed = false) (hbarred : s.barred q c = false)
    (hnone : operandsOf c.image = []) : s.headClaims q c = .ok (s, { c with claimed := true }) := by
  simp [State.headClaims, hclaimed, hbarred, hnone, State.claimAll]

/-- The engine works on a head that starts, from the state in which it has taken it up. -/
theorem State.engineStep_of_starts {s t : State} {q : Fin 8} {e op : Nat} {c c1 : Command} (hstarts : HeadStarts s q e op c)
    (htaken : Claims.Taken s q c t c1) (f : Work) : s.engineStep q e op f = .next (t.work q c1 f) := by
  obtain ⟨hhead, hengine, hop⟩ := hstarts
  obtain ⟨u, c0, hclaims, rfl, rfl⟩ := htaken
  simp only [State.engineStep, hhead, hengine, hop, hclaims, decide_true, Bool.and_self, if_true, Bool.or_eq_true, decide_eq_true_eq]

theorem State.work_of_fault {s t : State} {c d : Command} {f : Work} {x : EngineFault} (q : Fin 8) (h : f s c = (t, d, .fault x)) :
    s.work q c f = t.faultCommand false q d x true := by
  simp only [State.work, h]

/-- A command that stands among the started ones leaves its queue as frozen as it was. -/
theorem Stands_frozen (u : State) (q : Fin 8) (c : Command) (dur : Option Nat) :
    ((Stands u q c dur).core.queue[q]).frozen = (u.core.queue[q]).frozen := by
  cases dur <;> simp [Stands, Signals]

/-! ## Promotions -/

theorem exec_kvPromote_of_starts {s : State} {c : Command} (h : HeadStarts s 5 5 6 c) : exec .kvPromote s = s.engineStep 5 5 6 kvPromoteWork := by
  show s.madStep 6 none kvPromoteWork = _
  simp only [State.madStep, h.1, HeadState.command, Option.all_none, if_true]

theorem kvPromoteWork_of_madPlace {s : State} {c : Command} {f : EngineFault} (h : s.madPlace c = some f) :
    kvPromoteWork s c = (s, c, .fault f) := by
  simp only [kvPromoteWork, h]

/-- A promotion that starts and whose result has no place is cut before it reads anything. -/
theorem exec_kvPromote_of_madPlace {s t : State} {c c1 : Command} {f : EngineFault} (hstarts : HeadStarts s 5 5 6 c)
    (htaken : Claims.Taken s 5 c t c1) (hplace : t.madPlace c1 = some f) :
    exec .kvPromote s = .next (t.faultCommand false 5 c1 f true) := by
  rw [exec_kvPromote_of_starts hstarts, State.engineStep_of_starts hstarts htaken, State.work_of_fault 5 (kvPromoteWork_of_madPlace hplace)]

/-- An effect waits at its cursor, with queue q not frozen. -/
def waitsUnfrozen (q : Fin 8) : Except EngineFault (State × Command × Option Nat) → Bool
  | .ok (w, _, none) => !(w.core.queue[q]).frozen
  | _ => false

theorem waitsUnfrozen_iff {q : Fin 8} {r : Except EngineFault (State × Command × Option Nat)} :
    waitsUnfrozen q r = true ↔ ∃ w c, r = .ok (w, c, none) ∧ (w.core.queue[q]).frozen = false := by
  unfold waitsUnfrozen
  split
  · simp
  · next h =>
    simp only [Bool.false_eq_true, false_iff]
    rintro ⟨w, c, rfl, -⟩
    exact h w c rfl

/-! ## The counterexample -/

/-- A pool of one sequence at 0x1000 and four records at 0x2000, with its frames from 0x8000 on and its ready counter at 0x200000 (R397). The
moves of its records 1 and 2, out of a lender's frame, are under way. -/
def movingPool : Pool :=
  { (default : Pool) with
    record := bytesOfNat 8 0x1000 ++ bytesOfNat 8 1 ++ bytesOfNat 8 0x2000 ++ bytesOfNat 8 4 ++ bytesOfNat 8 0x8000 ++ bytesOfNat 8 2 ++ zeros 8 ++
      bytesOfNat 8 0x200000 ++ zeros 192
    moves := [1, 2].map fun r => { (default : Move) with record := r, tier := 2, module := 1 } }

/-- The pool's sequence: 64 tokens of one layer and one head, whose page index 0 names records 1 and 2, both IN_TRANSIT (R400 to R406). -/
def movingMemory : Memory :=
  let seq : Seq := { (default : Seq) with btbase := 0x4000, len := 64, pages := 1, layers := 1, heads := 1, w := 64, live := true }
  let page (slot : Nat) : Page := { (default : Page) with slot := slot, state := 2, refcount := 1 }
  let m := Memory.write (Memory.write [] 0x1000 (seqBytes seq)) 0x4000 (bytesOfNat 8 (1 + 2 * 2 ^ 32))
  Memory.write (Memory.write m 0x2400 (pageBytes (page 0))) 0x2800 (pageBytes (page 2))

/-- `KV_PROMOTE` of page index 0 of handle 0, its result at 0x80000 (R419, R423). -/
def promotion : Command :=
  { (default : Command) with
    image := BitVec.ofNat 512 (5 * 2 ^ 12 + 6 * 2 ^ 6 + (2 ^ 31 + 0x80000) * 2 ^ 192 + 2 ^ 224), by_ := .a, cursor := .start }

/-- A core with two ways of scratchpad, 0x80000 bytes, in a live partition with the pool: the promotion heads its queue. The flat page 0 and
the counter page 1 are mapped to themselves. -/
def promoting : State :=
  { State.reset with
    core := { Core.reset 0 0 0 with ways := 2, queue := (Core.reset 0 0 0).queue.set 5 { Queue.empty with waiting := [promotion] } }
    mod := { Module.reset with
      parts := Module.reset.parts.set 0 { Partition.reset with state := .live, desc := ((zeros 128).set 0 1).set 24 1, pool := some movingPool }
      tlb := [⟨0, none, 0, 1, 0, 0x33⟩, ⟨0, none, 0, 1, 1, 0x2000B3⟩, ⟨0, some 0, 0, 1, 0, 0x33⟩, ⟨0, some 0, 0, 1, 1, 0x2000B3⟩]
      mem := movingMemory } }

/-- The state and the command once the engine has taken the promotion up. -/
def promotingTaken : State := promoting.putQueue false 5 ((promoting.core.queue[(5 : Fin 8)]).remove promotion.seq)
def promotionTaken : Command := { promotion with claimed := true }

theorem promoting_starts : HeadStarts promoting 5 5 6 promotion := by
  unfold HeadStarts
  decide +kernel

theorem promoting_taken : Claims.Taken promoting 5 promotion promotingTaken promotionTaken := by
  have hbarred : promotingTaken.barred 5 promotion = false := by decide +kernel
  exact ⟨_, _, State.headClaims_of_operandsOf_nil rfl hbarred (by decide +kernel), rfl, rfl⟩

/-- Its result would lie past the end of the scratchpad, and its queue is frozen when it has been cut. -/
theorem promoting_cut :
    promotingTaken.madPlace promotionTaken = some (mkFault 0x14 0x80000) ∧
    ((promotingTaken.faultCommand false 5 promotionTaken (mkFault 0x14 0x80000) true).core.queue[(5 : Fin 8)]).frozen = true := by
  decide +kernel

/-- By its effect as stated it waits for the two moves. -/
theorem promoting_waits : waitsUnfrozen 5 (promoteEffect promotingTaken promotionTaken) = true := by decide +kernel

/-- Refutes O42: a `KV_PROMOTE` with RES whose result place lies past the scratchpad, and which waits for moves of its range, is cut at once by
the model, with a frozen queue; its stated effect leaves it waiting. -/
theorem not_engineCommands : ¬ Obligations.EngineCommands := by
  rintro ⟨-, -, hstore, -⟩
  obtain ⟨-, -, -, -, -, -, -, hpromote, -⟩ := hstore
  obtain ⟨hplace, hfrozen⟩ := promoting_cut
  obtain ⟨w, c, heffect, hunfrozen⟩ := waitsUnfrozen_iff.mp promoting_waits
  have hstands : exec .kvPromote promoting = .next (Stands w 5 c none) :=
    hpromote promoting promotion promotingTaken promotionTaken w c none trivial (.inl ⟨promoting_starts, promoting_taken⟩) heffect
  rw [exec_kvPromote_of_madPlace promoting_starts promoting_taken hplace] at hstands
  injection hstands with hsame
  rw [hsame, Stands_frozen, hunfrozen] at hfrozen
  exact Bool.false_ne_true hfrozen

end Sys2Proof.Machine
end
